-- ==== Sys2Proof/Word.lean ====
section
/-! DEFINITION. The word types of the NF2460 and their plainest arithmetic (00_scope.md, "Notation"). -/

namespace Sys2Proof

/-- One byte of an image, a packet, a frame or a memory. -/
abbrev Byte := BitVec 8

/-- One register word (00_scope.md R5: every register access is 32 bits wide). -/
abbrev Word := BitVec 32

end Sys2Proof
end

