-- ==== Sys2Proof/Syntax.lean ====
section
/-! DEFINITION. The commands of the NF2460: one constructor for each row of spec/opcode_table.json, with the operands that
come from outside the chip at that step. Every command says in `When` how much time has passed since the one before it. -/

namespace Sys2Proof

/-- The time since the step before: `dt` MCLK cycles, `da` Aperture (ACLK) cycles, `du` microseconds of AON time. The three
clocks are independent oscillators (14 R365, 21 R526), so the sender gives each. -/
structure When where
  dt : Nat
  da : Nat
  du : Nat
  deriving DecidableEq, Repr

/-- A register write as the fabric brings it: the source port (05 R122) and the word. -/
structure Wr where
  src : Nat
  val : Word
  deriving DecidableEq, Repr

/-- The kinds of request packet (05 R124). -/
inductive ReqKind where
  | read
  | write
  | msg
  deriving DecidableEq, Repr

/-- A request packet at the fabric (05 R123, R124). -/
structure Req where
  src  : Nat
  kind : ReqKind
  fa   : Nat
  flen : Nat
  tag  : Nat
  cls  : Nat
  dst  : Nat
  data : List Byte
  deriving DecidableEq, Repr

/-- Errors of one line read from the DRAM devices: exclusive-or masks by codeword symbol of a data line (`line` counts the
data lines of the access from 0, symbols 0 to 63 data and 64 to 71 check bytes) and by byte of a group's check line. The
devices are board parts; what their cells return is an input (07 R189). -/
structure EccErr where
  line  : Nat
  check : Bool
  sym   : Nat
  mask  : Byte
  deriving DecidableEq, Repr

/-- A CSI-2 packet as the receiver sees it (13 R341). `hdr` 0 good, 1 single-bit ECC error, 2 multi-bit; `kind` 0 frame start,
1 frame end, 2 image line, 3 embedded data, 4 another type; a line start or line end packet is of kind 4 with data type 0x02 or 0x03. -/
structure CsiPacket where
  kind   : Nat
  vc     : Nat
  dt     : Nat
  hdr    : Nat
  crcBad : Bool
  sotBad : Bool
  pixels : List Nat
  bytes  : List Byte
  deriving DecidableEq, Repr

/-- A chain frame at a port: its bytes from the destination address to the FCS, and its ingress instant as store time in
nanoseconds (15 R401). -/
structure ChainFrame where
  bytes : List Byte
  fcsOk : Bool
  ts    : Int
  deriving DecidableEq, Repr

/-- A Guosh frame at the receiver (16 R417): header fields, payload and whether its CRC and codewords were good. -/
structure TwinFrame where
  offset  : Nat
  seq     : Nat
  payload : List Byte
  good    : Bool
  deriving DecidableEq, Repr

/-- What the boundary samples from outside (18 Table 18-5): raw die temperature in 0.01 °C before TSOFS, raw conversions of sense
channels for TEMPSNS inputs, and the periods of TREF_IN counted in the ending tick (15 Table 15-7). -/
structure BoundaryIn where
  die      : Int
  tsns     : List (Nat × Nat)
  trefPer  : Nat
  trefRate : Option Int
  deriving DecidableEq, Repr

/-- A serial debug request as sent (19 Table 19-1): word count, argument, data words, and whether its CRC was good. -/
structure SdpReq where
  cnt   : Nat
  arg   : Nat
  data  : List Word
  crcOk : Bool
  deriving DecidableEq, Repr

/-- What a power monitor shows (14 R375): its channel, and the level, in 1/65536 of full scale, at which its input has stood for 20 Aperture
cycles. -/
structure Monitor where
  chan : Nat
  lvl  : Nat
  deriving DecidableEq, Repr

/-- What the housekeeping processor shows when it stops (it stands outside the machine, 01 Table 1-4). -/
structure HkpView where
  pc   : Word
  regs : List Word
  deriving DecidableEq, Repr

/-- One constructor for each row of the table of operations and events; the docstrings name the row's rule. `d` names a
dispatch of the running tick by its position in the walk, `e` an engine, `c` a channel or context, `dom` a power domain; `ahead` says that MIG
reads on although a mirror write waits (the spec puts neither first). -/
inductive Instr where
  /-- R113 -/ | tickBoundary (w : When) (i : BoundaryIn)
  /-- R108 -/ | mailboxPush (w : When) (r : Wr)
  /-- R102 -/ | wait (w : When) (d : Nat)
  /-- R102 -/ | barrier (w : When) (d : Nat)
  /-- R115 -/ | slotOverrun (w : When) (d : Nat)
  /-- R115 -/ | deadline (w : When) (d : Nat)
  /-- R68 -/  | guardminClr (w : When) (r : Wr)
  /-- R120 -/ | mresselWrite (w : When) (r : Wr)
  /-- R120 -/ | flogselWrite (w : When) (r : Wr)
  /-- R9 -/   | wideLowRead (w : When) (src addr : Nat)
  /-- R11 -/  | wideHighWrite (w : When) (addr : Nat) (r : Wr)
  /-- R11 -/  | wideLowWrite (w : When) (addr : Nat) (r : Wr)
  /-- R4 -/   | registerWrite (w : When) (addr size : Nat) (r : Wr)
  /-- R12 -/  | snapCopyDone (w : When) (blk : Nat)
  /-- R96 -/  | fldSnap (w : When) (r : Wr)
  /-- R96 -/  | fldStart (w : When) (r : Wr)
  /-- R83 -/  | baseImageReceived (w : When) (bytes : List Byte) (ended : Bool)
  /-- R84 -/  | bootSourceTimeout (w : When)
  /-- R87 -/  | bootRetry (w : When)
  /-- R89 -/  | hotCheck (w : When) (r : Wr)
  /-- R91 -/  | hotDiscard (w : When) (r : Wr)
  /-- R90 -/  | hotCheckDone (w : When)
  /-- R77 -/  | svbump (w : When) (r : Wr)
  /-- R123 -/ | fabricRequest (w : When) (q : Req)
  /-- R133 -/ | egressDequeue (w : When) (e : Nat)
  /-- R139 -/ | responseDelivery (w : When) (src : Nat)
  /-- R151 -/ | qselWrite (w : When) (r : Wr)
  /-- R145 -/ | drainEnd (w : When) (dom : Nat)
  /-- R146 -/ | flushEnd (w : When) (dom : Nat)
  /-- R143 -/ | isolateEnd (w : When) (dom : Nat)
  /-- R454 -/ | powerSwitchOpen (w : When) (dom : Nat)
  /-- R163 -/ | dramRead (w : When) (d : Nat) (errs : List EccErr)
  /-- R163 -/ | dramWrite (w : When) (d : Nat) (errs : List EccErr)
  /-- R163 -/ | refab (w : When) (d : Nat)
  /-- R163 -/ | refpb (w : When) (d : Nat)
  /-- R178 -/ | mrr4 (w : When) (d : Nat)
  /-- R163 -/ | rfmab (w : When) (d : Nat)
  /-- R163 -/ | rfmpb (w : When) (d : Nat)
  /-- R181 -/ | zqlat (w : When) (d : Nat)
  /-- R163 -/ | sre (w : When) (d : Nat)
  /-- R207 -/ | srx (w : When) (d : Nat)
  /-- R178 -/ | mr4Return (w : When) (chan rank : Nat) (raw : Byte)
  /-- R170 -/ | elasticIssue (w : When) (c : Nat) (errs : List EccErr)
  /-- R195 -/ | retireCondemn (w : When) (r : Wr)
  /-- R198 -/ | retireStart (w : When) (r : Wr)
  /-- R201 -/ | retireAbort (w : When) (r : Wr)
  /-- R199 -/ | migCopy (w : When) (ahead : Bool)
  /-- R206 -/ | freqStepDone (w : When) (bad : Byte)
  /-- R206 -/ | freqChangeEnd (w : When)
  /-- R209 -/ | bootTrainingDone (w : When) (bad : Byte) (rfm : List (Nat × Nat))
  /-- R185 -/ | chmaxageClr (w : When) (c : Nat) (r : Wr)
  /-- R212 -/ | elogselWrite (w : When) (r : Wr)
  /-- R218 -/ | field (w : When) (d : Nat)
  /-- R226 -/ | raster (w : When) (d : Nat)
  /-- R228 -/ | vector (w : When) (d : Nat)
  /-- R228 -/ | pathElementEnd (w : When) (e : Nat)
  /-- R236 -/ | lseSnap (w : When) (r : Wr)
  /-- R236 -/ | clrmax (w : When) (r : Wr)
  /-- R312 -/ | frselWrite (w : When) (r : Wr)
  /-- R312 -/ | colselWrite (w : When) (r : Wr)
  /-- R246 -/ | fetchArray (w : When) (d : Nat)
  /-- R245 -/ | fetchLines (w : When) (d : Nat)
  /-- R247 -/ | fetchElasticRead (w : When) (e : Nat)
  /-- R252 -/ | push (w : When) (d : Nat)
  /-- R253 -/ | commit (w : When) (d : Nat)
  /-- R253 -/ | commitSend (w : When) (e : Nat)
  /-- R253 -/ | commitLate (w : When) (e : Nat)
  /-- R255 -/ | retrain (w : When) (e : Nat) (r : Wr)
  /-- R265 -/ | psoSnap (w : When) (r : Wr)
  /-- R274 -/ | compute (w : When) (d : Nat)
  /-- R274 -/ | drvWrite (w : When) (d : Nat)
  /-- R275 -/ | sharedDrvWrite (w : When) (d : Nat)
  /-- R272 -/ | snsSample (w : When) (ch j : Nat) (raws : List Nat) (ok : Bool)
  /-- R290 -/ | srvSnap (w : When) (r : Wr)
  /-- R317 -/ | otpProgram (w : When) (r : Wr)
  /-- R317 -/ | otpProgramDone (w : When) (readback : Word)
  /-- R323 -/ | importRec (w : When) (r : Wr)
  /-- R323 -/ | importDone (w : When)
  /-- R322 -/ | nvmRecordWriteDone (w : When) (ok : Bool)
  /-- R337 -/ | nvmdataRead (w : When) (src : Nat)
  /-- R337 -/ | ratioselWrite (w : When) (r : Wr)
  /-- R332 -/ | calStep (w : When) (d : Nat) (raws : List Nat)
  /-- R331 -/ | runTimeout (w : When)
  /-- R341 -/ | csiPacketReceive (w : When) (rx : Nat) (p : CsiPacket)
  /-- R351 -/ | process (w : When) (d : Nat)
  /-- R344 -/ | expose (w : When) (d : Nat)
  /-- R358 -/ | metric (w : When) (d : Nat)
  /-- R360 -/ | presence (w : When) (d : Nat)
  /-- R361 -/ | mapHandover (w : When) (d : Nat)
  /-- R356 -/ | frameDone (w : When) (c : Nat)
  /-- R363 -/ | lpeSnap (w : When) (r : Wr)
  /-- R377 -/ | intlkOpen (w : When)
  /-- R377 -/ | intlkDisc (w : When) (a b : Bool)
  /-- R377 -/ | scanloss (w : When) (e : Nat)
  /-- R375 -/ | overpower (w : When) (m : Monitor)
  /-- R377 -/ | tickloss (w : When)
  /-- R377 -/ | clkloss (w : When)
  /-- R377 -/ | strap (w : When) (level : Bool)
  /-- R377 -/ | lenfault (w : When) (n : Nat) (ball : Bool)
  /-- R377 -/ | force (w : When) (r : Wr)
  /-- R385 -/ | test (w : When) (r : Wr) (lat : Nat)
  /-- R383 -/ | rearmRequest (w : When) (r : Wr)
  /-- R383 -/ | rearmholdExpiry (w : When)
  /-- R222 -/ | zxinEdge (w : When) (e : Nat) (rising : Bool) (envOk : Bool) (slow : Nat)
  /-- R387 -/ | zoneselWrite (w : When) (r : Wr)
  /-- R387 -/ | logselWrite (w : When) (r : Wr)
  /-- R392 -/ | chainFrameReceive (w : When) (p : Nat) (f : ChainFrame)
  /-- R394 -/ | chainFrameTxStart (w : When) (q : Nat) (ts : Int)
  /-- R397 -/ | txtailWrite (w : When) (r : Wr)
  /-- R398 -/ | hold (w : When) (d : Nat)
  /-- R398 -/ | send (w : When) (d : Nat)
  /-- R403 -/ | delayReqSend (w : When) (ts : Int)
  /-- R403 -/ | ptpMasterWrite (w : When) (addr : Nat) (r : Wr)
  /-- R399 -/ | bootreq (w : When)
  /-- R399 -/ | bootdone (w : When)
  /-- R406 -/ | trefEdge (w : When)
  /-- R416 -/ | twinLinkUp (w : When)
  /-- R416 -/ | twinLinkDown (w : When)
  /-- R421 -/ | bundle (w : When) (d : Nat)
  /-- R419 -/ | beat (w : When) (d : Nat)
  /-- R419 -/ | twnHold (w : When) (d : Nat)
  /-- R424 -/ | bundleReceive (w : When) (f : TwinFrame)
  /-- R431 -/ | ackReceive (w : When) (f : TwinFrame)
  /-- R427 -/ | beatReceive (w : When) (f : TwinFrame)
  /-- R424 -/ | mirrorReceive (w : When) (f : TwinFrame)
  /-- R438 -/ | stateReceive (w : When) (f : TwinFrame)
  /-- R417 -/ | fwReceive (w : When) (f : TwinFrame)
  /-- R86 -/  | bootReceive (w : When) (f : TwinFrame)
  /-- R436 -/ | twinCopyRead (w : When)
  /-- R437 -/ | joindone (w : When)
  /-- R427 -/ | leadInChange (w : When) (level : Bool)
  /-- R434 -/ | partnerTimeout (w : When)
  /-- R441 -/ | detach (w : When) (r : Wr)
  /-- R441 -/ | yield (w : When) (r : Wr)
  /-- R426 -/ | clrfault (w : When) (r : Wr)
  /-- R443 -/ | twnSnap (w : When) (r : Wr)
  /-- R450 -/ | domainUp (w : When) (r : Wr)
  /-- R454 -/ | domainDown (w : When) (r : Wr)
  /-- R453 -/ | powerUpStart (w : When)
  /-- R452 -/ | domainFullyOn (w : When) (dom : Nat)
  /-- R456 -/ | powerGoodFail (w : When) (dom : Nat)
  /-- R457 -/ | planStart (w : When) (r : Wr)
  /-- R457 -/ | planCancel (w : When) (r : Wr)
  /-- R457 -/ | planTimeout (w : When)
  /-- R460 -/ | safeDarkEntry (w : When) (r : Wr)
  /-- R461 -/ | wakeTimer (w : When)
  /-- R461 -/ | wakeGp0 (w : When)
  /-- R481 -/ | porstN (w : When) (straps : BitVec 4) (fuses : List Byte)
  /-- R481 -/ | resetN (w : When)
  /-- R481 -/ | softwareReset (w : When) (r : Wr)
  /-- R522 -/ | brownout (w : When)
  /-- R522 -/ | vaonLow (w : When)
  /-- R477 -/ | inputEvent (w : When) (idx : Nat) (value : Int)
  /-- R480 -/ | stale (w : When) (idx : Nat)
  /-- R483 -/ | flashCommand (w : When) (r : Wr)
  /-- R483 -/ | flashCommandDone (w : When) (data : List Byte)
  /-- R489 -/ | start (w : When) (r : Wr)
  /-- R489 -/ | stop (w : When) (r : Wr)
  /-- R490 -/ | loadcfg (w : When) (r : Wr)
  /-- R494 -/ | clrev (w : When) (r : Wr)
  /-- R491 -/ | wdgService (w : When) (r : Wr) (pc : Word)
  /-- R491 -/ | wdgKeyExpiry (w : When)
  /-- R492 -/ | wdgWarn (w : When)
  /-- R488 -/ | wdgTimeout (w : When) (pc : Word)
  /-- R496 -/ | clklossBite (w : When)
  /-- R497 -/ | lineReset (w : When) (clocks : Nat)
  /-- R497 -/ | ident (w : When) (q : SdpReq)
  /-- R499 -/ | connect (w : When) (q : SdpReq)
  /-- R506 -/ | disconnect (w : When) (q : SdpReq)
  /-- R481 -/ | reset (w : When) (q : SdpReq)
  /-- R498 -/ | memrd (w : When) (q : SdpReq)
  /-- R498 -/ | memwr (w : When) (q : SdpReq)
  /-- R505 -/ | memwrf (w : When) (q : SdpReq)
  /-- R501 -/ | hkphalt (w : When) (r : Wr) (h : HkpView)
  /-- R501 -/ | hkprun (w : When) (r : Wr)
  /-- R501 -/ | hkpstep (w : When) (r : Wr)
  /-- R501 -/ | pcBreakpoint (w : When) (h : HkpView)
  /-- R502 -/ | tsqhalt (w : When) (r : Wr)
  /-- R506 -/ | tsqrun (w : When) (r : Wr)
  /-- R504 -/ | tstep (w : When) (r : Wr)
  /-- R502 -/ | tickSlotBreakpoint (w : When)
  /-- R509 -/ | tapInstruction (w : When) (ir : BitVec 4)
  /-- R383 -/ | interlockClosed (w : When)
  /-- R394 -/ | chnLinkUp (w : When) (p : Nat)
  /-- R392 -/ | chnLinkDown (w : When) (p : Nat)
  /-- R501 -/ | hkpStepEnd (w : When) (h : HkpView)
  /-- R497 -/ | connectTimeout (w : When)
  /-- R522 -/ | railRecovery (w : When)
  /-- R509 -/ | tapReset (w : When)
  /-- R482 -/ | pll0Lock (w : When)
  deriving DecidableEq, Repr

end Sys2Proof
end

