-- ==== Sys2Proof/Decode.lean ====
section
/-! DEFINITION. The command a word of the table's bits spells. The table gives no row any bits: the commands of this block are
operations and events, not words, so no word spells one. -/

namespace Sys2Proof

/-- No row of the table has bits, so every word spells nothing. -/
def decodeTableWord (_nbits _w : Nat) : Option Instr := none

end Sys2Proof
end

