-- ==== Sys2Proof/Config.lean ====
section
/-! DEFINITION. What the spec leaves to the part, to the board or to nobody. Each constant is opaque: nothing can be
proved of its value, so a statement that holds holds for every value (assumption log entries 3 and 4). -/

namespace Sys2Proof.Config

/-- FREE VALUE (17 R541). The byte that memory `m` (0 SRAM, 1 TCM, 2 vision memory, 3 boot ROM) shows at address `a` before its
first write since generation `g` (the count of power-ups that lost the contents). -/
opaque undefByte (m g a : Nat) : Byte

/-- FREE VALUE (13 R354). Byte `i` of the entropy-coded data of the frame numbered `frame` of context `c`: the manual
fixes the stream's marker segments but not the encoder's rounding. -/
opaque jpegByte (c frame i : Nat) : Byte

/-- FREE VALUE (13 R354, R356). How many bytes of entropy-coded data stripe `k` of frame `frame` of context `c` adds to the stream. -/
opaque jpegLength (c frame k : Nat) : Nat

/-- FREE VALUE (13 R358). The contrast of an entry of the segment table one of whose rectangles is empty or leaves the frame: a function of the
entry and of the frame's exposure TC. -/
opaque openContrast (entry : List Byte) (etc : Nat) : Nat

/-- FREE VALUE (13 R363). The data lanes of receiver `rx` that stand in HS or ULPS at MCLK count `t`. -/
opaque csiLanes (rx t : Nat) : Nat

/-- FREE VALUE (06 R178). The demand code that an MR4 reading with a reserved refresh-rate code gives. -/
opaque mr4Reserved (raw : Byte) : Nat

/-- FREE VALUE. A number the spec does not state, the `n`-th one taken in a run. -/
opaque freeNat (n : Nat) : Nat

end Sys2Proof.Config
end

