-- ==== Sys2Proof/Machine/Bytes.lean ====
section
/-! DEFINITION. Bytes, bit fields, fixed-point rounding and small keyed tables, said once for every block. -/

namespace Sys2Proof.Machine

/-- A run of bytes: an image, a section body, a packet's data. -/
abbrev Bytes := List Byte

/-- A table of numbers by numeric key. A key that is not listed reads 0. -/
abbrev Amap := List (Nat × Nat)

/-- The number listed under `k`, or `d`. -/
def alookD (m : Amap) (k d : Nat) : Nat :=
  match m with
  | [] => d
  | (a, v) :: r => if a = k then v else alookD r k d

/-- The number listed under `k`, or 0. -/
def alook (m : Amap) (k : Nat) : Nat := alookD m k 0

/-- Whether `k` is listed. -/
def ahas (m : Amap) (k : Nat) : Bool := m.any fun p => p.1 == k

/-- The table without `k`. -/
def adel (m : Amap) (k : Nat) : Amap := m.filter fun p => p.1 != k

/-- The table with `v` under `k`. -/
def aset (m : Amap) (k v : Nat) : Amap := (k, v) :: adel m k

/-- Item `i` of a list, or `d`. -/
def lget {α : Type} (l : List α) (i : Nat) (d : α) : α := l.getD i d

/-- The list with item `i` replaced by `f` of it. -/
def lmod {α : Type} (l : List α) (i : Nat) (f : α → α) : List α :=
  match l, i with
  | [], _ => []
  | a :: r, 0 => f a :: r
  | a :: r, i + 1 => a :: lmod r i f

/-- Byte `i` of `b` as a number; 0 past its end. -/
def u8 (b : Bytes) (i : Nat) : Nat := (b.getD i 0).toNat

/-- The little-endian value of `n` bytes at `i` (03 R70). -/
def uN (b : Bytes) (i : Nat) : Nat → Nat
  | 0 => 0
  | n + 1 => u8 b i + 256 * uN b (i + 1) n

/-- The little-endian value of a whole run of bytes. -/
def leNat : Bytes → Nat
  | [] => 0
  | b :: r => b.toNat + 256 * leNat r

/-- The big-endian value of a whole run of bytes. -/
def beNat (b : Bytes) : Nat := b.foldl (fun a x => a * 256 + x.toNat) 0

def u16 (b : Bytes) (i : Nat) : Nat := leNat ((b.drop i).take 2)
def u32 (b : Bytes) (i : Nat) : Nat := leNat ((b.drop i).take 4)
def u64 (b : Bytes) (i : Nat) : Nat := leNat ((b.drop i).take 8)

/-- `v`, a number of `w` bits, read as two's complement. -/
def sgn (w v : Nat) : Int := if v % 2 ^ w < 2 ^ (w - 1) then (v % 2 ^ w : Nat) else (v % 2 ^ w : Nat) - (2 ^ w : Nat)

/-- The `w`-bit two's complement pattern of `x`. -/
def pat (w : Nat) (x : Int) : Nat := (x % (2 ^ w : Nat)).toNat

def i16 (b : Bytes) (i : Nat) : Int := sgn 16 (u16 b i)
def i32 (b : Bytes) (i : Nat) : Int := sgn 32 (u32 b i)

/-- `n` bytes of `v`, least significant first. -/
def leBytes (n v : Nat) : Bytes :=
  match n with
  | 0 => []
  | n + 1 => BitVec.ofNat 8 v :: leBytes n (v / 256)

/-- `n` bytes of `v`, most significant first. -/
def beBytes (n v : Nat) : Bytes := (leBytes n v).reverse

/-- Bits [hi:lo] of `v`. -/
def bits (v hi lo : Nat) : Nat := v / 2 ^ lo % 2 ^ (hi + 1 - lo)

/-- Bit `i` of `v`. -/
def bitAt (v i : Nat) : Bool := v.testBit i

/-- A truth value as one bit. -/
def b2n (b : Bool) : Nat := if b then 1 else 0

/-- A mask with the bits of a list. -/
def maskOf : List Nat → Nat
  | [] => 0
  | i :: r => 2 ^ i ||| maskOf r

/-- `v` with bit `i` made `b`. -/
def setBit (v i : Nat) (b : Bool) : Nat := if b then v ||| 2 ^ i else if v.testBit i then v ^^^ 2 ^ i else v

/-- `a` with the bits of `b` cleared. -/
def clrMask (a b : Nat) : Nat := a - (a &&& b)

/-- A number counted up and held at `m`. -/
def satAdd (m a b : Nat) : Nat := min m (a + b)

/-- A 16-bit, a 32-bit and a byte counter that saturate. -/
def sat16 (a : Nat) : Nat := satAdd 65535 a 1
def sat32 (a : Nat) : Nat := satAdd 0xFFFFFFFF a 1

/-- `x` held to [lo, hi]. -/
def clampI (lo hi x : Int) : Int := if x < lo then lo else if hi < x then hi else x

/-- `x` divided by `d`, rounded down (an arithmetic shift when `d` is a power of two). -/
def fdivI (x d : Int) : Int := Int.fdiv x d

/-- An arithmetic right shift. -/
def asr (x : Int) (n : Nat) : Int := Int.fdiv x (2 ^ n : Nat)

/-- `x / d` rounded to the nearest, halves up. -/
def rndI (x d : Int) : Int := Int.fdiv (2 * x + d) (2 * d)

/-- `a / b` rounded up. -/
def cdiv (a b : Nat) : Nat := if b = 0 then 0 else (a + b - 1) / b

/-- `b` bytes cut or padded with 0 to `n`. -/
def padTo (n : Nat) (b : Bytes) : Bytes := (b ++ List.replicate (n - b.length) 0).take n

/-- Whether every byte of [i, i+n) is 0. -/
def zeroes (b : Bytes) (i n : Nat) : Bool := ((b.drop i).take n).all (· == 0)

/-- The items `0 .. n-1` that satisfy `p`, in order. -/
def idxWhere (n : Nat) (p : Nat → Bool) : List Nat := (List.range n).filter p

/-- The first index below `n` that satisfies `p`. -/
def firstIdx (n : Nat) (p : Nat → Bool) : Option Nat := (List.range n).find? p

/-- A list cut into pieces of `n` items, at most `fuel` of them. -/
def chunks {α : Type} (fuel n : Nat) (l : List α) : List (List α) :=
  match fuel with
  | 0 => []
  | f + 1 => if l.isEmpty then [] else l.take n :: chunks f n (l.drop n)

/-- The largest `r` with `r * r ≤ n`, found bit by bit. -/
def isqrtGo (n : Nat) : Nat → Nat → Nat
  | 0, r => r
  | k + 1, r => let t := r + 2 ^ k; isqrtGo n k (if t * t ≤ n then t else r)

def isqrt (n : Nat) : Nat := isqrtGo n 64 0

/-- The entry at position `i` of a ring of `size` entries of which `total` have been written, from a list with the newest first. -/
def ringAt {α : Type} (l : List α) (total size i : Nat) : Option α :=
  if total = 0 then none else l[(total + size - 1 - i % size) % size]?

end Sys2Proof.Machine
end

