-- ==== Sys2Proof/Machine/State.lean ====
section
/-! DEFINITION. The state of the NF2460: every register, table, queue, account and memory the spec gives the part, block by block,
as plain data. Each field's docstring opens with its width in bits and the rule that names it; its default is its value after
reset, so `State.reset` is the record of the defaults. Sections of the fold image are held as the bytes that were applied, and a
register that only shows other state is computed from that state when it is read. -/

namespace Sys2Proof.Machine

/-- Why the machine can stop with a fault. No meaning of this model does: every command of the table has an effect the spec
gives, so nothing raises the constructor below. Safe. -/
inductive Fault where
  /-- Raised by no command; the outcome type asks for a fault type. Safe. -/
  | impossible
  deriving DecidableEq, Repr

/-- Why a command is refused. -/
inductive Refusal where
  /-- Raised by an arm of `exec` whose command has no meaning yet. Safe: nothing can be proved of such a command. -/
  | notModelled (mnemonic : String)
  deriving DecidableEq, Repr

/-- A memory as a list of (address, byte) cells in rising order of address. -/
abbrev Cells := List Host.Cell

/-! ### Time -/

/-- The oscillators' counts and the timebase that cuts MCLK into ticks (02, 15). -/
structure Clk where
  /-- 1; 18 R482. PLL0 is locked and the timebase runs. -/
  on : Bool := false
  /-- 1; 15 R413. PLL1 is locked. -/
  pll1 : Bool := false
  /-- 21; 00 R16. MCLK cycles since the start of the current tick. -/
  cyc : Nat := 0
  /-- 64; 00 R540. MCLK cycles since PORST_N, for ages, delays and shapers. -/
  mclk : Nat := 0
  /-- 64; 14 R365. ACLK cycles since AON came up (SAF_ACLK). -/
  aclk : Nat := 0
  /-- 64; 17 R453. AON microseconds since AON came up. -/
  aon : Nat := 0
  /-- 14; 02 R38. f_tick in hertz; 2400 until the boundary after TICK is applied (03 R88). -/
  rate : Nat := 2400
  /-- 21; 02 R39. The length in cycles of the tick that is running. -/
  len : Nat := 416667
  /-- 16; 02 R39. The fraction of L_nom carried forward from the running tick, in cycles times f_tick; 800 from the tick of 416667 cycles at reset. -/
  frac : Nat := 800
  /-- 32; 15 R410. Y, in units of 2^-16 cycle per tick. -/
  y : Int := 0
  /-- 1; 15 R410. Y was ever learned. -/
  learned : Bool := false
  /-- 32; 15 R410. E, in cycles. -/
  e : Int := 0
  /-- 16; 15 R410. acc, which carries the fraction of Y. -/
  acc : Int := 0
  /-- 32; 15 R413. c of the running tick, in cycles. -/
  c : Int := 0
  /-- 2; 15 R408. The selected reference: 0 PTP, 1 TWIN, 2 TREF, 3 LOCAL. -/
  sel : Nat := 3
  /-- 2; 15 R411. 0 FREERUN, 1 HOLDOVER, 2 GLIDE, 3 TRACK. -/
  st : Nat := 0
  /-- 5; 15 R411. Consecutive boundaries with |E| below TRACKWIN. -/
  inwin : Nat := 0
  /-- 16; 15 R407. q of PTP, TWIN and TREF. -/
  q : List Nat := [0, 0, 0]
  /-- 3; 15 R407. Which of PTP, TWIN and TREF were eligible at the last boundary. -/
  elig : List Bool := [false, false, false]
  /-- 3; 15 R406. Which of them were present at the last boundary. -/
  present : List Bool := [false, false, false]
  /-- 64; 15 R404. STK of the running tick. -/
  stk : Nat := 0
  /-- 32; 15 R413. Selection changes, saturating. -/
  switches : Nat := 0
  /-- 32; 15 R413. Ticks in HOLDOVER since it was last entered. -/
  hold : Nat := 0
  /-- 32; 15 R410. Ticks since the last measurement of PTP, TWIN and TREF. -/
  mAge : List Nat := [0, 0, 0]
  /-- 64; 15 R410. The phase measurement of each that waits for the next boundary, in cycles. -/
  meas : List (Option Int) := [none, none, none]
  /-- 64; 15 R410. The last phase measurement of each, referred to this boundary, in cycles. -/
  phase : List (Option Int) := [none, none, none]
  /-- 2; 15 R406. The last measurement of each agreed with its prediction and implied a REFCLK error in range. -/
  agree : List Bool := [false, false, false]
  /-- 64; 15 R406. The MCLK instant of the last TREF_IN rising edge. -/
  trefAt : Option Nat := none
  /-- 1; 15 R406. The last two TREF_IN edges lay a second apart. -/
  trefOk : Bool := false
  /-- 1; 15 R403. The PTP qualification count is to be cleared at the next boundary. -/
  ptpClr : Bool := false
  deriving DecidableEq, Repr

/-! ### Power, pins, input guard, reset and boot -/

/-- The phases of a domain (SYS_DOMSTAT.PHASE, 17 R463). -/
inductive DomPhase where
  | off
  | powering
  | on
  | fence
  | drain
  | flush
  | isolate
  | retain
  deriving DecidableEq, Repr

/-- One power domain. -/
structure Dom where
  /-- 3; 17 R463. PHASE. -/
  phase : DomPhase := .off
  /-- 1; 17 R454. ISOLATE has ended and the power switch has yet to open. -/
  opening : Bool := false
  /-- 1; 17 R451. An up command waits for the parents or for its turn. -/
  want : Bool := false
  /-- 2; 17 R451. The command that waits for a transition to end: 0 none, 1 up, 2 down. -/
  queued : Nat := 0
  /-- 1; 17 R463. FAULT. -/
  fault : Bool := false
  /-- 12; 17 R463. UPS. -/
  ups : Nat := 0
  /-- 12; 17 R463. DOWNS. -/
  downs : Nat := 0
  /-- 64; 05 R143. The MCLK cycle c0 at which FENCE started. -/
  c0 : Nat := 0
  /-- 12; 05 R151. DRAINED of the last power-down. -/
  drained : Nat := 0
  /-- 12; 05 R151. FLUSHED of the last power-down. -/
  flushed : Nat := 0
  /-- 1; 05 R151. LIMIT of the last power-down. -/
  limit : Bool := false
  /-- 1; 17 R456. The power-down follows a power-good failure, so DRAIN ends in the cycle it starts. -/
  quick : Bool := false
  deriving DecidableEq, Repr

/-- Power control (17). -/
structure Pwr where
  /-- 64 x; 17 R445. The domains 0 to 63; AON and SAF are on at reset. -/
  doms : List Dom := { phase := .on } :: { phase := .on } :: List.replicate 62 {}
  /-- 4; 17 R463. SYS_PWRERR.CAUSE. -/
  errCause : Nat := 0
  /-- 8; 17 R463. SYS_PWRERR.COUNT. -/
  errCount : Nat := 0
  /-- 6; 17 R463. SYS_PWRERR.DOMAIN. -/
  errDom : Nat := 0
  /-- 4; 17 R463. SYS_PLANSTAT.STATE: 0 idle, 1 UP, 2 READY, 3 DOWN, 4 DONE, 5 ABORTED. -/
  planSt : Nat := 0
  /-- 3; 17 R463. SYS_PLANSTAT.PLAN. -/
  plan : Nat := 0
  /-- 6; 17 R463. SYS_PLANSTAT.FIRSTSKIP. -/
  firstSkip : Nat := 0
  /-- 8; 17 R463. SYS_PLANSTAT.SKIPPED. -/
  skipped : Nat := 0
  /-- 64; 17 R457. DOWN domains of the running plan that have yet to be powered down. -/
  planLeft : List Nat := []
  /-- 64; 17 R449, R460. Domains that the apply of DOMAINS, or the way into safe-dark, has yet to power down. -/
  downLeft : List Nat := []
  /-- 16; 17 R457. Ticks since READY. -/
  planTicks : Nat := 0
  /-- 64; 17 R453. AON microsecond of the last power-up start. -/
  lastStart : Option Nat := none
  /-- 1; 17 R460. The chip is in safe-dark, or on its way there. -/
  deep : Bool := false
  /-- 64; 17 R461. AON microsecond at which safe-dark was entered. -/
  deepAt : Nat := 0
  /-- 32; 17 R463. SYS_WAKECFG. -/
  wakeCfg : Nat := 0
  /-- 4; 17 R463. SYS_WAKECAUSE. -/
  wakeCause : Nat := 0
  /-- 64; 17 R541. How often the contents of each undefined memory bank were lost, by bank domain (0 the TCM, 49 the vision memory). -/
  memGen : Amap := []
  /-- 8; 17 R447. Retention in force: the banks that RETAIN kept at their last power-down. -/
  retained : List Nat := []
  deriving DecidableEq, Repr

/-- An event waiting at the input guard for the next boundary (18 R477). -/
structure Ev where
  idx   : Nat
  stamp : Nat
  val   : Int
  /-- A STALE event (R480) rather than the input's own. -/
  stale : Bool
  /-- The OVERRUN flag (R478). -/
  ovr   : Bool
  deriving DecidableEq, Repr

/-- What the guard holds of one input. -/
structure InSt where
  /-- 32; 18 R486. The last delivered value. -/
  val : Int := 0
  /-- 32; 18 R479. The last valid value since the apply point. -/
  valid : Option Int := none
  /-- 1; 18 R486. FALLBACK. -/
  fb : Bool := false
  /-- 1; 18 R486. STALE. -/
  stale : Bool := false
  /-- 16; 18 R480. Ticks since the last valid sample or event. -/
  age : Nat := 0
  /-- 1; 18 R480. A valid sample or an event came in the running tick. -/
  seen : Bool := false
  /-- 13; 18 R478. Events accepted in the running tick. -/
  count : Nat := 0
  /-- 16; 18 R486. DROPS. -/
  drops : Nat := 0
  deriving DecidableEq, Repr

/-- A delivered PINSWAP in its tick of park (18 R472). -/
structure Swap where
  ball  : Nat
  owner : Nat
  deriving DecidableEq, Repr

/-- A staged mailbox entry as pushed (04 R108). -/
structure MboxEntry where
  stamp : Nat
  src   : Nat
  w     : List Nat
  deriving DecidableEq, Repr

/-- The input guard, the pin map and the flash port (18). -/
structure Pins where
  /-- 8 x; 18 R468. The owner of each configurable ball, by ball index. -/
  owner : Amap := []
  /-- 2 x; 18 R468. PARK of each configurable ball, by ball index; 2 where none is listed. -/
  park : Amap := []
  /-- 1; 18 R470. PINMAP has been applied. -/
  mapped : Bool := false
  /-- 64; 18 R472. Swaps in their tick of park. -/
  swaps : List Swap := []
  /-- 32; 18 R486. The recognised level of each GP line. -/
  gpin : Nat := 0
  /-- 16 x; 18 R474. The front buffer of each staged region that has one. -/
  front : Amap := []
  /-- 512 x; 18 R486. The inputs, by input index. -/
  ins : List InSt := []
  /-- 512 x; 18 R477. Events stamped in the running tick. -/
  evq : List Ev := []
  /-- 13; 18 R486. SYS_EVCNT. -/
  evcnt : Nat := 0
  /-- 1; 18 R486. SYS_FLCTL.BUSY. -/
  flBusy : Bool := false
  deriving DecidableEq, Repr

/-- Boot and reset (18). -/
structure Boot where
  /-- 4; 18 R466. The latched straps: BENCH_N, SEAT, BOOTSEL[1:0]. -/
  straps : Nat := 0
  /-- 1; 14 R376. The live level of BENCH_N. -/
  benchLive : Bool := false
  /-- 3; 18 R486. SYS_RSTCAUSE.CAUSE. -/
  cause : Nat := 0
  /-- 8; 18 R486. SYS_RSTCAUSE.COUNT. -/
  count : Nat := 0
  /-- 4; 18 R486. SYS_BOOTSTAT.STEP. -/
  step : Nat := 0
  /-- 1; 18 R485. The fallback display runs. -/
  fallback : Bool := false
  /-- 24; 18 R486. SYS_BOOTSTAT.MS. -/
  ms : Nat := 0
  /-- 64; 18 R486. AON microsecond of step 1 of this boot. -/
  at1 : Nat := 0
  /-- 1; 21 R522. The brown-out detector holds the core in reset. -/
  brown : Bool := false
  /-- 1; 03 R88. The HKP runs from ENTRY rather than the boot ROM. -/
  hkpRun : Bool := false
  deriving DecidableEq, Repr

/-! ### The tick sequencer (02, 04) -/

/-- A dispatch of the running tick: an action word as the walk expanded it (04 R98, R102). -/
structure Disp where
  /-- 12; 04 R107. The store index of the word, with the base of the set it was walked in. -/
  word : Nat
  kind : Nat
  unit : Nat
  res : Nat
  slot : Nat
  deadline : Nat
  span : Nat
  feedx : Bool
  early : Bool
  finish : Nat
  payload : Nat
  /-- The repetition index of each enclosing loop, outermost first. -/
  reps : List Nat
  /-- The action has acted, and completes at `endAt`. -/
  done : Bool
  /-- SLOT_OVERRUN was raised for it. -/
  overrun : Bool
  /-- DEADLINE was raised for it. -/
  late : Bool
  /-- DRAM_TIMING was raised for it while it is held (07 R207). -/
  held : Bool
  /-- The cycle of the tick at which an action that is `done` completes: a DRAM word's last command ends after it issues, and a FIELD's
  light after it starts. -/
  endAt : Nat
  deriving DecidableEq, Repr

/-- A WAIT or a BARRIER of the running tick, with its store index and the number of dispatches before it. -/
structure Ctl where
  word : Nat
  isWait : Bool
  slot : Nat
  /-- WAIT: SRC. -/
  src : Nat
  /-- WAIT: DST. -/
  dst : Nat
  /-- BARRIER: MASK. -/
  mask : Nat
  before : Nat
  done : Bool
  deriving DecidableEq, Repr

/-- A contract fault (04 R117). -/
structure FaultRec where
  seq : Nat
  code : Nat
  cls : Nat
  set : Nat
  unit : Nat
  insafe : Bool
  cycle : Nat
  detail : Nat
  /-- The store index of the word, or `none` for NOWORD. -/
  word : Option Nat
  tc : Nat
  deriving DecidableEq, Repr

/-- The result of a delivered mailbox entry (04 R112). -/
structure MboxRes where
  tag : Nat
  op : Nat
  status : Nat
  detail : Nat
  tc : Nat
  deriving DecidableEq, Repr

/-- The tick sequencer, its mailbox and its contract monitor. -/
structure Tsq where
  /-- 1; 03 R88. A schedule set runs: the apply point has been reached. -/
  run : Bool := false
  /-- 1; 03 R88. The next boundary is an apply point. -/
  applyNext : Bool := false
  /-- 64; 02 R41, 16 R420. LTC, which is TC less TWN_LTCOFS and equals TC until a lock point. -/
  tc : Nat := 0
  /-- 2; 04 R113. The running set. -/
  set : Nat := 3
  /-- 2; 04 R101. PREVSET. -/
  prev : Nat := 3
  /-- 11; 04 R101. AGE. -/
  age : Nat := 0
  /-- 2; 04 R101. FSPSTATE: 0 FSP0, 1 FSP1, 2 change in progress. -/
  fsp : Nat := 0
  /-- 64 x; 04 R101. The schedule parameters that an entry has set. -/
  params : Amap := []
  /-- 32 x 4; 04 R108. TSQ_MBOXW0 to 3 of each source, by 4 * source + word. -/
  stage : Amap := []
  /-- 128 x 32; 04 R109. Entries accepted in the running tick. -/
  mbox : List MboxEntry := []
  /-- 2 x; 04 R120. LAST of each source. -/
  last : Amap := []
  /-- 32; 04 R120. TSQ_MBOXDROP. -/
  drop : Nat := 0
  /-- 128 x 64; 04 R112. The result ring, newest first. -/
  res : List MboxRes := []
  /-- 32; 04 R120. TSQ_MRESPTR. -/
  resTotal : Nat := 0
  /-- 32 x 4; 04 R120. TSQ_MRES0 to 3. -/
  mres : List Nat := [0, 0, 0, 0]
  /-- 128 x; 04 R98. The dispatches of the running tick, in walk order. -/
  disp : List Disp := []
  /-- 128 x; 04 R102. The WAIT and BARRIER words of the running tick. -/
  ctl : List Ctl := []
  /-- 192 x; 02 R59. Faults of the running tick, in order of detection. -/
  faults : List FaultRec := []
  /-- 21; 02 R57. The cycle from which a class X fault blanks the running tick. -/
  blank : Option Nat := none
  /-- 192 x 64; 04 R117. The fault ring, newest first. -/
  flog : List FaultRec := []
  /-- 32; 04 R117. TSQ_FLOGPTR. -/
  flogTotal : Nat := 0
  /-- 32 x 6; 04 R120. TSQ_FLOG0 to 5. -/
  flogSn : List Nat := [0, 0, 0, 0, 0, 0]
  /-- 16; 04 R117. SEQ of the newest fault raised. -/
  seq : Nat := 0
  /-- 1; 04 R118. PENDING. -/
  pend : Bool := false
  /-- 16; 04 R118. TSQ_ACKSEQ. -/
  ack : Nat := 0
  /-- 32 x 6; 04 R119. TSQ_FCNT1 to 6. -/
  fcnt : List Nat := [0, 0, 0, 0, 0, 0]
  /-- 8 x 4; 04 R116. Consecutive frames with FETCH_STARVE, by engine. -/
  starve : List Nat := [0, 0, 0, 0]
  /-- 4; 04 R116. Engines that raised FETCH_STARVE in the running frame. -/
  starved : List Bool := [false, false, false, false]
  /-- 5; 02 R64. Degradation causes of the running tick. -/
  degr : Nat := 0
  /-- 5; 02 R68. TSQ_DEGRCAUSE. -/
  degrCause : Nat := 0
  /-- 64; 02 R68. TSQ_DEGRCNT. -/
  degrCnt : Nat := 0
  /-- 64; 02 R68. TSQ_LASTDEGR. -/
  lastDegr : Nat := 0
  /-- 1; 02 R67. TSQ_CLEANSTAT.VALID. -/
  clean : Bool := false
  /-- 64; 02 R67. TSQ_CLEANFROM. -/
  cleanFrom : Nat := 0
  /-- 21; 02 R68. TSQ_TICKLEN.LAST. -/
  lastLen : Nat := 0
  /-- 21; 02 R68. TSQ_GUARDMIN.MIN. -/
  guardMin : Nat := 0x1FFFFF
  /-- 64; 04 R117. Store index base of each set in force in the running tick. -/
  base : List Nat := [0, 0, 0, 0]
  deriving DecidableEq, Repr

/-! ### Fold images (03) -/

/-- An applied, staged or pending section. -/
structure Sec where
  type  : Nat
  inst  : Nat
  body  : Bytes
  deriving DecidableEq, Repr

/-- A hot image that has passed its check (03 R90). -/
structure Hot where
  seq  : Nat
  /-- Bytes [0, BODY_LEN). -/
  body : Bytes
  /-- The image, its trailer included. -/
  whole : Bytes
  secs : List Sec
  deriving DecidableEq, Repr

/-- An image as the twin delivers it (16 Table 16-3, 15 Table 15-6). -/
structure RxImg where
  total : Nat := 0
  /-- The bytes that have arrived, as half-open ranges. -/
  got : List (Nat × Nat) := []
  data : Bytes := []
  deriving DecidableEq, Repr

/-- A base image that is being verified and checked (03 R97): its source, its bytes, and those of the hot images that come with it. -/
structure Load where
  src : Nat
  data : Bytes
  hots : List Bytes
  deriving DecidableEq, Repr

/-- The loader and the configuration store. -/
structure Fld where
  /-- 4; 03 R96. FLD_STATUS.STATE. -/
  st : Nat := 0
  /-- 8; 03 R96. FLD_STATUS.CODE. -/
  code : Nat := 0
  /-- 8; 03 R96. FLD_STATUS.SECT. -/
  sect : Nat := 0xFF
  /-- 3; 03 R96. FLD_STATUS.SOURCE. -/
  source : Nat := 0
  /-- 1; 03 R96. FLD_STATUS.KEYSLOT. -/
  keyslot : Nat := 0
  /-- 1; 03 R78. FLD_STATUS.UNTRUSTED. -/
  untrusted : Bool := false
  /-- 1; 03 R96. A base image is applied. -/
  applied : Bool := false
  /-- 8 x; 03 R88. The sections in force: the configuration store. -/
  secs : List Sec := []
  /-- 8; 03 R96. FLD_IMGINFO.FMTMINOR, of 16 bits. -/
  fmtMinor : Nat := 0
  /-- 8; 03 R96. FLD_IMGINFO.SECVER. -/
  secver : Nat := 0
  /-- 8; 03 R96. FLD_IMGINFO.SECTCOUNT. -/
  sectCount : Nat := 0
  /-- 32; 03 R96. FLD_SEQ. -/
  seq : Nat := 0
  /-- 256; 03 R94. The configuration hash. -/
  cfgHash : Bytes := List.replicate 32 0
  /-- 256; 03 R96. FLD_BODYHASH. -/
  bodyHash : Bytes := List.replicate 32 0
  /-- 256; 03 R96. FLD_CFGHASH0 to 7, the snapshot. -/
  snHash : Bytes := List.replicate 32 0
  /-- 8 x; 03 R90. The staged hot image. -/
  staged : Option Hot := none
  /-- 6; 03 R91. HOTAPPLY entries pushed and not yet delivered. -/
  applyPend : Nat := 0
  /-- 1; 03 R91. A check runs. -/
  checking : Bool := false
  /-- 8; 03 R96. FLD_HOTSTAT.CODE. -/
  hotCode : Nat := 0
  /-- 8; 03 R96. FLD_HOTSTAT.SECT. -/
  hotSect : Nat := 0xFF
  /-- 16; 03 R96. FLD_HOTCNT. -/
  hotCnt : Nat := 0
  /-- 8 x; 03 R93. Pending G sections. -/
  pendG : List Sec := []
  /-- 8 x; 03 R86. Bodies of the hot images applied since the base image, in order. -/
  hots : List Bytes := []
  /-- 8 x; 03 R86. The base image that is applied, whole. -/
  image : Bytes := []
  /-- 8; 03 R84. The sources of BOOTSEL that have yet to be tried. -/
  left : List Nat := []
  /-- 64; 03 R87. AON microsecond of the failure of the last source, while the sequence waits. -/
  failedAt : Option Nat := none
  /-- 8 x; 03 R86. The images that the twin is delivering, by image index. -/
  rx : List RxImg := []
  /-- 8; 03 R86. How many images the twin has, once it has said so. -/
  rxCount : Option Nat := none
  /-- 8 x; 03 R89. What the check has read of it, once it has read all that it can. -/
  hotBuf : Option Bytes := none
  /-- 8 x; 03 R96. The same of an image that START takes from memory. -/
  memBuf : Option Bytes := none
  /-- x; 03 R97. The image whose last byte is in, while STATE is 2 or 3. -/
  load : Option Load := none
  deriving DecidableEq, Repr

/-! ### The Prism fabric (05) -/

/-- What a request's bytes decode to (05 R123). -/
inductive Target where
  | none
  | rom (off : Nat)
  | sram (off : Nat)
  | tcm (off : Nat)
  | reg (addr : Nat)
  /-- A DRAM system address. -/
  | dram (sa : Nat)
  /-- Lines of a physical rank from rank-local line `d` upward: where MIG writes on the spare, which no system address names (07 R199). -/
  | rank (p d : Nat)
  deriving DecidableEq, Repr

/-- A request packet on its way (05 R124). -/
structure Pkt where
  req  : Req
  /-- Where its bytes lie, as the address decoded when the fabric took it (05 R123, 06 R158). -/
  tgt  : Target
  /-- 128 x; 05 R124. The header flits it travels with, one for each fragment. -/
  hdrs : List Nat
  /-- 07 R199. The lines, by number in the packet, that a write of MIG stores with the poison flag. -/
  bad  : List Nat
  /-- 19 R505. A forced write of the debug port. -/
  forced : Bool
  /-- MCLK cycle of arrival at the fabric. -/
  arr  : Nat
  /-- MCLK cycle at which it entered its queue. -/
  enq  : Nat
  /-- The queue was empty before it arrived. -/
  first : Bool
  /-- Its finish tag, once it is the head of its queue (48 bits). -/
  tag  : Option Nat
  /-- Its target domains. -/
  doms : List Nat
  /-- Its place in the order of issue. -/
  seq : Nat
  deriving DecidableEq, Repr

/-- A response waiting for delivery (05 R125, R139). -/
structure Rsp where
  src    : Nat
  dst    : Nat
  tag    : Nat
  status : Nat
  data   : Bytes
  /-- The request's place in the order of issue. -/
  seq    : Nat
  /-- The fabric made the completion; the destination did not (05 R139). -/
  own    : Bool
  /-- 128; 05 R124. Its header flit, with the request's ADDR and the POISON bit. -/
  hdr    : Nat
  /-- 07 R199. The poisoned lines of a read, by number in the request. -/
  bad    : List Nat
  deriving DecidableEq, Repr

/-- One request that a unit has yet to issue. -/
structure XReq where
  req : Req
  /-- The target where no fabric address names it (07 R199). -/
  tgt : Option Target
  bad : List Nat
  forced : Bool
  deriving DecidableEq, Repr

/-- What a unit does once the responses to a transfer of its own have all come. -/
inductive Job where
  /-- Nothing waits for it. -/
  | none
  /-- MIG reads lines of HOME from line `d` upward (07 R199). -/
  | migRead (d : Nat)
  /-- MIG writes lines of the spare from line `d` upward (07 R199, R200). -/
  | migWrite (d : Nat)
  /-- A frame is written into entry `i` of the chain receive ring (15 R396). -/
  | chnRx (i : Nat)
  /-- The descriptor of the transmit ring's entry at CHN_TXHEAD is read, then its frame, which goes to its port as a message; then TS and
  STATUS are written back (15 R397). -/
  | txDesc
  | txBody (d : Bytes)
  | txMsg (d : Bytes)
  | txBack
  /-- A forwarded frame with the MCLK cycle of its arrival (15 R393, R402). -/
  | fwd (came : Nat)
  /-- A frame for the Guosh link; `lines` of the buffer of forwarded writes are freed when it goes (16 R417, R436). -/
  | link (lines : Nat)
  /-- A block of a mirrored region is read at `fa`, to go out as mirror write `mseq` (16 R436). -/
  | copy (fa mseq : Nat)
  /-- The same as the chain rings' for the firmware rings of the link (16 R417). -/
  | fwRx (i : Nat)
  | fwDesc
  | fwBody (d : Bytes)
  | fwBack
  /-- Record of a telemetry sample (05 R140). -/
  | tel
  /-- An elastic fetch read for piece `no` of engine `e`'s demand (09 R246): its stage (0 the descriptor, 1 tile index entries, 2 pixel data), the
  ranges of bytes it reads, the ranges and bytes read before it for this piece, and the poisoned lines among those. -/
  | fetch (e no stage : Nat) (at_ : List (Nat × Nat)) (have_ : List (Nat × Bytes)) (bad : List Nat)
  /-- The header of the image at `addr` is read, then the whole of it: a hot image that is checked, or one that START takes from memory (03 R89,
  R96). -/
  | imgHead (hot : Bool) (addr : Nat)
  | imgBody (hot : Bool)
  /-- A trim record's header is read, then the whole of it (12 R323). -/
  | impHead
  | impBody
  /-- Bytes of an output of context `c`'s frame `frame` are written (13 R355, R356). -/
  | out (c frame : Nat)
  /-- A word of a memory command of the serial debug port (19 R498). -/
  | sdp
  deriving DecidableEq, Repr

/-- An elastic transfer of a unit: requests of one port that serve one purpose, issued in order (05 R127, R138). -/
structure Xfer where
  src : Nat
  job : Job
  /-- Requests that have yet to be issued. -/
  todo : List XReq
  /-- TAG and number in the transfer of each request that waits for its response. -/
  sent : List (Nat × Nat)
  /-- The number of the next request. -/
  next : Nat
  /-- Status and data of each response, by number. -/
  got : List (Nat × Nat × Bytes)
  /-- Poisoned lines, by number of the request and number in it. -/
  bad : List (Nat × Nat)
  deriving DecidableEq, Repr

/-- One queue of an elastic egress. -/
structure Queue where
  /-- 16; 05 R135. WEIGHT; 0 until FABRIC is applied. -/
  weight : Nat := 0
  /-- 16; 05 R133. CREDIT. -/
  credit : Nat := 0
  /-- 16; 05 R136. RATE. -/
  rate : Nat := 0
  /-- 16; 05 R136. BURST. -/
  burst : Nat := 0
  /-- 8; 05 R131. QLIM_PKT. -/
  limPkt : Nat := 0
  /-- 8; 05 R131. QLIM_KIB less 1. -/
  limKib : Nat := 0
  /-- 48; 05 R133. Fl, the last finish tag. -/
  fl : Nat := 0
  /-- 32; 05 R136. The token bucket as of `at`, in 1/1024 byte. -/
  bucket : Int := 0
  /-- 64; 05 R136. The MCLK cycle to which `bucket` is up to date. -/
  upTo : Nat := 0
  /-- x; 05 R130. The packets queued, head first. -/
  pk : List Pkt := []
  /-- 32; 05 R151. Largest enqueue-to-dequeue time since reset. -/
  maxDly : Nat := 0
  /-- 32; 05 R141. The same since the previous telemetry sample. -/
  telDly : Nat := 0
  /-- 32; 05 R141. Effective bytes dequeued since the previous sample. -/
  telDeq : Nat := 0
  deriving DecidableEq, Repr

/-- One elastic egress. -/
structure Egress where
  /-- 1; 05 R132. LMODE. -/
  lmode : Nat := 0
  /-- 6; 05 R132. OVH. -/
  ovh : Nat := 0
  /-- 48; 05 R133. V. -/
  v : Nat := 0
  /-- 32 x; 05 R130. The queues. -/
  qs : List Queue := List.replicate 32 {}
  deriving DecidableEq, Repr

/-- The fabric. -/
structure Fab where
  /-- 7 x; 05 R130. The elastic egresses: DMC0 to 3, CHN0, CHN1, TWN. -/
  eg : List Egress := List.replicate 7 {}
  /-- x; 05 R131. Requests held in their sources behind a full queue, oldest first. -/
  held : List Pkt := []
  /-- x; 05 R137. Packets handed to a target that has not answered: CHN and TWN frames, oldest first. -/
  handed : List Pkt := []
  /-- x; 05 R139. Responses on their way, oldest first. -/
  rsp : List Rsp := []
  /-- 64; 05 R139. The place in the order of issue of the next request. -/
  seq : Nat := 0
  /-- 9 x 24; 05 R127. Requests outstanding, by source port. -/
  out : Amap := []
  /-- 13 x; 05 R124. Source port and TAG of each request outstanding. -/
  tags : List (Nat × Nat) := []
  /-- x; 05 R127. The transfers of the chip's own units that are under way, oldest first. -/
  xfers : List Xfer := []
  /-- 5 x 24; 05 R129. Where the grant pointer of a destination without an elastic egress stands: after the port last granted. -/
  grant : Amap := []
  /-- 32; 05 R151. FAB_ECNTDOFF. -/
  cntOff : Nat := 0
  /-- 32; 05 R151. FAB_ECNTDEC. -/
  cntDec : Nat := 0
  /-- 32; 05 R151. FAB_RSPDROP. -/
  rspDrop : Nat := 0
  /-- 32 x 3; 05 R151. FAB_QDEPTH, FAB_QHEAD and FAB_QMAXDLY, the snapshot. -/
  qsn : List Nat := [0, 0, 0]
  /-- 32; 05 R151. FAB_TELWPTR. -/
  telPtr : Nat := 0
  /-- 32; 05 R151. FAB_TELMISS. -/
  telMiss : Nat := 0
  /-- 32; 05 R141. The number of the next sample. -/
  telNum : Nat := 0
  deriving DecidableEq, Repr

/-! ### Chain ports (15) -/

/-- What one chain port holds. -/
structure Port where
  /-- 1; 15 R413. LINK. -/
  link : Bool := false
  /-- 16; 15 R413. DOWNS. -/
  downs : Nat := 0
  /-- 16; 15 R413. UNCORR. -/
  uncorr : Nat := 0
  /-- 16; 15 R413. CORR. -/
  corr : Nat := 0
  /-- 64; 15 R413. Frames received. -/
  rxfr : Nat := 0
  /-- 64; 15 R413. Frames sent. -/
  txfr : Nat := 0
  /-- 8; 15 R413. FCS. -/
  fcs : Nat := 0
  /-- 8; 15 R413. NOLINK. -/
  nolink : Nat := 0
  /-- 8; 15 R413. VID. -/
  vid : Nat := 0
  /-- 8; 15 R413. RING. -/
  ring : Nat := 0
  /-- 8; 15 R413. CTRL. -/
  ctrl : Nat := 0
  /-- 8; 15 R413. BADSEND. -/
  badsend : Nat := 0
  /-- 64; 15 R394. The MCLK cycle at which the wire is free again. -/
  busyTo : Nat := 0
  /-- x; 15 R394. The frame last put on the wire, FCS included. -/
  wire : Bytes := []
  deriving DecidableEq, Repr

/-- The PTP slave (15 R403). -/
structure Ptp where
  /-- 1; 15 R413. DVALID. -/
  dvalid : Bool := false
  /-- 32; 15 R413. The mean path delay, ns. -/
  d : Int := 0
  /-- 32; 15 R413. The last measurement, ns. -/
  ofs : Int := 0
  /-- 1; 15 R413. MPORT. -/
  mport : Nat := 0
  /-- 16; 15 R413. PDELAY. -/
  pdelay : Nat := 0
  /-- 64; 15 R403. t2 - t1 of the last Sync, once t1 is known, ns. -/
  ms : Option Int := none
  /-- 80; 15 R403. The Sync that waits for its Follow_Up: its sequenceId, and t2 less its correction. -/
  wait : Option (Nat × Int) := none
  /-- 80; 15 R403. The Delay_Req that waits for its answer: its sequenceId and t3. -/
  dreq : Option (Nat × Int) := none
  /-- 16; 15 R403. The next Delay_Req sequenceId. -/
  dseq : Nat := 0
  /-- 1; 15 R403. A Delay_Req is due on the master port. -/
  due : Bool := false
  /-- 64; 15 R406. Ticks since the last measurement, and whether there is one. -/
  age : Option Nat := none
  deriving DecidableEq, Repr

/-- The chain block. -/
structure Chn where
  /-- 2 x; 15 R413. The ports. -/
  ports : List Port := [{}, {}]
  /-- 32; 15 R396. The next entry of the receive ring to be filled; CHN_RXHEAD stands behind it while entries are being written. -/
  rxHead : Nat := 0
  /-- 32; 15 R413. CHN_TXHEAD. -/
  txHead : Nat := 0
  /-- x; 15 R403. The PTP slave. -/
  ptp : Ptp := {}
  /-- 1; 15 R399. Chain boot is the current boot source. -/
  boot : Bool := false
  /-- 23; 15 R399. TOTAL of the boot data, once known. -/
  total : Option Nat := none
  /-- 1 x; 15 R399. The bytes that have arrived, as half-open ranges. -/
  got : List (Nat × Nat) := []
  /-- 64; 15 R399. AON microsecond of the last BOOTREQ. -/
  reqAt : Option Nat := none
  /-- 32; 15 R399. BOOTDONE is due with this result. -/
  doneDue : Option Nat := none
  deriving DecidableEq, Repr

/-! ### DRAM (06, 07) -/

/-- One physical rank, by index 2 * channel + rank. -/
structure PRank where
  /-- 1; 07 R203. In self-refresh. -/
  sr : Bool := false
  /-- 1; 06 R185. DMC_MR4ST.VALID. -/
  polled : Bool := false
  /-- 1; 06 R185. DMC_MR4ST.SELFREF. -/
  srAt : Bool := false
  /-- 3; 06 R185. DMC_MR4ST.DEMAND. -/
  demand : Nat := 0
  /-- 8; 06 R185. DMC_MR4ST.MR4. -/
  mr4 : Nat := 0
  /-- 8 x 64; 06 R168. The mode registers as the controller last wrote them, by MA. -/
  mr : Amap := []
  /-- 1; 07 R206. The set point that MR16 selects. -/
  fspSel : Nat := 0
  /-- 64; 06 R178. The MCLK cycle at which the MR4 data of an MRR in flight returns. -/
  mrrAt : Option Nat := none
  /-- 6; 06 R178. Unit of the MRR in flight, and its word. -/
  mrrWord : Nat := 0
  /-- 16; 07 R212. DMC_RSCORE. -/
  score : Nat := 0
  /-- 1; 07 R195. The rank is condemned. -/
  bad : Bool := false
  /-- 16; 07 R212. C1 decodes. -/
  c1 : Nat := 0
  /-- 16; 07 R212. C2 decodes. -/
  c2 : Nat := 0
  /-- 16; 07 R212. P decodes. -/
  p : Nat := 0
  /-- 16; 07 R212. U and K decodes. -/
  u : Nat := 0
  deriving DecidableEq, Repr

/-- One entry of the rank map table (06 R160). -/
structure RankMap where
  /-- 3; 06 R160. CUR, a physical rank. -/
  cur : Nat := 0
  /-- 3; 07 Table 7-3. STATE: 0 ACTIVE, 1 CONDEMNED, 2 COPY, 3 SETTLE, 4 SPARED. -/
  st : Nat := 0
  /-- 4; 07 R212. REASON while it waits. -/
  reason : Nat := 0
  /-- 1; 07 R198. DMC_RETIRE ACT 2 was written for it. -/
  go : Bool := false
  deriving DecidableEq, Repr

/-- One bank of one physical rank. -/
structure Bank where
  /-- 17; 06 R163. The open row. -/
  row : Option Nat := none
  /-- 1; 06 R171. A fixed word opened it. -/
  fixed : Bool := false
  /-- 64; 06 R171. The MCLK cycle of the last access to the open row. -/
  used : Nat := 0
  /-- 1; 06 R171. No access has used the open row since an elastic activate opened it. -/
  fresh : Bool := false
  /-- 2; 06 R171. H. -/
  h : Nat := 0
  /-- 16; 06 R180. The RAA count. -/
  raa : Nat := 0
  /-- 33 x 16; 06 R182. The hammer table: row and count. -/
  ham : List (Nat × Nat) := []
  deriving DecidableEq, Repr

/-- A command as the timing rules remember it: kind (0 ACT, 1 PRE, 2 RD, 3 WR, 4 REFab, 5 REFpb, 6 RFMab, 7 RFMpb, 8 MRR, 9 ZQLAT, 10
SRE, 11 SRX), rank, bank and MCLK cycle. -/
structure DCmd where
  kind : Nat
  rank : Nat
  bank : Nat
  at_  : Nat
  deriving DecidableEq, Repr

/-- One line access that waits in a channel (06 R169). -/
structure LineEnt where
  /-- The request it belongs to. -/
  id : Nat
  /-- Logical rank and rank-local line. -/
  lr : Nat
  line : Nat
  /-- Physical rank that a scrub, a copy or a mirror write names itself; `none` where the rank map decides. -/
  prank : Option Nat
  write : Bool
  /-- First byte of the line, and how many. -/
  off : Nat
  len : Nat
  data : Bytes
  /-- MCLK cycle at which it entered the queue. -/
  enq : Nat
  /-- The write carries the poison flag (07 R199). -/
  poison : Bool
  /-- 07 R190. The check line of its group has been read: what it holds after its decode (`none` inside: uncorrectable). -/
  chk : Option (Option Bytes)
  /-- 07 R190. The line has been read for a read-modify-write, and whether that read was poisoned. -/
  rmw : Option Bool
  /-- 07 R190. Its data is written and only the group's check line is still to be written back. -/
  late : Bool
  /-- 06 R185. Its activate has been counted in CHRFM.HELD. -/
  held : Bool
  deriving DecidableEq, Repr

/-- A request whose lines are under way in a channel; the oldest stands first (06 R174). -/
structure LineReq where
  id : Nat
  src : Nat
  dst : Nat
  tag : Nat
  write : Bool
  seq : Nat
  /-- First byte in the first line, and bytes asked for. -/
  off : Nat
  len : Nat
  /-- Line accesses that are still to be performed. -/
  left : Nat
  /-- Read data so far, by line. -/
  got : List (Nat × Bytes)
  /-- The poisoned lines. -/
  bad : List Nat
  /-- Its status where no line decides it: PUBLISHED (06 R176), else 0. -/
  status : Nat
  /-- 05 R124. The request's ADDR. -/
  fa : Nat
  /-- The first line. -/
  line : Nat
  deriving DecidableEq, Repr

/-- One DRAM channel. -/
structure Chan where
  /-- x 64; 06 R169. The read queue, oldest first. -/
  rdq : List LineEnt := []
  /-- x 64; 06 R169. The write queue, oldest first. -/
  wrq : List LineEnt := []
  /-- x; 06 R174. Requests under way. -/
  reqs : List LineReq := []
  /-- 1; 06 R170. WBATCH. -/
  wbatch : Bool := false
  /-- x 32; 06 R163. The banks, by 16 * rank + bank. -/
  banks : List Bank := List.replicate 32 {}
  /-- x; 06 R166. The last commands of the fixed stream alone. -/
  fixedH : List DCmd := []
  /-- x; 06 R166. The last commands of all traffic. -/
  allH : List DCmd := []
  /-- 22 x 16; 06 R183. Neighbour refreshes queued: rank, bank and row. -/
  nref : List (Nat × Nat × Nat) := []
  /-- 4; 06 R170. Commands of the first of them that have issued. -/
  nrefStep : Nat := 0
  /-- x; 07 R194. Corrected lines that the scrub has yet to put into the write queue. -/
  wb : List LineEnt := []
  /-- 64; 06 R185. Elastic read lines performed. -/
  elrd : Nat := 0
  /-- 64; 06 R185. Elastic write lines performed. -/
  elwr : Nat := 0
  /-- 16; 06 R185. DMC_CHNREF.FULL. -/
  nrefFull : Nat := 0
  /-- 16; 06 R185. DMC_CHNREF.ISSUED. -/
  nrefDone : Nat := 0
  /-- 16; 06 R185. DMC_CHRFM.HELD. -/
  rfmHeld : Nat := 0
  /-- 16; 06 R185. DMC_CHRFM.ISSUED. -/
  rfmDone : Nat := 0
  /-- 31; 06 R185. DMC_CHMAXAGE.MAX. -/
  maxAge : Nat := 0
  /-- 16; 06 R185. RAAIMT and RAAMMT from training; 0 when RFM is not required. -/
  raaimt : Nat := 0
  /-- 16; 06 R185. RAAMMT. -/
  raammt : Nat := 0
  /-- 16; 06 R185. WMHI of DMC_CHCFG. -/
  wmhi : Nat := 0
  /-- 6; 06 R185. WMLO. -/
  wmlo : Nat := 0
  /-- 1; 06 R185. PAGE. -/
  page : Nat := 0
  /-- 1; 06 R185. RORDER. -/
  rorder : Nat := 0
  /-- 16; 06 R185. IDLEPRE. -/
  idlepre : Nat := 0
  /-- 16; 06 R185. AGECAP. -/
  agecap : Nat := 0
  deriving DecidableEq, Repr

/-- An entry of the error log (07 R212). -/
structure EccLog where
  cls : Nat
  prank : Nat
  bank : Nat
  row : Nat
  pos : Nat
  src : Nat
  fixed : Bool
  syms : Nat
  word : Nat
  fa : Nat
  cycle : Nat
  tc : Nat
  deriving DecidableEq, Repr

/-- The DRAM controller. -/
structure Dmc where
  /-- 1; 07 R209. Boot training is complete and DRAM is in service. -/
  ready : Bool := false
  /-- x 8; 06 R160. The rank map table. -/
  rmt : List RankMap := List.replicate 8 {}
  /-- 2; 07 R213. DMC_SPARE.STATE: 0 STANDBY, 1 TARGET, 2 IN_USE, 3 FAILED. -/
  spare : Nat := 0
  /-- x 8; 06 R185. The physical ranks. -/
  ranks : List PRank := List.replicate 8 {}
  /-- x 4; 06 R185. The channels. -/
  ch : List Chan := List.replicate 4 {}
  /-- 3 x 8; 07 R209. The logical rank of the folded addresses with which training wrote each physical rank. -/
  trainLr : List Nat := List.replicate 8 0
  /-- 17; 06 R182. HAMTHR. -/
  hamthr : Nat := 0
  /-- 2; 06 R183. BR. -/
  br : Nat := 0
  /-- 16; 07 R195. CONDEMN of DMC_ECCCFG. -/
  condemn : Nat := 1024
  /-- 1; 07 R212. LOGC1. -/
  logc1 : Bool := true
  /-- 5; 07 R195. DECAY. -/
  decay : Nat := 16
  /-- 32; 07 R212. DMC_SCRUB. -/
  scrub : Nat := 0
  /-- 3; 07 R194. The physical rank being scrubbed on each channel, by channel. -/
  scrubRank : List Nat := [0, 0, 0, 0]
  /-- 26; 07 R194. The next line of the scrub, by channel. -/
  scrubLine : List Nat := [0, 0, 0, 0]
  /-- 16; 07 R194. Lines still to be scrubbed in this tick, by channel. -/
  scrubLeft : List Nat := [0, 0, 0, 0]
  /-- 2; 07 R212. The channel whose scrub moved last. -/
  scrubLast : Nat := 0
  /-- 1; 07 R212. AUTO. -/
  auto : Bool := true
  /-- 1; 07 R202. RFENCE. -/
  rfence : Bool := false
  /-- 3; 07 R212. DMC_SPARING.LR. -/
  lr : Nat := 0
  /-- 4; 07 R200. PASS. -/
  pass : Nat := 0
  /-- 26; 07 R199. CP. -/
  cp : Nat := 0
  /-- 26; 07 R200. REDO_LO, once set. -/
  redo : Option Nat := none
  /-- x 256; 07 R200. MIG's mirror buffer: line, its data and its poison flag, oldest first. -/
  mirror : List (Nat × Bytes × Bool) := []
  /-- 2312; 07 R199. What MIG has read and has yet to write: the first line, its data and the poisoned lines among it. -/
  migData : Option (Nat × Bytes × List Nat) := none
  /-- 26; 07 R199. Lines of the spare, from 0, that MIG has written since COPY was entered. -/
  migWrote : Nat := 0
  /-- 1; 07 R200. The pass has ended and the entry goes to SETTLE at the next boundary. -/
  passEnd : Bool := false
  /-- 1; 07 R201. The migration is to be aborted at the next boundary. -/
  abort : Bool := false
  /-- 2; 07 R212. DMC_FSPSTAT.TARGET. -/
  fspTarget : Nat := 0
  /-- 16; 07 R212. DMC_FSPSTAT.LASTDUR. -/
  lastDur : Nat := 0
  /-- 8; 07 R206. Ticks of the change that are still to come; 0 while none runs. -/
  fspLeft : Nat := 0
  /-- 3; 07 R206. The step of Table 7-5 that runs; 0 while none does. -/
  fspStep : Nat := 0
  /-- 64; 07 R206. The MCLK cycle at which the change started. -/
  fspAt : Nat := 0
  /-- 2; 07 R208. The set point of a change that starts when the running one ends. -/
  fspNext : Option Nat := none
  /-- 1; 06 R168. The timing bank in force: 0 A, 1 B. -/
  bank : Nat := 0
  /-- 1; 07 R212. DMC_TRAINSTAT.FAIL. -/
  trainFail : Bool := false
  /-- 8; 07 R212. DMC_TRAINSTAT.RETRAIN. -/
  retrain : Nat := 0
  /-- 8; 07 R212. DMC_TRAINSTAT.BOOT. -/
  bootBad : Nat := 0
  /-- 8; 07 R197. COVER. -/
  cover : Nat := 0
  /-- 192 x 32; 07 R212. The error log, newest first. -/
  elog : List EccLog := []
  /-- 32; 07 R212. DMC_ELOGPTR. -/
  elogTotal : Nat := 0
  /-- 32 x 6; 07 R212. DMC_ELOG0 to 5. -/
  elogSn : List Nat := [0, 0, 0, 0, 0, 0]
  /-- 32; 06 R174. The next request number. -/
  nextId : Nat := 0
  /-- x; 06 R163. Lines that DRAM words brought to a port, oldest first: port, PTAG, the MCLK cycle at which the line is there, its data and
  whether it is poisoned. -/
  bufIn : List (Nat × Nat × Nat × Bytes × Bool) := []
  deriving DecidableEq, Repr
/-! ### Light timing, colour and strip writing (08, 11) -/

/-- The action window of a RASTER or VECTOR word that is open. -/
structure LWin where
  /-- The store index of the word. -/
  word : Nat
  /-- 1 RASTER, 2 VECTOR. -/
  op : Nat
  /-- The CSEQ entry of a RASTER word. -/
  field : Nat
  slot : Nat
  finish : Nat
  /-- The next sweep: 2m forward, 2m + 1 backward, of period m. -/
  next : Int
  deriving DecidableEq, Repr

/-- Light that one channel is told to emit over some cycles of the running tick: an interval of a FIELD word or one pixel of a sweep. -/
structure Span where
  chan : Nat
  a : Nat
  b : Nat
  /-- Intensity. -/
  q : Nat
  /-- 0 not accounted, 1 write account, 2 erase account. -/
  acct : Nat
  seg : Nat
  /-- P(c, q) in µW and ETA of an accounted span. -/
  puw : Nat
  eta : Nat
  deriving DecidableEq, Repr

/-- An interval or a sweep as the CUT count sees it: its engine, its lit extent, and whether Table 8-4 shortened it when it was placed. -/
structure Show where
  eng : Nat
  a : Nat
  b : Nat
  cut : Bool
  deriving DecidableEq, Repr

/-- What LSE holds of one engine. -/
structure LseEng where
  /-- 32; 08 R223. P, in 1/256 ns. -/
  p : Nat := 0
  /-- 64; 08 R223. A, in 1/256 ns from the start of the running tick. -/
  a : Int := 0
  /-- 8; 08 R223. M. -/
  m : Nat := 0
  /-- 1; 08 R223. LK. -/
  lk : Bool := false
  /-- 16; 08 R236. EDGES. -/
  edges : Nat := 0
  /-- 16; 08 R236. ERR, in ns. -/
  err : Int := 0
  /-- 16; 08 R236. MAX. -/
  maxErr : Nat := 0
  /-- 1; 08 R228. PATHREG has been published: there is a path. -/
  path : Bool := false
  /-- 11; 08 R236. PTR. -/
  ptr : Nat := 0
  /-- 16; 08 R228. Periods that the running element has counted; `none` while none runs. -/
  run : Option Nat := none
  /-- 1; 08 R228. The path stands on END. -/
  stopped : Bool := true
  /-- 11; 08 R230. The element that the buffer starts with. -/
  bufAt : Nat := 0
  /-- 256 x 32; 08 R230. The buffer of 32 elements. -/
  buf : Bytes := []
  /-- 13; 08 R230. While the element clock stands still: the next slot in which FETCH_STARVE is raised. -/
  stall : Option Nat := none
  /-- 32; 09 R242. SRCLINE sweeps lit since the path was published. -/
  k : Nat := 0
  /-- 13; 08 R226. L, the next raster line. -/
  line : Nat := 0
  /-- 1; 09 R264. The raster of this frame was aborted. -/
  abort : Bool := false
  /-- x; 08 R226. The action window that is open. -/
  win : Option LWin := none
  /-- 16; 08 R229. The slow-axis set point as it stood at the start of the tick. -/
  sp0 : Int := 0
  /-- 16 x; 08 R229. Its changes in the running tick: the time in 1/1024 ns and the value, oldest first. -/
  sps : List (Int × Int) := []
  /-- 16; 08 R236. SP. -/
  sp : Int := 0
  /-- 32; 08 R236. COUNT of LSE_STROBEe. -/
  strobes : Nat := 0
  /-- 16; 08 R236. NOSTROBE. -/
  noStrobe : Nat := 0
  /-- 16; 08 R236. CUT. -/
  cut : Nat := 0
  /-- 1; 08 R221. The next FIELD word strobes even with NOSTROBE. -/
  force : Bool := true
  /-- 6; 09 R255. The plane last strobed. -/
  plane : Nat := 0
  deriving DecidableEq, Repr

/-- The interpolated colour values of one channel (11 R293). -/
structure ColCh where
  /-- 16; 11 R312. XC. -/
  xc : Nat := 0
  /-- 16; 11 R312. YC. -/
  yc : Nat := 0
  /-- 16; 11 R312. KLM. -/
  klm : Nat := 0
  /-- 32; 11 R312. GPD. -/
  gpd : Nat := 0
  /-- 32 x 17; 11 R312. PK_0 to PK_16. -/
  pk : List Nat := List.replicate 17 0
  /-- 16; 11 R296. BAL. -/
  bal : Nat := 0
  deriving DecidableEq, Repr

/-- One segment of the write job (11 R302, R304). -/
structure WvSeg where
  seg : Nat
  op : Nat
  profile : Nat
  facing : Nat
  ctgt : Nat
  /-- 3; Table 11-5. STATE. -/
  st : Nat
  /-- PHASE is write. -/
  write : Bool
  pass : Nat
  tgt : Nat
  base : Nat
  flags : Nat
  clast : Nat
  n : Nat
  m0 : Nat
  deriving DecidableEq, Repr

/-- A contrast record (13 R358). -/
structure Contrast where
  seg : Nat
  c : Nat
  valid : Bool
  blocked : Bool
  /-- The exposure TC. -/
  tc : Nat
  deriving DecidableEq, Repr

/-- The light sequencing engine. -/
structure Lse where
  /-- x 4; 08 R236. The engines. -/
  eng : List LseEng := [{}, {}, {}, {}]
  /-- x; 08 R218. Light of the running tick. -/
  spans : List Span := []
  /-- x; 08 R231. Intervals and sweeps of the running tick. -/
  shows : List Show := []
  /-- 8 x; 08 R218. Strobes of the running tick: engine, plane and flip cycle. -/
  flips : List (Nat × Nat × Nat) := []
  /-- 33 x; 08 R228. CLEAR elements of the running tick: segment and cycle. -/
  clears : List (Nat × Nat) := []
  /-- 16; 08 R233. The enables at the start of the running tick. -/
  len0 : Nat := 0
  /-- 26 x; 08 R233. Transitions of LEN in the running tick: channel, cycle and level, oldest first. -/
  lenEv : List (Nat × Nat × Bool) := []
  /-- 64 x 4096; 08 R232. The write accounts, fJ, by segment. -/
  wAcc : Amap := []
  /-- 64 x 4096; 08 R232. The erase accounts, fJ, by segment. -/
  eAcc : Amap := []
  /-- 32 x 4096; 08 R234. AREA16, by segment. -/
  area : Amap := []
  /-- 64; 08 R237. The tick whose settled accounts stand. -/
  settled : Nat := 0
  /-- 32 x 11; 08 R236. LSE_SNTC_LO to LSE_SNTWE_HI. -/
  sn : List Nat := List.replicate 11 0
  /-- 32 x 3; 11 R312. LSE_SNWV0 to 2. -/
  wvSn : List Nat := [0, 0, 0]
  /-- x 16; 11 R293. The interpolated values, by channel. -/
  col : List ColCh := List.replicate 16 {}
  /-- x 16; 11 R312. The same as they stood in the tick before. -/
  colWas : List ColCh := List.replicate 16 {}
  /-- 20 x 4; 11 R312. TSTALE, BAND and TEMP of each engine. -/
  colStat : List (Bool × Nat × Int) := List.replicate 4 (false, 0, 0)
  /-- 32; 11 R312. LSE_COLVAL. -/
  colVal : Nat := 0
  /-- x 4096; 11 R304. The segments of the job, in rising order. -/
  wv : List WvSeg := []
  /-- 16; 11 R312. JOBSEQ. -/
  jobSeq : Nat := 0
  /-- 13; 11 R312. COUNT. -/
  jobCount : Nat := 0
  /-- 16; 11 R312. FAILED. -/
  closed : Nat := 0
  /-- 256 x 64; 11 R309. The failure records, newest first. -/
  fr : List (List Nat) := []
  /-- 32; 11 R312. TOTAL. -/
  frTotal : Nat := 0
  /-- 32 x 8; 11 R312. LSE_FR0 to 7. -/
  frSn : List Nat := List.replicate 8 0
  deriving DecidableEq, Repr

/-! ### Scan-Out (09) -/

/-- A rectangle of mirrors. -/
structure Rect where
  x : Nat
  y : Nat
  w : Nat
  h : Nat
  deriving DecidableEq, Repr

/-- A decoded piece of the demand in the line buffer: a line, or a band of a rectangle, by its number in the demand. -/
structure Row where
  no : Nat
  /-- Pixels as 4096² B + 4096 G + R. -/
  px : List Nat
  /-- Some byte came from a poisoned line. -/
  poison : Bool
  deriving DecidableEq, Repr

/-- What PSO holds of one engine: its fetch unit and its port. -/
structure PsoEng where
  /-- x 32768; 09 R247. The line buffer, oldest first. -/
  rows : List Row := []
  /-- 32; 09 R245. The number of the next piece of the demand to be fetched. -/
  next : Nat := 0
  /-- 8 x; 09 R245. Bytes that the fixed path brought and that do not yet make a line. -/
  part : Bytes := []
  /-- 16 x; 09 R249. The poisoned ones among their 64-byte lines, by number. -/
  partBad : List Nat := []
  /-- 16; 09 R245. Lines that the running fixed-path FETCH word has taken. -/
  taken : Nat := 0
  /-- 8; 09 R245. The next PTAG of that word. -/
  tag : Nat := 0
  /-- 1; 09 R246. Elastic reads run: the running set has an elastic FETCH word that has started. -/
  go : Bool := false
  /-- 1; 09 R247. A consumer waits on absent data. -/
  waiting : Bool := false
  /-- 2; 09 R247. The CLASS that elastic reads are issued with now; at 0 none is. -/
  cls : Nat := 0
  /-- 2; 09 R248. The LINES demand of a scanner engine: 1 raster, 2 path, 0 none yet. -/
  mode : Nat := 0
  /-- 7; 09 R248. The region and buffer latched for a raster. -/
  latch : Option (Nat × Nat) := none
  /-- 7; 09 R248. The region and buffer latched for a path. -/
  platch : Option (Nat × Nat) := none
  /-- 1; 09 R267. BADSURF. -/
  bad : Bool := false
  /-- 16; 09 R267. WMHI. -/
  wmhi : Nat := 24576
  /-- 16; 09 R267. WMLO. -/
  wmlo : Nat := 8192
  /-- 64; 09 R265. PSO_FRAMESe. -/
  frames : Nat := 0
  /-- 64 x 256; 09 R251. The rectangles of the present restart. -/
  pend : List Rect := []
  /-- 64 x 256; 09 R251. The committed list. -/
  committed : List Rect := []
  /-- 64 x; 09 R253. Rectangles sent since the last flip. -/
  sent : List Rect := []
  /-- 64 x; 09 R253. Lists published between a commit and its flip. -/
  later : List Rect := []
  /-- 1; 09 R251. The push became the whole module between a commit and its flip. -/
  laterAll : Bool := false
  /-- 6; 09 R252. How many push planes of the band have been sent. -/
  pi : Nat := 0
  /-- 16; 09 R257. Bands of the restart that the port is done with. -/
  band : Nat := 0
  /-- 64; 09 R252. The tick of the last restart. -/
  restartTc : Nat := 0
  /-- 1; 09 R253. A restart waits for its commit. -/
  open_ : Bool := false
  /-- 26; 09 R252. The PUSH window that is open: word, SLOT and FINISH. -/
  pushWin : Option (Nat × Nat × Nat) := none
  /-- 1; 09 R263. The open PUSH word was starved. -/
  starved : Bool := false
  /-- 26; 09 R253. The commit window that is open: SLOT and FINISH. -/
  commitWin : Option (Nat × Nat) := none
  /-- 25; 09 R255. When the wire is free, in 1/16 cycle of the running tick. -/
  wire : Nat := 0
  /-- 25; 09 R253. When the last byte of the last REGION packet is on the wire, in 1/16 cycle of the running tick. -/
  regEnd : Nat := 0
  /-- 13; 09 R255. FIELD words of the running tick whose strobe has been settled. -/
  fields : Nat := 0
  /-- 1; 09 R253. FLIP. -/
  flip : Bool := false
  /-- 1; 09 R253. COMMITPEND. -/
  commitPend : Bool := false
  /-- 32; 09 R265. COMMITS. -/
  commits : Nat := 0
  /-- 16; 09 R265. RECTS of the restart so far. -/
  rects : Nat := 0
  /-- 32; 09 R265. BYTES of the restart so far. -/
  bytes : Nat := 0
  /-- 16; 09 R265. Late commits since the last flip. -/
  lateNow : Nat := 0
  /-- 32; 09 R267. PSO_LATEe. -/
  late : Nat := 0
  /-- 16; 09 R267. ABORTS. -/
  aborts : Nat := 0
  /-- 16; 09 R267. POISON. -/
  poison : Nat := 0
  /-- 1; 09 R267. A retrain is due at the next boundary. -/
  retrain : Bool := false
  /-- 1; 09 R267. TRAINED. -/
  trained : Bool := false
  /-- 64; 09 R259. The MCLK cycle at which the lanes started. -/
  laneAt : Option Nat := none
  /-- 32; 09 R267. PSO_PKTSe. -/
  pkts : Nat := 0
  /-- 16; 09 R256. SEQ of the next packet. -/
  seq : Nat := 0
  /-- 8 x; 09 R255, R256. Packets and training patterns that the plane port sends in the running tick, newest first: first byte, in 1/16 cycle
  from its start, and bytes. -/
  out : List (Int × Bytes) := []
  /-- 1; 09 R254. The first strobe after a flip is still to come. -/
  flipNew : Bool := false
  /-- 32 x 6; 09 R265. The flip record: SNFLIP0 to 5. -/
  flipRec : List Nat := [0, 0, 0, 0, 0, 0]
  deriving DecidableEq, Repr

/-- Scan-Out. -/
structure Pso where
  /-- x 4; 09 R267. The engines. -/
  eng : List PsoEng := [{}, {}, {}, {}]
  /-- 32 x 6; 09 R265. PSO_SNFLIP0 to 5. -/
  sn : List Nat := [0, 0, 0, 0, 0, 0]
  deriving DecidableEq, Repr

/-! ### The servo engine (10) -/

/-- One control loop. -/
structure Loop where
  /-- 32; 10 R282. r. -/
  r : Int := 0
  /-- 32; 10 R282. v. -/
  v : Int := 0
  /-- 48; 10 R278. I. -/
  i : Int := 0
  /-- 32; 10 R278. y_prev. -/
  y : Int := 0
  /-- 32; 10 R290. e of the last update. -/
  e : Int := 0
  /-- 32; 10 R278. d_prev. -/
  d : Int := 0
  /-- 16; 10 R278. u_prev, the loop's output. -/
  u : Int := 0
  /-- 32 x 8; 10 R280. x1, x2, y1, y2 of both biquads. -/
  bq : List Int := List.replicate 8 0
  /-- 1; 10 R283. SOFT. -/
  soft : Bool := false
  /-- 1; 10 R284. The next update enables the loop. -/
  need : Bool := true
  /-- 16; 10 R284. u_h of that enable: `none` is the last output. -/
  uh : Option Int := none
  /-- 4; 10 R290. SAMPLE. -/
  j : Nat := 0
  /-- 1; 10 R290. SATOUT. -/
  satOut : Bool := false
  /-- 1; 10 R290. SATRATE. -/
  satRate : Bool := false
  /-- 1; 10 R290. IHOLD. -/
  ihold : Bool := false
  /-- 1; 10 R290. HELD. -/
  held : Bool := false
  /-- 1; 10 R290. The last sample was held for a park. -/
  parkHeld : Bool := false
  /-- 16; 10 R290. FALLBACK holds. -/
  fbHolds : Nat := 0
  /-- 16; 10 R290. GATED holds. -/
  gateHolds : Nat := 0
  /-- 16; 10 R290. RATE. -/
  rates : Nat := 0
  /-- 16; 10 R290. OUTPUT. -/
  outs : Nat := 0
  /-- 4; 10 R290. TSTATE. -/
  tst : Nat := 0
  /-- 4; 10 R290. TCAUSE. -/
  tcause : Nat := 0
  /-- 1; 10 R287. The tune bit as the last update saw it. -/
  tbit : Bool := false
  /-- 16; 10 R288. u0. -/
  tu0 : Int := 0
  /-- 32; 10 R288. rc. -/
  trc : Int := 0
  /-- 1; 10 R288. s is +1. -/
  tpos : Bool := true
  /-- 16; 10 R288. n. -/
  tn : Nat := 0
  /-- 6; 10 R288. k. -/
  tk : Nat := 0
  /-- 16; 10 R288. n of rising switch 3. -/
  tn3 : Nat := 0
  /-- 32; 10 R288. lo. -/
  tlo : Int := 0
  /-- 32; 10 R288. hi. -/
  thi : Int := 0
  /-- 32; 10 R290. TU. -/
  tu : Nat := 0
  /-- 32; 10 R290. AMP2. -/
  amp2 : Nat := 0
  /-- 32; 10 R290. KU. -/
  ku : Nat := 0
  deriving DecidableEq, Repr

/-- The servo engine. -/
structure Srv where
  /-- x 16; 10 R290. The loops. -/
  loops : List Loop := List.replicate 16 {}
  /-- 16 x 8; 10 R290. The code each DRV channel drives. -/
  drv : List Nat := List.replicate 8 0
  /-- 16 x 8; 10 R285. PARKCODE of each DRV channel that is parked. -/
  parked : List (Option Nat) := List.replicate 8 none
  /-- 4 x 8; 10 R275. The loop that owns each shared channel now. -/
  owner : List (Option Nat) := List.replicate 8 none
  /-- 17 x 12; 10 R290. The last sample of each SNS channel and its FALLBACK. -/
  sns : List (Nat × Bool) := List.replicate 12 (0, false)
  /-- 33 x; 18 R475. The scheduled samples of the running tick: SNS channel, sample point, value and fallback. -/
  samp : List (Nat × Nat × Int × Bool) := []
  /-- 4; 10 R276. The parks at the start of the running tick, by engine. -/
  park0 : Nat := 0
  /-- 25 x; 10 R285. Parks and releases in the running tick: engine, cycle and level, oldest first. -/
  parkEv : List (Nat × Nat × Bool) := []
  /-- 32 x 13; 10 R290. SRV_SN0 to 12. -/
  sn : List Nat := List.replicate 13 0
  deriving DecidableEq, Repr


/-! ### Loupe (13) -/

/-- A frame that a receiver is taking in (13 R346, R347). -/
structure RxFrame where
  ctx : Nat
  frame : Nat
  /-- Exposure TC, 0 for an UNSYNC frame. -/
  etc : Nat
  unsync : Bool
  damaged : Bool
  full : Bool
  /-- Lines received so far. -/
  got : Nat
  /-- The lines of the stripe being received, in order. -/
  cur : List (List Nat)
  /-- That stripe found no free place (R348). -/
  lost : Bool
  /-- Bytes of embedded data taken in this frame. -/
  emb : Nat
  deriving DecidableEq, Repr

/-- A stripe that is ready: the value of a stripe event (13 R347). -/
structure Stripe where
  rx : Nat
  ctx : Nat
  frame : Nat
  k : Nat
  etc : Nat
  damaged : Bool
  unsync : Bool
  full : Bool
  lines : List (List Nat)
  /-- Cycle at which it became ready. -/
  stamp : Nat
  /-- It holds a place of its receiver's stripe store. -/
  place : Bool
  deriving DecidableEq, Repr

/-- One CSI receiver. -/
structure CsiRx where
  /-- 1; 13 R363. UP. -/
  up : Bool := false
  /-- x; 13 R341, R346. The frames being received: at most one on each virtual channel. -/
  frames : List RxFrame := []
  /-- 8; 13 R363. ECCCOR. -/
  eccCor : Nat := 0
  /-- 8; 13 R363. ECCBAD. -/
  eccBad : Nat := 0
  /-- 8; 13 R363. CRC. -/
  crc : Nat := 0
  /-- 8; 13 R363. OTHER. -/
  other : Nat := 0
  /-- 8; 13 R363. DROPS. -/
  drops : Nat := 0
  /-- 13 x; 13 R347. Places that a PROCESS word frees at these cycles of the running tick. -/
  free : List Nat := []
  /-- 35; 13 R351. The unfinished frame that frame mode follows: context and frame number. -/
  last : Option (Nat × Nat) := none
  deriving DecidableEq, Repr

/-- A line as the pipeline holds it: p0, p1 and p2 (13 R349). -/
structure PLine where
  p0 : List Nat
  p1 : List Nat
  p2 : List Nat
  deriving DecidableEq, Repr

/-- A frame under way in the pipeline, or finished and waiting for its record. -/
structure PFrame where
  frame : Nat
  etc : Nat
  damaged : Bool
  unsync : Bool
  full : Bool
  trunc : Bool
  /-- The output buffer in use, for outputs with two. -/
  buf : Nat
  /-- The vision buffer in use. -/
  vbuf : Nat
  /-- The next stripe. -/
  k : Nat
  /-- Lines taken so far: the frame's state in the pipeline, the held line among them. -/
  lines : List PLine
  /-- Bytes of the JPEG stream produced so far. -/
  jpeg : Nat
  deriving DecidableEq, Repr

/-- A completed vision frame (13 R350). -/
structure VFrame where
  vbuf : Nat
  etc : Nat
  bad : Bool
  tc : Nat
  fin : Nat
  used : Bool
  deriving DecidableEq, Repr

/-- One context. -/
structure LpeCtx where
  /-- 11; 13 R363. PULSES of the open group. -/
  pulses : Nat := 0
  /-- 64; 13 R346. Exposure TC of the open group. -/
  openTc : Nat := 0
  /-- 64 x; 13 R346. Exposure TCs of the closed groups that no frame has matched, oldest first. -/
  groups : List Nat := []
  /-- 32; 13 R347. The number of the next frame. -/
  next : Nat := 0
  /-- x; 13 R351. The frame in the pipeline. -/
  cur : Option PFrame := none
  /-- 1; 13 R355. The output buffer of the next frame. -/
  buf : Nat := 0
  /-- 1; 13 R350. The vision buffer of the next frame. -/
  vbuf : Nat := 0
  /-- x; 13 R350. Completed vision frames, newest first. -/
  vis : List VFrame := []
  /-- 1; 13 R360. The background frame has been set since the apply point. -/
  bg : Bool := false
  /-- x; 13 R356. Frames whose record is still to be written, oldest first. -/
  fin : List PFrame := []
  /-- 8 x; 13 R355. Produced bytes of fixed streams that no WRITE word has taken: frame number, stream, the cycle of the running tick from which
  they count as produced, and bytes. -/
  q : List (Nat × Nat × Nat × Bytes) := []
  /-- 32 x 8; 13 R363. The last frame-done record. -/
  done : List Nat := List.replicate 8 0
  /-- 32; 13 R363. COUNT. -/
  count : Nat := 0
  /-- 16; 13 R363. UNSYNC. -/
  unsync : Nat := 0
  /-- 16; 13 R363. DAMAGED. -/
  damaged : Nat := 0
  /-- 16; 13 R363. TRUNC. -/
  trunc : Nat := 0
  /-- 16; 13 R363. ZFILL. -/
  zfill : Nat := 0
  deriving DecidableEq, Repr

/-- A presence map (13 R361). -/
structure PMap where
  ctx : Nat
  etc : Nat
  valid : Bool
  /-- 512 zones of each engine. -/
  occ : List Nat
  /-- The tick and cycle at which it was handed to Aperture. -/
  tc : Nat
  cyc : Nat
  deriving DecidableEq, Repr

/-- Loupe. -/
structure Lpe where
  /-- x 2; 13 R363. The receivers. -/
  rx : List CsiRx := [{}, {}]
  /-- x 8; 13 R363. The contexts. -/
  ctx : List LpeCtx := List.replicate 8 {}
  /-- x; 13 R347. Stripes stamped in the running tick, oldest first. -/
  ready : List Stripe := []
  /-- x; 13 R347. Delivered stripes that have not been processed, oldest first. -/
  stripes : List Stripe := []
  /-- 32 x; 13 R344. Trigger pulses of the running tick: receiver, first cycle, end. -/
  trig : List (Nat × Nat × Nat) := []
  /-- 24 x; 13 R346. Pulses of the running tick that have yet to end: context and end. -/
  pulses : List (Nat × Nat) := []
  /-- 3; 13 R363. CTXLAST, and CTXV. -/
  ctxLast : Option Nat := none
  /-- x; 13 R360. A map that waits for its PRESENCE word's FINISH. -/
  mapNext : Option PMap := none
  /-- x; 13 R361. The newest map handed to Aperture. -/
  map : Option PMap := none
  /-- x; 13 R358. The map handed before it. -/
  mapWas : Option PMap := none
  /-- x; 13 R358. Contrast records of the running tick. -/
  recs : List Contrast := []
  /-- 16; 13 R363. RECORDS. -/
  records : Nat := 0
  /-- 16; 13 R363. SKIPPED. -/
  skipped : Nat := 0
  /-- 32 x 8; 13 R363. LPE_FRSN0 to 7. -/
  frSn : List Nat := List.replicate 8 0
  /-- 32 x 3; 13 R363. LPE_PMINFO and the LPE_PMTC pair. -/
  pmInfo : List Nat := [0, 0, 0]
  /-- 32 x 16; 13 R363. LPE_PMSN0 to 15. -/
  pmSn : List Nat := List.replicate 16 0
  deriving DecidableEq, Repr

/-! ### Calibration and trim (12) -/

/-- A calibration run (12 R331). -/
structure CalRun where
  /-- 3; 12 R337. STATE: 0 idle, 1 running, 2 done, 3 failed. -/
  st : Nat := 0
  /-- 5; 12 R337. CAUSE. -/
  cause : Nat := 0
  /-- 4; 12 R337. RUN, the run code. -/
  code : Nat := 0
  /-- 16; 12 R337. REQ. -/
  req : Nat := 0
  /-- 8; 12 R337. TARGET. -/
  target : Nat := 0
  /-- 16; 12 R337. TICKS since the start. -/
  ticks : Nat := 0
  /-- 8; 12 R337. ACTIVE ticks. -/
  active : Nat := 0
  /-- 1; 12 R332. The running tick is an active one. -/
  inTick : Bool := false
  /-- 2; 12 R334. The set the run started in. -/
  set : Nat := 3
  /-- 32 x; 12 R332. Sums of the raw codes taken so far, by point. -/
  sums : List Int := []
  /-- 16 x; 12 R332. How many codes each sum holds. -/
  counts : List Nat := []
  /-- 1; 12 R334. A PCURVE loop update took a fallback sample in the running tick. -/
  fbHit : Bool := false
  deriving DecidableEq, Repr

/-- A record copy that is to be written (12 R322, R323). Its slot and generation are settled when its write starts. -/
structure RecWrite where
  kind : Nat
  /-- It goes into slot F. -/
  f : Bool
  run : Nat
  tc : Nat
  temp : Int
  body : Bytes
  /-- An import brought it. -/
  imp : Bool
  deriving DecidableEq, Repr

/-- Calibration, the OTP and the trim NVM. -/
structure Cal where
  /-- 8 x 512; 12 R314. The OTP array, as blown. -/
  array : Bytes := List.replicate 512 0
  /-- 8 x 512; 12 R314. The OTP as latched at PORST_N release. -/
  otp : Bytes := List.replicate 512 0
  /-- 39; 12 R317. The word being programmed: byte offset and bits. -/
  prog : Option (Nat × Nat) := none
  /-- 1; 12 R337. PROGERR. -/
  progErr : Bool := false
  /-- 4; 12 R337. CAL_IMPSTAT.STATE. -/
  impSt : Nat := 0
  /-- 8; 12 R337. CAL_IMPSTAT.CODE. -/
  impCode : Nat := 0
  /-- 4; 12 R337. CAL_IMPSTAT.KIND. -/
  impKind : Nat := 0
  /-- 8 x; 12 R323. The record that an import has read. -/
  impBuf : Option Bytes := none
  /-- 8 x; 12 R322. The record copies to be written, the one being written first. -/
  wr : List RecWrite := []
  /-- 2; 12 R337. CAL_NVMSTAT.STATE. -/
  nvmSt : Nat := 0
  /-- 3; 12 R337. CAL_NVMSTAT.KIND. -/
  nvmKind : Nat := 0
  /-- 2; 12 R337. CAL_NVMSTAT.SLOT. -/
  nvmSlot : Nat := 0
  /-- 17; 12 R337. CAL_NVMADDR. -/
  nvmAddr : Nat := 0
  /-- 2 x 3; 12 R321. Which copy of each kind is in use: 0 none, 1 F, 2 A, 3 B. -/
  src : List Nat := [0, 0, 0]
  /-- 8 x; 12 R325. The live record bodies: COLOUR, CONVERTER, REGISTRATION. -/
  live : List Bytes := [[], [], []]
  /-- 32 x 3; 12 R321. GEN of the copy in use. -/
  gen : List Nat := [0, 0, 0]
  /-- 3 x 3; 12 R337. VALID: which of the copies F, A and B of each kind pass their checks. -/
  valid : List Nat := [0, 0, 0]
  /-- 16; 12 R327. The die temperature of the running tick, 0.01 C. -/
  die : Int := 0
  /-- 16; 12 R328. OFS and GAIN in force of the SNS channels 0 to 11, then the DRV channels 0 to 7. -/
  ofs : List Int := List.replicate 20 0
  /-- 16; 12 R328. GAIN in force, Q1.15. -/
  gain : List Nat := List.replicate 20 0x8000
  /-- 1; 12 R327. CAL_DIETEMP.STALE. -/
  dieStale : Bool := false
  /-- x; 12 R331. The run. -/
  run : CalRun := {}
  /-- 16 x 16; 12 R335. A run's conversions that the bundle of the running tick brought. -/
  raws : List Nat := []
  /-- 4; 12 R337. CAL_REQLAST.OUTCOME. -/
  reqOut : Nat := 0
  /-- 16; 12 R337. CAL_REQLAST.REQ. -/
  reqLast : Nat := 0
  /-- 1; 12 R329. A request has been delivered. -/
  reqSeen : Bool := false
  /-- 16; 12 R337. CAL_RUNRES.GAIN. -/
  resGain : Nat := 0
  /-- 16; 12 R337. CAL_RUNRES.OFS. -/
  resOfs : Int := 0
  /-- 32 x 17; 12 R337. The ratios of the last PCURVE result. -/
  ratios : List Int := List.replicate 17 0
  /-- 32; 12 R337. CAL_RATIO, the snapshot. -/
  ratio : Nat := 0
  deriving DecidableEq, Repr

/-! ### The twin (16) -/

/-- The partner's BEAT as it last came (16 Table 16-5). -/
structure Beat where
  uid : Nat
  hash : Bytes
  seat : Nat
  st : Nat
  flags : Nat
  rev : Nat
  ltc : Nat
  deriving DecidableEq, Repr

/-- A frame that was sent (16 R417). -/
structure TwinTx where
  type : Nat
  offset : Nat
  seq : Nat
  payload : Bytes
  deriving DecidableEq, Repr

/-- Bytes of a stream that have arrived: stream SEQ, offset, bytes. -/
abbrev Seg := Nat × Nat × Bytes

/-- An entry of a tick's digest streams: word, cycle, index and bytes (16 R425). -/
abbrev DigEv := Nat × Nat × Nat × Bytes

/-- The twin. -/
structure Twn where
  /-- 4; 16 R443. STATE (Table 16-8). -/
  st : Nat := 0
  /-- 1; 16 R427. The level of LEAD_IN, and the recognised level. -/
  leadIn : Bool := false
  /-- 1; 16 R443. SEATERR. -/
  seatErr : Bool := false
  /-- 1; 16 R443. CFGMISM. -/
  cfgMism : Bool := false
  /-- 1; 16 R443. PAIRFAULT_N is driven low. -/
  pairFault : Bool := false
  /-- 4; 16 R443. EVENT. -/
  event : Nat := 0
  /-- 64; 16 R443. LTC of the last event. -/
  evTc : Nat := 0
  /-- 8; 16 R443. DELAY. -/
  delay : Nat := 0
  /-- 1; 16 R443. UP. -/
  up : Bool := false
  /-- 16; 16 R443. DOWNS. -/
  downs : Nat := 0
  /-- 16; 16 R443. UNCORR. -/
  uncorr : Nat := 0
  /-- 16; 16 R443. CORR. -/
  corr : Nat := 0
  /-- 64; 16 R420. TWN_LTCOFS: TC less LTC. -/
  ofs : Int := 0
  /-- 16; 16 R443. LATE. -/
  late : Nat := 0
  /-- 16; 16 R443. OVERFLOW. -/
  overflow : Nat := 0
  /-- 16; 16 R443. RESENT. -/
  resent : Nat := 0
  /-- 16; 16 R443. NAKS. -/
  naks : Nat := 0
  /-- 4; 16 R443. PASS of the copy. -/
  pass : Nat := 0
  /-- 4; 16 R443. STAGE: 0 none, 1 copy, 2 capture, 3 glide. -/
  stage : Nat := 0
  /-- 32; 16 R443. TWN_AGREE. -/
  agree : Nat := 0
  /-- 32; 16 R443. TWN_THETA, ns. -/
  theta : Int := 0
  /-- 32; 16 R417. The next entry of the link's receive ring to be filled; TWN_RXHEAD stands behind it while entries are being written. -/
  rxHead : Nat := 0
  /-- 32; 16 R443. TWN_TXHEAD. -/
  txHead : Nat := 0
  /-- 32; 16 R417. The number of the next FW frame sent. -/
  fseq : Nat := 0
  /-- 64; 16 Table 16-4. FACK: the highest FSEQ received in order, plus one. -/
  fack : Nat := 0
  /-- 32 x 8; 16 R425. D of the last closed tick. -/
  dig : List Nat := List.replicate 8 0
  /-- 32 x 8; 16 R443. TWN_DIG0 to 7. -/
  digSn : List Nat := List.replicate 8 0
  /-- x; 16 R425. Entries of the running tick's digest streams 1, 2 and 7, newest first. -/
  digEv : List DigEv := []
  /-- x; 16 R427. The partner's last BEAT. -/
  beat : Option Beat := none
  /-- 11; 16 R427. Ticks since it came. -/
  beatAge : Nat := 0
  /-- 53; 16 R442. Cycle and TC of this chip's last BEAT, and of its last but one. -/
  txBeat : List (Nat × Nat) := []
  /-- 53; 16 R442. Cycle and TC at which the partner's last BEAT came, and its last but one. -/
  rxBeat : List (Nat × Nat) := []
  /-- 1; 16 R441. DETACH is to go out in the next BEAT. -/
  detach : Bool := false
  /-- 1; 16 R441. The BEAT with DETACH has gone out, or the partner's has come: the next boundary detaches. -/
  detachNow : Bool := false
  /-- 1; 16 R441. YIELD was written. -/
  yield_ : Bool := false
  /-- 1; 16 R435. A valid partner's JOINREQ waits for the next boundary. -/
  joinReq : Bool := false
  /-- 1; 16 R435. This chip's BEAT shows BUSY. -/
  busy : Bool := false
  /-- 16; 16 R428. Boundaries since the apply point. -/
  seatTicks : Nat := 0
  /-- 11; 16 R434. Ticks since the last ACK. -/
  ackAge : Nat := 0
  /-- 64; 16 Table 16-4. BACK of the partner's last ACK, plus one. -/
  back : Nat := 0
  /-- 64; 16 Table 16-4. MACK of the partner's last ACK. -/
  mack : Nat := 0
  /-- 64; 16 Table 16-4. FACK of the partner's last ACK, plus one. -/
  pfack : Nat := 0
  /-- x; 16 R421. The records of the running bundle that are ready. -/
  bun : Bytes := []
  /-- 32; 16 R422. How many records. -/
  bunN : Nat := 0
  /-- x; 16 R421. Bundle bytes that BUNDLE words have yet to send: LTC, offset and bytes, oldest first. -/
  unsent : List Seg := []
  /-- x 16; 16 R431. The bundles of the last 16 logical ticks: LTC and stream, newest first. -/
  sent : List (Nat × Bytes) := []
  /-- x; 16 R431. MIRROR, STATE and FW frames that the partner has not acknowledged, oldest first. -/
  keep : List TwinTx := []
  /-- x; 16 R417. The frames put on the link in the running tick, newest first. -/
  link : List TwinTx := []
  /-- x; 16 R424. Bundle bytes that have arrived. -/
  rxb : List Seg := []
  /-- x; 16 R438. Bytes of the STATE stream that have arrived. -/
  rxs : List Seg := []
  /-- x; 16 R424. MIRROR frames held behind a gap: MSEQ, FA and data. -/
  held : List (Nat × Nat × Bytes) := []
  /-- 64; 16 R422. The next MSEQ: performed here as lead, applied here as shadow. -/
  mseq : Nat := 0
  /-- 64; 16 R436. The region being copied and the bytes of it that have been. -/
  copy : Option (Nat × Nat) := none
  /-- 45; 16 R436. The lowest region and offset that the present pass has missed. -/
  redo : Option (Nat × Nat) := none
  /-- 13; 16 R436. Lines in the buffer of forwarded writes. -/
  fwdLines : Nat := 0
  /-- 1; 16 R437. The last pass is complete and its completion waits for JOINDONE. -/
  copied : Bool := false
  /-- 1; 16 R437. JOINDONE is delivered at the next boundary. -/
  joinEv : Bool := false
  /-- 1; 16 R437. Elastic writes to mirrored regions are forwarded. -/
  forward : Bool := false
  /-- 1; 16 R437. JOIN holds in the running tick. -/
  join : Bool := false
  /-- 1; 16 R422. FAULTSET of the running bundle. -/
  faultSet : Bool := false
  /-- 1; 16 R422. END of the running bundle has been formed. -/
  bunEnd : Bool := true
  /-- x; 16 R436. Writes to memory that may have to be forwarded, as performed, oldest first: address, data, and whether a fixed
  write made them. -/
  fwd : List (Nat × Bytes × Bool) := []
  /-- 4; 16 R443. CATCHFAIL of the copy, to be acted on at the next boundary. -/
  copyFail : Bool := false
  deriving DecidableEq, Repr

/-! ### Aperture (14) -/

/-- A log entry of Aperture (14 R387). -/
structure SafLog where
  code : Nat
  tcode : Nat
  chan : Nat
  stampv : Bool
  wasdark : Bool
  zone : Nat
  cycle : Nat
  tc : Nat
  aclk : Nat
  deriving DecidableEq, Repr

/-- What Aperture measures of one scanner and holds of one engine. -/
structure SafEng where
  /-- 1; 14 R384. QUAL. -/
  qual : Bool := false
  /-- 1; 10 R285. The engine is parked. -/
  park : Bool := true
  /-- 8; 14 R384. Consecutive good crossings. -/
  good : Nat := 0
  /-- 14; 14 R387. CROSS. -/
  cross : Nat := 0
  /-- 64; 14 R373. ACLK of the last rising crossing. -/
  lastRise : Option Nat := none
  /-- 64; 14 R384. ACLK of the last crossing. -/
  lastX : Option Nat := none
  /-- 32; 14 R373. Pa, in Aperture cycles; 0 until two rising crossings. -/
  pa : Nat := 0
  /-- 12; 14 R373. The last slow-axis sample. -/
  slow : Nat := 0
  /-- 1; 14 R384. The envelope is at or above AMPMIN. -/
  env : Bool := false
  /-- 1; 13 R361. VALID of the newest map. -/
  mapOk : Bool := false
  /-- 64; 13 R361. ETC of the newest map. -/
  mapEtc : Nat := 0
  /-- 512; 13 R361. Its occupied zones. -/
  mapOcc : Nat := 0
  /-- 64 x 512; 14 R377. The last LTC in which the engine emitted under CLEAR in each zone (0 for an array engine). -/
  lit : Amap := []
  deriving DecidableEq, Repr

/-- Aperture. -/
structure Saf where
  /-- 1; 14 R387. DARK. -/
  dark : Bool := true
  /-- 4; 14 R387. CAUSE. -/
  cause : Nat := 0
  /-- 4; 14 R387. REARMERR. -/
  rearmErr : Nat := 0
  /-- 1; 14 R383. A re-arm is requested for the next boundary. -/
  rearmReq : Bool := false
  /-- 64; 14 R383. ACLK of the last trigger, once there is one. -/
  lastTrig : Option Nat := none
  /-- 1; 14 R387. INTFAULT. -/
  intFault : Bool := false
  /-- 1; 14 R383. The interlock has been recognised open since INTFAULT latched. -/
  opened : Bool := false
  /-- 1; 14 R387. LENFLT. -/
  lenFlt : Bool := false
  /-- 14; 14 R387. Trigger conditions that are present, by code. -/
  cond : Nat := 0
  /-- 16; 14 R387. ENA. -/
  ena : Nat := 0xFFFF
  /-- 16; 14 R387. DRIVE. -/
  drive : Nat := 0
  /-- 16; 14 R387. LEN balls that read back unlike their driven level. -/
  stuck : Nat := 0
  /-- 16; 14 R375. Channels whose monitor stands above its cap. -/
  above : Nat := 0
  /-- 16; 14 R387. Channels now under CLEAR. -/
  clear : Nat := 0
  /-- 64 x 16; 14 R375. ACLK at which each channel's enable was last high under CLEAR, once it no longer is. -/
  clearAt : List (Option Nat) := List.replicate 16 none
  /-- 1; 14 R387. Recognised SAFE_IN_A. -/
  a : Bool := false
  /-- 1; 14 R387. Recognised SAFE_IN_B. -/
  b : Bool := false
  /-- 2; 14 R387. STATE of the interlock: 0 closed, 1 open, 2 discrepant. -/
  ist : Nat := 0
  /-- 64; 14 R383. ACLK at which the interlock was recognised closed. -/
  closedAt : Option Nat := none
  /-- 64; 14 R372. The LTC that Aperture holds. -/
  ltc : Nat := 0
  /-- x 4; 14 R384. The engines. -/
  eng : List SafEng := [{}, {}, {}, {}]
  /-- 192 x 16; 14 R387. The log, newest first. -/
  log : List SafLog := []
  /-- 32; 14 R387. SAF_LOGPTR. -/
  logTotal : Nat := 0
  /-- 32 x 6; 14 R387. SAF_LOG0 to 5. -/
  logSn : List Nat := [0, 0, 0, 0, 0, 0]
  /-- 32 x 16; 14 R387. Triggers of each code. -/
  cnt : List Nat := List.replicate 16 0
  /-- 16; 14 R387. SAF_TESTLAT. -/
  testLat : Nat := 0
  /-- 32 x 16; 14 R387. SAF_ZSN0 to 15. -/
  zsn : List Nat := List.replicate 16 0
  /-- 8 x 2112; 14 R388, 18 R481. The SAFETY body that Aperture works by, which only PORST_N takes from it. -/
  kept : List Byte := []
  /-- 4; 14 R388, 18 R481. The scanner engines that it knows. -/
  scanners : Nat := 0
  deriving DecidableEq, Repr

/-! ### Watchdog and debug (19) -/

/-- The watchdog. -/
structure Wdg where
  /-- 1; 19 R510. RUN. -/
  run : Bool := false
  /-- 32; 19 R510. WDG_COUNT. -/
  count : Nat := 0
  /-- 32; 19 R490. TIMEOUT of the running configuration. -/
  timeout : Nat := 0xFFFFFFFF
  /-- 32; 19 R490. WINDOW of the running configuration. -/
  window : Nat := 0
  /-- 32; 19 R490. WARN of the running configuration. -/
  warn : Nat := 0
  /-- 1; 19 R510. WDG_STAT.WARN. -/
  warned : Bool := false
  /-- 1; 19 R510. CFGUSED. -/
  cfgUsed : Bool := false
  /-- 1; 19 R510. CFGERR. -/
  cfgErr : Bool := false
  /-- 64; 19 R491. The MCLK cycle of the first key, once taken. -/
  key : Option Nat := none
  /-- 8; 19 R510. WDG_EVCAUSE.COUNT. -/
  evCount : Nat := 0
  /-- 1; 19 R510. PCV. -/
  pcv : Bool := false
  /-- 3; 19 R510. WDG_EVCAUSE.CAUSE. -/
  evCause : Nat := 0
  /-- 32; 19 R510. WDG_EVPC. -/
  evPc : Nat := 0
  /-- 64; 19 R510. WDG_EVTC. -/
  evTc : Nat := 0
  /-- 21; 19 R510. WDG_EVCYC. -/
  evCyc : Nat := 0
  /-- 64; 19 R510. WDG_EVSVTC. -/
  evSvTc : Nat := 0
  /-- 21; 19 R510. WDG_EVSV. -/
  evSv : Nat := 0
  /-- 64; 19 R510. TC of the last accepted service. -/
  svTc : Nat := 0
  /-- 21; 19 R510. Cycle of the last accepted service. -/
  svCyc : Nat := 0
  /-- 64; 19 R493. AON microsecond since which WDOUT_N is driven low. -/
  outAt : Option Nat := none
  deriving DecidableEq, Repr

/-- A memory command of the serial debug port that is under way (19 R498). -/
structure SdpMem where
  write : Bool
  /-- MEMWRF (R505). -/
  forced : Bool
  /-- Address of the first word, and how many there are. -/
  fa : Nat
  cnt : Nat
  /-- Words that have been answered. -/
  i : Nat
  /-- The words of a write. -/
  data : List Word
  /-- The first status that was not OK, and its index. -/
  bad : Option (Nat × Nat)
  /-- What a read has brought so far. -/
  got : Bytes
  deriving DecidableEq, Repr

/-- The serial debug port and the DBG block. -/
structure Dbg where
  /-- 1; 19 R499. Connected. -/
  conn : Bool := false
  /-- 1; 19 R498. A CONNECT waits for domain 59. -/
  connWait : Bool := false
  /-- 1; 19 R511. HKPHALT. -/
  hkpHalt : Bool := false
  /-- 16; 19 R501. Instructions still to run in an HKPSTEP; 0 while none runs. -/
  hkpStep : Nat := 0
  /-- 32 x 33; 19 R501. x0 to x31 and the PC of the halted HKP. -/
  hkp : List Nat := List.replicate 33 0
  /-- 1; 19 R511. TSQHALT. -/
  halted : Bool := false
  /-- 1; 19 R511. PEND. -/
  pend : Bool := false
  /-- 4; 19 R511. CAUSE. -/
  cause : Nat := 0
  /-- 16; 19 R511. LEFT: ticks still to be walked in a TSTEP. -/
  left : Nat := 0
  /-- 64; 19 R511. DBG_HALTTC. -/
  haltTc : Nat := 0
  /-- 1; 19 R504. The tick that runs is walked under a TSTEP. -/
  stepping : Bool := false
  /-- x; 19 R498. The memory command that is under way. -/
  mem : Option SdpMem := none
  /-- x; 19 R497. The last reply of the port: RESULT, FSTAT, FIDX and the data bytes. -/
  reply : Bytes := []
  deriving DecidableEq, Repr

/-- The IEEE 1149.1 port. -/
structure Tap where
  /-- 4; 19 R509. The instruction register; IDCODE after TAP reset. -/
  ir : BitVec 4 := 1
  /-- 1; 19 R509. EXTEST is in effect and holds the core in a debug reset. -/
  extest : Bool := false
  deriving DecidableEq, Repr

/-! ### Memories and the whole machine -/

/-- The memories (00 R7, 17 R541). A byte no cell lists reads as `Mem` operations say: undefined in SRAM, TCM and vision memory,
0xFF in the trim NVM, 0 in DRAM. -/
structure Mem where
  /-- 8 x 8388608; 17 R541. SRAM banks 0 to 7, by offset from 0x1000_0000. -/
  sram : Cells := []
  /-- 8 x 262144; 17 R541. The HKP TCM, by offset from 0x2000_0000. -/
  tcm : Cells := []
  /-- 8 x; 17 R541. The vision memory. -/
  vis : Cells := []
  /-- 8 x 131072; 12 R319. The trim NVM. -/
  nvm : Cells := []
  /-- 8 x; 17 R541. DRAM data, by physical byte: rank, row, bank and byte of the row (`physAddr`). -/
  dram : Cells := []
  deriving DecidableEq, Repr

/-- The copy of the blocks with schedule-produced results as they stood at the last boundary, which is what their registers
show (00 R14). -/
structure Shown where
  clk : Clk := {}
  pins : Pins := {}
  boot : Boot := {}
  tsq : Tsq := {}
  fld : Fld := {}
  dmc : Dmc := {}
  dbg : Dbg := {}
  cal : Cal := {}
  lse : Lse := {}
  pso : Pso := {}
  srv : Srv := {}
  lpe : Lpe := {}
  twn : Twn := {}
  deriving DecidableEq, Repr

/-- The NF2460, with the commands that wait. -/
structure State where
  /-- The commands that wait, first in first out. -/
  pending : List Instr := []
  /-- x; 15 R410. Time and the timebase. -/
  clk : Clk := {}
  /-- x; 17 R445. Power control. -/
  pwr : Pwr := {}
  /-- x; 18 R486. The pin map, the input guard and the flash port. -/
  pins : Pins := {}
  /-- x; 18 R481. Boot and reset. -/
  boot : Boot := {}
  /-- x; 04 R98. The tick sequencer. -/
  tsq : Tsq := {}
  /-- x; 03 R79. The loader and the configuration store. -/
  fld : Fld := {}
  /-- x; 05 R122. The fabric. -/
  fab : Fab := {}
  /-- x; 06 R160. The DRAM controller. -/
  dmc : Dmc := {}
  /-- x; 15 R391. The chain ports. -/
  chn : Chn := {}
  /-- x; 14 R370. Aperture. -/
  saf : Saf := {}
  /-- x; 19 R488. The watchdog. -/
  wdg : Wdg := {}
  /-- x; 19 R511. The serial debug port. -/
  dbg : Dbg := {}
  /-- 5; 19 R509. The boundary-scan port. -/
  tap : Tap := {}
  /-- x; 12 R337. Calibration and trim. -/
  cal : Cal := {}
  /-- x; 08 R236. Light timing, colour and strip writing. -/
  lse : Lse := {}
  /-- x; 09 R267. Scan-Out. -/
  pso : Pso := {}
  /-- x; 10 R290. The servo engine. -/
  srv : Srv := {}
  /-- x; 13 R363. Loupe. -/
  lpe : Lpe := {}
  /-- x; 16 R443. The twin. -/
  twn : Twn := {}
  /-- x; 00 R4. Words that software stored in plain RW registers, by address. -/
  rw : Amap := []
  /-- 32 x; 00 R9. The high-word latches, by 2^32 * source + address of the RL register. -/
  latch : Amap := []
  /-- 32 x; 00 R11. The staged high words, by 2^32 * source + address of the high word. -/
  staged : Amap := []
  /-- x (4, 64); 00 R12. Blocks whose snapshot copy runs, with the MCLK cycle of the SNAP write. -/
  snapBusy : List (Nat × Nat) := []
  /-- The model's own: the next free value. It is no state of the spec; nothing may rest on its value. -/
  free : Nat := 0
  /-- x; 17 R541. The memories. -/
  mem : Mem := {}
  /-- x; 00 R14. The schedule-produced results as they stood at the last boundary. -/
  shown : Shown := {}
  deriving DecidableEq, Repr

/-- The machine right after reset: every field at its default, with no command waiting. -/
def State.reset : State := {}

end Sys2Proof.Machine
end

