-- ==== Sys2Proof/Machine/Memory.lean ====
section
/-! DEFINITION. Memories as sorted cells (17 R541): reading and writing bytes, words and ranges. `d` is what an unlisted address
reads as: `some b` for a memory with stated contents, `none` for one whose contents are undefined before the first write. -/

namespace Sys2Proof.Machine

/-- The byte listed at `a`. -/
def cellAt (m : Cells) (a : Nat) : Option Byte :=
  match m with
  | [] => none
  | (k, v) :: r => if k = a then some v else cellAt r a

/-- The cells with `v` at `a`, kept in rising order. -/
def cellPut (m : Cells) (a : Nat) (v : Byte) : Cells :=
  match m with
  | [] => [(a, v)]
  | (k, x) :: r => if a < k then (a, v) :: (k, x) :: r else if a = k then (a, v) :: r else (k, x) :: cellPut r a v

/-- The cells without the one at `a`. -/
def cellDel (m : Cells) (a : Nat) : Cells := m.filter fun c => c.1 != a

/-- A write of one byte: a byte equal to what an unlisted address reads as is not listed. -/
def memPut (d : Option Byte) (m : Cells) (a : Nat) (v : Byte) : Cells :=
  if d = some v then cellDel m a else cellPut m a v

/-- A write of a run of bytes from `a` upward. -/
def memPutAll (d : Option Byte) (m : Cells) (a : Nat) (b : Bytes) : Cells :=
  match b with
  | [] => m
  | v :: r => memPutAll d (memPut d m a v) (a + 1) r

/-- Every byte of [lo, hi) back to what an unlisted address reads as. -/
def memClear (m : Cells) (lo hi : Nat) : Cells := m.filter fun c => !(lo ≤ c.1 && c.1 < hi)

/-- The canonical form: addresses strictly rising, and no cell equal to what an unlisted address reads as. -/
def Cells.ok (d : Option Byte) : Cells → Bool
  | [] => true
  | [(_, v)] => d != some v
  | (a, v) :: (b, w) :: r => decide (a < b) && d != some v && Cells.ok d ((b, w) :: r)

/-- The canonical form of every memory. -/
def Memory.wf (m : Mem) : Bool :=
  Cells.ok none m.sram && Cells.ok none m.tcm && Cells.ok none m.vis && Cells.ok (some 0xFF) m.nvm && Cells.ok (some 0) m.dram

/-- The SRAM bank domain of an offset into the SRAM (17 Table 17-1). -/
def sramDom (off : Nat) : Nat := 12 + off / 0x100000

/-- A byte of SRAM: undefined before its first write since its bank lost its contents. -/
def sramByte (s : State) (off : Nat) : Byte :=
  (cellAt s.mem.sram off).getD (Config.undefByte 0 (alook s.pwr.memGen (sramDom off)) off)

/-- A byte of the TCM. -/
def tcmByte (s : State) (off : Nat) : Byte := (cellAt s.mem.tcm off).getD (Config.undefByte 1 (alook s.pwr.memGen 0) off)

/-- A byte of the vision memory. -/
def visByte (s : State) (off : Nat) : Byte := (cellAt s.mem.vis off).getD (Config.undefByte 2 (alook s.pwr.memGen 49) off)

/-- A byte of the boot ROM, whose contents the spec does not give. -/
def romByte (off : Nat) : Byte := Config.undefByte 3 0 off

/-- A byte of the trim NVM: erased bytes read 0xFF. -/
def nvmByte (s : State) (a : Nat) : Byte := (cellAt s.mem.nvm a).getD 0xFF

/-- A byte of DRAM data by physical position: zeros after training. -/
def dramByte (s : State) (a : Nat) : Byte := (cellAt s.mem.dram a).getD 0

/-- `n` bytes from `a` upward, read by `f`. -/
def readRun (f : Nat → Byte) (a n : Nat) : Bytes := (List.range n).map fun i => f (a + i)

def sramPut (s : State) (off : Nat) (b : Bytes) : State :=
  { s with mem := { s.mem with sram := memPutAll none s.mem.sram off b } }

def tcmPut (s : State) (off : Nat) (b : Bytes) : State :=
  { s with mem := { s.mem with tcm := memPutAll none s.mem.tcm off b } }

def visPut (s : State) (off : Nat) (b : Bytes) : State :=
  { s with mem := { s.mem with vis := memPutAll none s.mem.vis off b } }

def nvmPut (s : State) (a : Nat) (b : Bytes) : State :=
  { s with mem := { s.mem with nvm := memPutAll (some 0xFF) s.mem.nvm a b } }

def dramPut (s : State) (a : Nat) (b : Bytes) : State :=
  { s with mem := { s.mem with dram := memPutAll (some 0) s.mem.dram a b } }

/-- The contents of a bank are lost (17 R541): its cells go, and what it reads as from here on is another undefined value. -/
def sramLose (s : State) (bank : Nat) : State :=
  { s with mem := { s.mem with sram := memClear s.mem.sram (bank * 0x100000) ((bank + 1) * 0x100000) },
           pwr := { s.pwr with memGen := aset s.pwr.memGen (12 + bank) (alook s.pwr.memGen (12 + bank) + 1) } }

def visLose (s : State) : State :=
  { s with mem := { s.mem with vis := [] }, pwr := { s.pwr with memGen := aset s.pwr.memGen 49 (alook s.pwr.memGen 49 + 1) } }

def tcmLose (s : State) : State :=
  { s with mem := { s.mem with tcm := [] }, pwr := { s.pwr with memGen := aset s.pwr.memGen 0 (alook s.pwr.memGen 0 + 1) } }

/-- The next free value, and the state that has used it up (assumption log entry 3). -/
def takeFree (s : State) : Nat × State := (Config.freeNat s.free, { s with free := s.free + 1 })

end Sys2Proof.Machine
end

