-- ==== Sys2Proof/Machine/Ops.lean ====
section
/-! DEFINITION. The named operations every block uses: the sections in force and their fields, the domains, the passing of time,
the stamping of input events, contract faults and degradation, RW registers. -/

namespace Sys2Proof.Machine

/-! ### Block bases (00 R7, Table 0-6) -/

namespace Base
def sys : Nat := 0x40000000
def clk : Nat := 0x40010000
def tsq : Nat := 0x40020000
def fab : Nat := 0x40030000
def dmc : Nat := 0x40040000
def pso : Nat := 0x40050000
def lse : Nat := 0x40060000
def srv : Nat := 0x40070000
def lpe : Nat := 0x40080000
def chn : Nat := 0x40090000
def twn : Nat := 0x400A0000
def cal : Nat := 0x400B0000
def saf : Nat := 0x400C0000
def wdg : Nat := 0x400D0000
def dbg : Nat := 0x400E0000
def fld : Nat := 0x400F0000
end Base

/-! ### Sections in force (03 R79) -/

namespace Ty
def tick : Nat := 1
def pinmap : Nat := 2
def domains : Nat := 3
def fabric : Nat := 4
def sched : Nat := 5
def dramtim : Nat := 6
def drammap : Nat := 7
def engine : Nat := 8
def servo : Nat := 9
def loupe : Nat := 10
def chain : Nat := 11
def twin : Nat := 12
def safety : Nat := 13
def inputs : Nat := 14
def calptr : Nat := 15
def media : Nat := 16
def fallback : Nat := 17
def firmware : Nat := 18
end Ty

/-- The body of a section in a list of sections. -/
def secIn (l : List Sec) (t i : Nat) : Option Bytes := (l.find? fun x => x.type == t && x.inst == i).map (·.body)

/-- The body in force of a section; empty while none is applied, so that every field reads 0 (20 R515). -/
def secB (s : State) (t i : Nat) : Bytes := (secIn s.fld.secs t i).getD []

/-- Whether a section is in force. -/
def hasSec (s : State) (t i : Nat) : Bool := (secIn s.fld.secs t i).isSome

/-- A list of sections with one replaced or added. -/
def putSec (l : List Sec) (x : Sec) : List Sec := l.filter (fun y => !(y.type == x.type && y.inst == x.inst)) ++ [x]

/-! #### TICK (03 R81) -/

def fTick (s : State) : Nat := u16 (secB s Ty.tick 0) 0
def frameLen (s : State) : Nat := u16 (secB s Ty.tick 0) 2
def nSlot (s : State) : Nat := u16 (secB s Ty.tick 0) 4
def srvMax (s : State) : Nat := u8 (secB s Ty.tick 0) 6
def darkStart (s : State) : Nat := u16 (secB s Ty.tick 0) 8
def darkLen (s : State) : Nat := u16 (secB s Ty.tick 0) 10
def refMult (s : State) (set : Nat) : Nat := u8 (secB s Ty.tick 0) (12 + set)

/-- 02 R42: the frame phase of tick `tc`. -/
def framePhase (s : State) (tc : Nat) : Nat := if frameLen s = 0 then 0 else tc % frameLen s

/-- 02 R46: whether a cycle of the tick lies in the dark window. -/
def inDark (s : State) (cyc : Nat) : Bool := darkStart s * 256 ≤ cyc && cyc < (darkStart s + darkLen s) * 256

/-! #### DOMAINS (17 R447) -/

def domUsed (s : State) : Nat := u64 (secB s Ty.domains 0) 0

/-- 01 R23: the domains of an engine that has no ENGINE section are kept off, whatever DOMAINS says of them. -/
def domAllowed (s : State) (d : Nat) : Bool := !(decide (28 ≤ d) && decide (d < 40)) || hasSec s Ty.engine ((d - 28) / 3)

/-- The domains of a mask that may be powered. -/
def allowed (s : State) (m : Nat) : Nat := maskOf (idxWhere 64 fun d => bitAt m d && domAllowed s d)

/-- APPLYON, but for the domains of unused engines. -/
def applyOn (s : State) : Nat := allowed s (u64 (secB s Ty.domains 0) 8)
def fwLock (s : State) : Nat := u64 (secB s Ty.domains 0) 16
def domDrain (s : State) (d : Nat) : Nat := u8 (secB s Ty.domains 0) (0x100 + 16 * d)
def domRetain (s : State) (d : Nat) : Bool := 13 ≤ d && d ≤ 19 && bitAt (u8 (secB s Ty.domains 0) (0x101 + 16 * d)) 0
def planAt (p : Nat) : Nat := 0x500 + 32 * p
def planTarget (s : State) (p : Nat) : Nat := u8 (secB s Ty.domains 0) (planAt p)
def planValid (s : State) (p : Nat) : Bool := bitAt (u8 (secB s Ty.domains 0) (planAt p + 1)) 0
def planTimeout (s : State) (p : Nat) : Nat := u16 (secB s Ty.domains 0) (planAt p + 2)
def planUp (s : State) (p : Nat) : Nat := allowed s (u64 (secB s Ty.domains 0) (planAt p + 8))
def planDown (s : State) (p : Nat) : Nat := u64 (secB s Ty.domains 0) (planAt p + 16)

/-! #### SCHED (04 R105) -/

def schedFsp (b : Bytes) : Nat := u8 b 1
def schedWords (b : Bytes) : Nat := u32 b 4
def schedEntry (b : Bytes) : Nat := u16 b 8
def schedDomreq (b : Bytes) : Nat := u64 b 12

/-! #### INPUTS (18 R473, R474) -/

def inputsB (s : State) : Bytes := secB s Ty.inputs 0
def nIn (b : Bytes) : Nat := u16 b 0
def inAt (i : Nat) : Nat := 0x420 + 24 * i
def inSrc (b : Bytes) (i : Nat) : Nat := u8 b (inAt i)
def inArg (b : Bytes) (i : Nat) : Nat := u8 b (inAt i + 1)
def inFbMode (b : Bytes) (i : Nat) : Nat := u8 b (inAt i + 3)
def inLo (b : Bytes) (i : Nat) : Int := i32 b (inAt i + 4)
def inHi (b : Bytes) (i : Nat) : Int := i32 b (inAt i + 8)
def inFresh (b : Bytes) (i : Nat) : Nat := u16 b (inAt i + 12)
def inMaxEv (b : Bytes) (i : Nat) : Nat := u16 b (inAt i + 14)
def inFbVal (b : Bytes) (i : Nat) : Int := i32 b (inAt i + 16)
def inAux (b : Bytes) (i : Nat) : Int := i32 b (inAt i + 20)

/-- Event inputs of Table 18-5. -/
def inIsEvent (src : Nat) : Bool := [0x01, 0x03, 0x08, 0x09, 0x0B, 0x0D, 0x0E].contains src

/-- The input index of a source and instance. -/
def inputIdx (s : State) (src arg : Nat) : Option Nat :=
  let b := inputsB s
  firstIdx (nIn b) fun i => inSrc b i == src && inArg b i == arg

def regBase (b : Bytes) (r : Nat) : Nat := u64 b (0x20 + 16 * r)
def regLen (b : Bytes) (r : Nat) : Nat := u32 b (0x28 + 16 * r)
def regValid (b : Bytes) (r : Nat) : Bool := bitAt (u8 b (0x2C + 16 * r)) 0

/-- 18 R474, R475: the staged region and buffer that hold a fabric address, if any. -/
def regionOf (s : State) (fa : Nat) : Option (Nat × Nat) :=
  let b := inputsB s
  match firstIdx 64 fun r => regValid b r && regBase b r ≤ fa && fa < regBase b r + 2 * regLen b r with
  | some r => some (r, if fa < regBase b r + regLen b r then 0 else 1)
  | none => none

/-- 18 R475: where a fixed read of `fa` reads: the same offset of the front buffer, or of buffer 0 while there is none. -/
def fixedAddr (s : State) (fa : Nat) : Nat :=
  match regionOf s fa with
  | some (r, k) =>
    let b := inputsB s
    fa - k * regLen b r + alookD s.pins.front r 0 * regLen b r
  | none => fa

/-! ### Domains (17 R445) -/

def domAt (s : State) (d : Nat) : Dom := lget s.pwr.doms d {}

/-- Whether a domain is fully on. -/
def domOn (s : State) (d : Nat) : Bool := (domAt s d).phase == .on

/-- Whether every domain of a list is fully on. -/
def domsOn (s : State) (l : List Nat) : Bool := l.all (domOn s)

/-- The mask of domains fully on (18 Table 18-5, DOMAINS). -/
def domMask (s : State) : Nat := maskOf (idxWhere 64 (domOn s))

def modDom (s : State) (d : Nat) (f : Dom → Dom) : State :=
  { s with pwr := { s.pwr with doms := lmod s.pwr.doms d f } }

/-! ### Plain RW registers -/

/-- What software last stored at a plain RW register, or its reset value. -/
def rwGet (s : State) (addr reset : Nat) : Nat := alookD s.rw addr reset

def rwPut (s : State) (addr v : Nat) : State := { s with rw := aset s.rw addr v }

/-! ### Time -/

/-- A domain in FENCE enters DRAIN in the cycle after c0 (05 R143). -/
def domTime (now : Nat) (d : Dom) : Dom := if d.phase = .fence ∧ d.c0 < now then { d with phase := .drain } else d

/-- TC as its registers, the chain stamps and the watchdog's evidence show it (16 R420): LTC and TWN_LTCOFS. -/
def tcReg (s : State) : Nat := pat 64 ((s.tsq.tc : Int) + s.twn.ofs)

/-- 19 R495: the boot ROM runs in steps 6 to 11, before the HKP starts at ENTRY. -/
def bootRomRuns (s : State) : Bool := decide (6 ≤ s.boot.step) && !s.boot.hkpRun

/-- 19 R495: the boot ROM has serviced the watchdog in the `dt` cycles that passed, or has not while TIMEOUT was still ahead. When it does is a
free value: `f` says how many cycles ago the last service was (assumption log entry 151). -/
def romService (s : State) (dt f : Nat) : Wdg :=
  let ago := f % (dt + 1) % s.wdg.timeout
  if f / (dt + 1) % 2 = 1 ∧ s.wdg.count + dt < s.wdg.timeout then { s.wdg with count := s.wdg.count + dt }
  else { s.wdg with count := ago, key := none, svTc := tcReg s, svCyc := s.clk.cyc + dt - ago }

/-- WDG_COUNT counts its cycles while the watchdog runs and the HKP is not halted (19 R488). -/
def wdgCounts (s : State) : Bool := s.wdg.run && !s.dbg.hkpHalt

/-- The watchdog after `dt` cycles more (19 R488, R495). -/
def wdgTime (dt : Nat) (s : State) : Wdg :=
  if !wdgCounts s then s.wdg
  else if bootRomRuns s ∧ 0 < dt then romService s dt (Config.freeNat s.free)
  else { s.wdg with count := s.wdg.count + dt }

/-- The time that passed since the step before: the counts of the three oscillators, and what only counts cycles. MCLK counts
while PLL0 is locked (18 R482). -/
def advance (w : When) (s : State) : State :=
  let dt := if s.clk.on then w.dt else 0
  let clk := { s.clk with cyc := s.clk.cyc + dt, mclk := s.clk.mclk + dt, aclk := s.clk.aclk + w.da, aon := s.clk.aon + w.du }
  { s with
    clk := clk
    wdg := wdgTime dt s
    free := if wdgCounts s ∧ bootRomRuns s ∧ 0 < dt then s.free + 1 else s.free
    pwr := { s.pwr with doms := s.pwr.doms.map (domTime clk.mclk) } }

/-- The slot of the present cycle. -/
def nowSlot (s : State) : Nat := s.clk.cyc / 256

/-! ### The input guard (18 R477, R478, R480) -/

def modIn (s : State) (i : Nat) (f : InSt → InSt) : State :=
  { s with pins := { s.pins with ins := lmod s.pins.ins i f } }

/-- Marks the last event waiting on input `i` with OVERRUN. -/
def markOver (l : List Ev) (i : Nat) : List Ev :=
  (l.foldr (fun e (a : List Ev × Bool) =>
    if !a.2 && e.idx == i && !e.stale then ({ e with ovr := true } :: a.1, true) else (e :: a.1, a.2)) ([], false)).1

/-- 18 R478, R480: an event of input `i` is stamped at cycle `c`. Past MAXEV it is dropped and counted. The first event after a STALE
one stamps a STALE event of value 0 with it. -/
def stampEvAt (s : State) (i : Nat) (v : Int) (c : Nat) : State :=
  let x := lget s.pins.ins i {}
  if x.count < inMaxEv (inputsB s) i then
    let fresh : List Ev := if x.stale then [{ idx := i, stamp := c, val := 0, stale := true, ovr := false }] else []
    let s := { s with pins := { s.pins with
      evq := s.pins.evq ++ { idx := i, stamp := c, val := v, stale := false, ovr := false } :: fresh } }
    modIn s i fun x => { x with count := x.count + 1, seen := true, stale := false }
  else
    let s := modIn s i fun x => { x with drops := sat16 x.drops }
    { s with pins := { s.pins with evq := markOver s.pins.evq i } }

/-- 18 R477: an event of input `i` occurs in the present cycle. -/
def stampEv (s : State) (i : Nat) (v : Int) : State := stampEvAt s i v s.clk.cyc

/-- A STALE event of value 1 on input `i` at cycle `c` (18 R480, R472). -/
def stampStale (s : State) (i c : Nat) : State :=
  let s := { s with pins := { s.pins with
    evq := s.pins.evq ++ [{ idx := i, stamp := c, val := 1, stale := true, ovr := false }] } }
  modIn s i fun x => { x with stale := true }

/-- The event of a source that feeds an input, where the fold image gives it one. -/
def srcEvent (s : State) (src arg : Nat) (v : Int) : State :=
  match inputIdx s src arg with
  | some i => stampEv s i v
  | none => s

/-- 00 R12: the snapshot copy of a block runs; it takes at most 64 cycles. -/
def snapRuns (s : State) (blk : Nat) : Bool := s.snapBusy.any fun x => x.1 == blk && decide (s.clk.mclk < x.2 + 64)

/-! ### Contract faults and degraded ticks (02, 04) -/

/-- Degradation causes of the running tick (02 R64): bit 0 CONTRACT, 1 POISON, 2 TICKLOSS, 3 DEBUG, 4 DBGWRITE. -/
def degrade (s : State) (bit : Nat) : State := { s with tsq := { s.tsq with degr := setBit s.tsq.degr bit true } }

/-- 02 R59: order of detection cycle, ties by unit index. -/
def faultIns (f : FaultRec) : List FaultRec → List FaultRec
  | [] => [f]
  | g :: r => if f.cycle < g.cycle ∨ (f.cycle = g.cycle ∧ f.unit < g.unit) then f :: g :: r else g :: faultIns f r

/-- The store index of a word of the set that the starting tick walks (04 R107): set 3 while the sequencer is halted (19 R503). -/
def storeIdx (s : State) (word : Nat) : Nat := lget s.tsq.base (if s.dbg.halted then 3 else s.tsq.set) 0 + word

/-- 02 R57, 04 R117 to R119: a contract fault is raised at cycle `c` of the running tick. It degrades the tick; class X blanks from
there to the boundary; classes S and X set PENDING. Its SEQ is given when the tick closes. `word` is a store index. -/
def raiseFaultAt (s : State) (c code cls unit detail : Nat) (word : Option Nat) : State :=
  let f : FaultRec := { seq := 0, code := code, cls := cls, set := s.tsq.set, unit := unit, insafe := s.tsq.set == 3,
                        cycle := c, detail := detail, word := word, tc := s.tsq.tc }
  let s := degrade s 0
  { s with tsq := { s.tsq with
      faults := faultIns f s.tsq.faults
      fcnt := lmod s.tsq.fcnt (code - 1) sat32
      pend := s.tsq.pend || decide (2 ≤ cls)
      blank := if cls = 3 then some (min c (s.tsq.blank.getD c)) else s.tsq.blank } }

/-- A contract fault at the present cycle. -/
def raiseFault (s : State) (code cls unit detail : Nat) (word : Option Nat) : State :=
  raiseFaultAt s s.clk.cyc code cls unit detail word

/-- 02 Table 2-3: class X for LSE, PSO ports and SRV loops, else S. -/
def unitClass (u : Nat) : Nat := if 0x09 ≤ u ∧ u ≤ 0x20 then 3 else 2

/-- The highest class raised in the running tick. -/
def topClass (s : State) : Nat := s.tsq.faults.foldl (fun m f => max m f.cls) 0

/-- 04 R116, 02 Table 2-3: FETCH_STARVE on engine `e` at cycle `c`; the fourth consecutive frame with one is class S. -/
def raiseStarve (s : State) (c e unit : Nat) (word : Option Nat) : State :=
  let n := if lget s.tsq.starved e false then lget s.tsq.starve e 0 else min 255 (lget s.tsq.starve e 0 + 1)
  let s := { s with tsq := { s.tsq with starve := lmod s.tsq.starve e (fun _ => n), starved := lmod s.tsq.starved e (fun _ => true) } }
  raiseFaultAt s c 5 (if n ≥ 4 then 2 else 1) unit (e * 256 + n) word

/-! ### Dispatches (04 R98) -/

/-- An action is complete at cycle `c` of the tick. -/
def doneBy (x : Disp) (c : Nat) : Bool := x.done && decide (x.endAt ≤ c)

/-- Whether the dispatch at position `d` may start: its unit's earlier actions are complete, those of the tick before included (04
R100, 02 R52), and so is everything a WAIT on its unit waits for (04 R102). An action carried over a boundary has FINISH 0. -/
def mayStart (s : State) (d unit : Nat) : Bool :=
  let before := s.tsq.disp.take d
  before.all (fun x => x.unit != unit || doneBy x s.clk.cyc) &&
  s.tsq.ctl.all fun c => !(c.isWait && c.dst == unit && c.before ≤ d) ||
    (s.tsq.disp.take c.before).all fun x => x.unit != c.src || doneBy x s.clk.cyc || x.finish == 0

/-- The domain of a unit (04 Table 4-3, 17 Table 17-1). What a DRAM word meets where its channel is off is R149's. -/
def unitDom (u : Nat) : Option Nat :=
  if 5 ≤ u ∧ u ≤ 8 then some (28 + 3 * (u - 5))
  else if 9 ≤ u ∧ u ≤ 12 then some (30 + 3 * (u - 9))
  else if 13 ≤ u ∧ u ≤ 16 then some (29 + 3 * (u - 13))
  else if 17 ≤ u ∧ u ≤ 32 then some (40 + (u - 17) / 4)
  else if u = 0x21 then some 46
  else if u = 0x22 then some 48
  else if u = 0x23 ∨ u = 0x24 then some (52 + (u - 0x23))
  else if u = 0x25 then some 57
  else if u = 0x26 then some 58
  else none

/-- Whether a unit's domain is fully on; a unit whose domain is not does nothing (17 R445). -/
def unitOn (s : State) (u : Nat) : Bool := match unitDom u with | some d => domOn s d | none => true

/-- Dispatch `d` of the running tick, if it is of kind `kind` with operation `op` in payload bits [63:60], has not acted, its SLOT has
come (04 R100), it may start, and its unit is on. -/
def openDisp (s : State) (d kind op : Nat) : Option Disp :=
  match s.tsq.disp[d]? with
  | some x => if x.kind = kind ∧ bits x.payload 63 60 = op ∧ x.done = false ∧ 256 * x.slot ≤ s.clk.cyc ∧ mayStart s d x.unit ∧ unitOn s x.unit then some x else none
  | none => none

/-- Dispatch `d` has acted, and is complete at cycle `c` of the tick. -/
def doneDispAt (s : State) (d c : Nat) : State :=
  { s with tsq := { s.tsq with disp := lmod s.tsq.disp d fun x => { x with done := true, endAt := c } } }

/-- Dispatch `d` is complete at the present cycle. -/
def doneDisp (s : State) (d : Nat) : State := doneDispAt s d s.clk.cyc

/-! ### The twin's role (16 Table 16-8, R423) -/

/-- The chip has a TWIN section in force and uses the link. -/
def hasTwin (s : State) : Bool := hasSec s Ty.twin 0

/-- A lead state. -/
def isLead (s : State) : Bool := s.twn.st == 2 || s.twn.st == 3

/-- A shadow role. -/
def isShadow (s : State) : Bool := 4 ≤ s.twn.st && s.twn.st ≤ 7

/-- The machine runs from the lead's bundles: CONFIRM or LOCKED. -/
def shadowRun (s : State) : Bool := s.twn.st == 5 || s.twn.st == 6

/-- An entry of one of the digest's streams for the running tick (16 R425). -/
def digLog (s : State) (word cyc idx : Nat) (b : Bytes) : State :=
  { s with twn := { s.twn with digEv := (word, cyc, idx, b) :: s.twn.digEv } }

end Sys2Proof.Machine
end

