-- ==== Sys2Proof/Machine/DramMap.lean ====
section
/-! DEFINITION. DRAMMAP and DRAMTIM, the address map and the rank map (06 R156 to R160, R168), and the data lines in memory. -/

namespace Sys2Proof.Machine

/-! ### DRAMMAP (06 R159) -/

def dramB (s : State) : Bytes := secB s Ty.drammap 0
def dmRanks (b : Bytes) : Nat := u8 b 0
def dmDens (b : Bytes) : Nat := u8 b 1
def dmNlr (b : Bytes) : Nat := u8 b 2
def dmIg (b : Bytes) : Nat := u8 b 3
def dmHash (b : Bytes) : Bool := bitAt (u8 b 4) 0
def dmSpareV (b : Bytes) : Bool := bitAt (u8 b 5) 7
def dmSpare (b : Bytes) : Nat := u8 b 5 % 8
def dmHomeV (b : Bytes) (i : Nat) : Bool := bitAt (u8 b (8 + i)) 7
def dmHome (b : Bytes) (i : Nat) : Nat := u8 b (8 + i) % 8
def dmRorder (b : Bytes) (c : Nat) : Nat := u8 b (0x10 + c) % 2
def dmPage (b : Bytes) (c : Nat) : Nat := u8 b (0x10 + c) / 2 % 2
def dmRows (b : Bytes) : Nat := 32768 * 2 ^ dmDens b

/-- 06 R156: data lines of a rank, and the system size in bytes. -/
def dmDl (b : Bytes) : Nat := dmRows b * 16 * 28
def dmSize (b : Bytes) : Nat := if b.isEmpty then 0 else dmNlr b * dmDl b * 64

/-! ### DRAMTIM (06 R168) -/

def timB (s : State) (bank : Nat) : Bytes := secB s Ty.dramtim bank
def timMode (b : Bytes) : Nat := u8 b 1
def timTck (b : Bytes) : Nat := u16 b 4
def timPar (b : Bytes) (n : Nat) : Nat := u32 b (0x20 + 4 * n)

/-- Parameter `n` in MCLK cycles (1 ns), rounded up. -/
def timNs (b : Bytes) (n : Nat) : Nat := cdiv (timPar b n * timTck b) 1000

/-! ### The address map (06 R156) -/

/-- Where a line lies in a rank: row, bank and line position. -/
structure LinePos where
  row : Nat
  bank : Nat
  pos : Nat
  deriving DecidableEq, Repr

/-- Steps 3 and 4 of R156 for rank-local data line `d`. -/
def linePos (b : Bytes) (d : Nat) : LinePos :=
  let g := d / 28
  let k := d % 28
  let row := g / 16
  { row := row, bank := if dmHash b then (g % 16) ^^^ (row % 16) else g % 16, pos := 8 * (k / 7) + k % 7 }

/-- The rank-local line at a row, a bank and data line `k` of the row. -/
def lineAt (b : Bytes) (row bank k : Nat) : Nat :=
  let low := if dmHash b then bank ^^^ (row % 16) else bank
  (row * 16 + low) * 28 + k

/-- Steps 2 of R156: logical rank and rank-local line of system line `ld`. -/
def saLine (b : Bytes) (ld : Nat) : Nat × Nat :=
  let g := ld / dmIg b
  (g % dmNlr b, g / dmNlr b * dmIg b + ld % dmIg b)

/-- The system line of a rank-local line. -/
def lineSa (b : Bytes) (lr d : Nat) : Nat := (d / dmIg b * dmNlr b + lr) * dmIg b + d % dmIg b

/-- The number of a data line of a physical rank. -/
def physLine (b : Bytes) (prank d : Nat) : Nat :=
  let p := linePos b d
  ((prank * 131072 + p.row) * 16 + p.bank) * 32 + p.pos

/-- 64 data bytes of a line of a physical rank. -/
def lineRead (s : State) (prank d : Nat) : Bytes := readRun (dramByte s) (physLine (dramB s) prank d * 64) 64

/-- The first data line of the group of line `d`. -/
def groupBase (d : Nat) : Nat := d / 28 * 28 + d % 28 / 7 * 7

/-- 07 R188: the place in memory of the check line of the group of line `d`, at position 8j + 7 of the row. -/
def checkAt (b : Bytes) (prank d : Nat) : Nat := (physLine b prank (groupBase d) + 7) * 64

/-! ### Ranks (06 R160, 07 R198) -/

def prankAt (s : State) (p : Nat) : PRank := lget s.dmc.ranks p {}
def rmtAt (s : State) (lr : Nat) : RankMap := lget s.dmc.rmt lr {}
def chanAt (s : State) (c : Nat) : Chan := lget s.dmc.ch c {}

def modRank (s : State) (p : Nat) (f : PRank → PRank) : State := { s with dmc := { s.dmc with ranks := lmod s.dmc.ranks p f } }
def modRmt (s : State) (lr : Nat) (f : RankMap → RankMap) : State := { s with dmc := { s.dmc with rmt := lmod s.dmc.rmt lr f } }
def modChan (s : State) (c : Nat) (f : Chan → Chan) : State := { s with dmc := { s.dmc with ch := lmod s.dmc.ch c f } }

/-- Whether DRAMMAP populates a physical rank. -/
def populated (s : State) (p : Nat) : Bool := bitAt (dmRanks (dramB s)) p

/-- HOME of a logical rank. -/
def homeOf (s : State) (lr : Nat) : Nat := dmHome (dramB s) lr

/-- 07 R203: a rank whose logical rank has moved to the spare is retired. -/
def retired (s : State) (p : Nat) : Bool :=
  (List.range 8).any fun lr => decide (lr < dmNlr (dramB s)) && (rmtAt s lr).st == 4 && homeOf s lr == p

/-- 06 R180: RFM is required on the channel. -/
def rfmOn (c : Chan) : Bool := c.raaimt != 0

/-- The system size in MiB shows in DMC_SYSSIZE (06 R185). -/
def sysMiB (s : State) : Nat := dmSize (dramB s) / 2 ^ 20

end Sys2Proof.Machine
end

