-- ==== Sys2Proof/Machine/DramEcc.lean ====
section
/-! DEFINITION. Inline ECC: the field, the two codes, what a write stores and how a read decodes it, the error classes, scores and the
log (07 R187 to R196, R212). Which end of a codeword carries the highest power is the family's: assumption log entry 44. -/

namespace Sys2Proof.Machine

/-! ### The field and the codes (07 R187) -/

/-- A product in GF(2^8) with x^8 + x^4 + x^3 + x^2 + 1, over the bits of `b`. -/
def gfMulGo (a b : Nat) : Nat → Nat
  | 0 => 0
  | n + 1 =>
    let a2 := if a < 128 then 2 * a else (2 * a) ^^^ 0x11D
    (if b % 2 = 1 then a else 0) ^^^ gfMulGo a2 (b / 2) n

def gfMul (a b : Nat) : Nat := gfMulGo a b 8

def gfPow (a : Nat) : Nat → Nat
  | 0 => 1
  | n + 1 => gfMul a (gfPow a n)

/-- The inverse, as a^254. -/
def gfInv (a : Nat) : Nat :=
  let a2 := gfMul a a
  let a4 := gfMul a2 a2
  let a8 := gfMul a4 a4
  let a16 := gfMul a8 a8
  let a32 := gfMul a16 a16
  let a64 := gfMul a32 a32
  let a128 := gfMul a64 a64
  gfMul a2 (gfMul a4 (gfMul a8 (gfMul a16 (gfMul a32 (gfMul a64 a128)))))

/-- A polynomial, highest power first and its leading 1 left out, multiplied by x + `r`. -/
def polyTimes (r : Nat) (g : List Nat) : List Nat :=
  List.zipWith (fun a b => a ^^^ gfMul r b) (g ++ [0]) (1 :: g)

/-- The generator with the roots α^0 to α^(t - 1), its leading 1 left out. -/
def rsGen : Nat → List Nat
  | 0 => []
  | t + 1 => polyTimes (gfPow 2 t) (rsGen t)

/-- One symbol goes through the division by the generator `g`; `r` is the remainder so far, highest power first. -/
def rsShift (g r : List Nat) (m : Nat) : List Nat :=
  let f := m ^^^ r.headD 0
  let r := r.tail ++ [0]
  if f = 0 then r else List.zipWith (fun a b => a ^^^ gfMul f b) r g

/-- The `t` check symbols of a message, highest power first. -/
def rsCheck (t : Nat) (msg : List Nat) : List Nat := msg.foldl (rsShift (rsGen t)) (List.replicate t 0)

/-- Syndrome `k` of a codeword. -/
def synd (w : List Nat) (k : Nat) : Nat := let x := gfPow 2 k; w.foldl (fun a m => gfMul a x ^^^ m) 0

/-! ### What is stored (07 R187, R188) -/

/-- The folded address of line `d` of logical rank `lr`. -/
def foldedAddr (lr d : Nat) : Nat := lr * 2 ^ 26 + d

def byteNats (b : Bytes) : List Nat := b.map (·.toNat)
def natBytes (l : List Nat) : Bytes := l.map (BitVec.ofNat 8)

/-- The 8 check bytes of a data line. -/
def lineCheck (lr d : Nat) (data : Bytes) : Bytes := natBytes (rsCheck 8 (byteNats (data ++ leBytes 4 (foldedAddr lr d))))

/-- The folded address of a group's check line: that of its first data line with bit 31 set. -/
def groupAddr (lr d : Nat) : Bytes := leBytes 4 (foldedAddr lr (groupBase d) + 2 ^ 31)

/-- The 64 bytes of a check line, from its first 58. -/
def sealCheck (lr d : Nat) (body : Bytes) : Bytes := body ++ natBytes (rsCheck 6 (byteNats (body ++ groupAddr lr d)))

/-- 07 R209: the check line of a group of lines of zeros, none of them poisoned, as training writes it. -/
def zeroCheck (lr d : Nat) : Bytes :=
  sealCheck lr d ((List.range 7).flatMap (fun i => lineCheck lr (groupBase d + i) (List.replicate 64 0)) ++ [0, 0])

/-- Bytes added in the field, one by one. -/
def xorBytes (a b : Bytes) : Bytes := List.zipWith (· ^^^ ·) a b

/-- The check line of the group of line `d` of a rank. A byte of memory holds its difference from what training wrote there, so that
memory lists nothing right after training. -/
def checkRead (s : State) (p d : Nat) : Bytes :=
  xorBytes (readRun (dramByte s) (checkAt (dramB s) p d) 64) (zeroCheck (lget s.dmc.trainLr p 0) d)

def checkWrite (s : State) (p d : Nat) (b : Bytes) : State :=
  dramPut s (checkAt (dramB s) p d) (xorBytes b (zeroCheck (lget s.dmc.trainLr p 0) d))

/-- The poison flags of a check line, bit i for line i of the group. -/
def checkFlags (b : Bytes) : Nat := u8 b 56

/-- The line's poison flag (07 R188). -/
def linePoison (s : State) (p d : Nat) : Bool := bitAt (checkFlags (checkRead s p d)) (d % 28 % 7)

/-- A run of bytes with the ones from `i` on replaced. -/
def spliceAt (l : Bytes) (i : Nat) (b : Bytes) : Bytes := l.take i ++ b ++ l.drop (i + b.length)

/-- 07 R190: the check line of the group of line `d` once that line holds what it now does and its flag is `poison`. -/
def checkNext (s : State) (p lr d : Nat) (poison : Bool) : Bytes :=
  let i := d % 28 % 7
  let c := spliceAt (checkRead s p d) (8 * i) (lineCheck lr d (lineRead s p d))
  sealCheck lr d (spliceAt (c.take 58) 56 [BitVec.ofNat 8 (setBit (checkFlags c) i poison % 128)])

/-- `data` written at byte `off` of a line, with its check bytes and the poison flag it leaves. -/
def lineWrite (s : State) (p lr d off : Nat) (data : Bytes) (poison : Bool) : State :=
  let s := dramPut s (physLine (dramB s) p d * 64 + off) data
  checkWrite s p d (checkNext s p lr d poison)

/-! ### Decoding (07 R189) -/

/-- A correction: (symbol, mask) with distinct symbols and non-zero masks. -/
abbrev ErrPat := List (Nat × Nat)

/-- The locator of symbol `i` of a codeword of `n` symbols, the first symbol being the highest power. -/
def locOf (n i : Nat) : Nat := gfPow 2 (n - 1 - i)

/-- Whether the syndromes satisfy x_{k+1} = x_k * l for a single error with locator `l`. -/
def geo (l : Nat) : List Nat → Bool
  | a :: b :: r => gfMul a l == b && geo l (b :: r)
  | _ => true

/-- Whether x_{k+2} = s1 * x_{k+1} + s2 * x_k along the syndromes. -/
def rec2 (s1 s2 : Nat) : List Nat → Bool
  | a :: b :: c :: r => (gfMul s1 b ^^^ gfMul s2 a) == c && rec2 s1 s2 (b :: c :: r)
  | _ => true

/-- The one symbol of `n` that explains the syndromes `s`. -/
def fixOne (n : Nat) (s : List Nat) : Option ErrPat :=
  let s0 := s.getD 0 0
  if s0 = 0 then none
  else
    let l := gfMul (s.getD 1 0) (gfInv s0)
    if geo l s then (firstIdx n fun i => locOf n i == l).map fun i => [(i, s0)] else none

/-- The two symbols of `n` that explain them. -/
def fixTwo (n : Nat) (s : List Nat) : Option ErrPat :=
  let s0 := s.getD 0 0
  let s1 := s.getD 1 0
  let s2 := s.getD 2 0
  let s3 := s.getD 3 0
  let det := gfMul s1 s1 ^^^ gfMul s0 s2
  if det = 0 then none
  else
    let a := gfMul (gfMul s0 s3 ^^^ gfMul s1 s2) (gfInv det)
    let b := gfMul (gfMul s1 s3 ^^^ gfMul s2 s2) (gfInv det)
    if !(rec2 a b s) then none
    else
      match idxWhere n fun i => let l := locOf n i; (gfMul l l ^^^ gfMul a l ^^^ b) == 0 with
      | [i, j] =>
        let li := locOf n i
        let lj := locOf n j
        let ei := gfMul (gfMul s0 lj ^^^ s1) (gfInv (li ^^^ lj))
        some [(i, ei), (j, s0 ^^^ ei)]
      | _ => none

/-- The correction of a codeword with `t` check symbols, or `none` where its syndromes are uncorrectable. `two` allows two symbols, and `ok`
says which symbols are stored. -/
def rsDecode (t : Nat) (two : Bool) (ok : Nat → Bool) (w : List Nat) : Option ErrPat :=
  let s := (List.range t).map (synd w)
  if s.all (· == 0) then some []
  else
    match (fixOne w.length s).or (if two then fixTwo w.length s else none) with
    | some e => if e.all (fun x => ok x.1) then some e else none
    | none => none

/-- Bytes with a correction in them. -/
def fixBytes (b : Bytes) (c : ErrPat) : Bytes := b.zipIdx.map fun x => x.1 ^^^ BitVec.ofNat 8 (alook c x.2)

/-- A data line as read with its check bytes: the correction of its 76 symbols, of which 64 to 67 are the folded address. -/
def dataDecode (lr d : Nat) (data chk : Bytes) : Option ErrPat :=
  rsDecode 8 true (fun i => i < 64 || 68 ≤ i) (byteNats (data ++ leBytes 4 (foldedAddr lr d) ++ chk))

/-- A check line as read: its 68 symbols, of which 58 to 61 are the folded address; at most one symbol is corrected. -/
def checkDecode (lr d : Nat) (b : Bytes) : Option Bytes :=
  let w := b.take 58 ++ groupAddr lr d ++ b.drop 58
  (rsDecode 6 false (fun i => i < 58 || 62 ≤ i) (byteNats w)).map fun c => let w := fixBytes w c; w.take 58 ++ w.drop 62

/-! ### Classes, scores and the log (07 R191, R195, R196, R212) -/

/-- Table 7-2: the weight of a class. -/
def eccWeight (cls : Nat) : Nat := match cls with | 1 => 1 | 2 => 8 | 3 => 64 | _ => 0

/-- 07 R212: SYMS, bit g set for a corrected stored symbol in group g of nine. -/
def symsOf (c : ErrPat) : Nat :=
  maskOf (idxWhere 8 fun g => c.any fun e => (if e.1 < 64 then e.1 else e.1 - 4) / 9 == g)

/-- 07 R195, R196: a physical rank is condemned and what it holds follows. A spare in use leaves its entry SPARED with NO_SPARE, and
DMC_SPARING shows that entry. -/
def condemnRank (s : State) (p : Nat) : State :=
  if (prankAt s p).bad then s
  else
    let s := modRank s p fun r => { r with bad := true }
    let b := dramB s
    if dmSpareV b ∧ dmSpare b = p then
      if s.dmc.spare = 0 then { s with dmc := { s.dmc with spare := 3 } }
      else if s.dmc.spare = 1 then { s with dmc := { s.dmc with abort := true } }
      else
        match firstIdx 8 fun lr => (rmtAt s lr).st == 4 with
        | some lr => modRmt { s with dmc := { s.dmc with lr := lr } } lr fun x => { x with reason := 1 }
        | none => s
    else
      (List.range 8).foldl (fun s lr =>
        if lr < dmNlr b ∧ homeOf s lr = p ∧ (rmtAt s lr).st = 0 then modRmt s lr fun x => { x with st := 1 } else s) s

/-- 07 R191, R195: a weight is added to a rank's score; at CONDEMN the rank is condemned. -/
def addScore (s : State) (p n : Nat) : State :=
  let s := modRank s p fun r => { r with score := satAdd 65535 r.score n }
  if 0 < n ∧ s.dmc.condemn ≤ (prankAt s p).score then condemnRank s p else s

/-- 07 R212: an entry of the log. -/
def logEcc (s : State) (e : EccLog) : State :=
  { s with dmc := { s.dmc with elog := (e :: s.dmc.elog).take 32, elogTotal := satAdd 0xFFFFFFFF s.dmc.elogTotal 1 } }

/-- Who reads a line: the port, whether a fixed word, and its store index. -/
structure EccWho where
  src : Nat
  fixed : Bool
  word : Nat
  deriving DecidableEq, Repr

/-- The count of a class. -/
def countClass (r : PRank) (cls : Nat) : PRank :=
  match cls with
  | 1 => { r with c1 := sat16 r.c1 }
  | 2 => { r with c2 := sat16 r.c2 }
  | 3 => { r with u := sat16 r.u }
  | 4 => { r with u := sat16 r.u }
  | 5 => { r with p := sat16 r.p }
  | _ => r

/-- One decode of class `cls` on line `d` of rank `p` for logical rank `lr`: counted, scored and logged. -/
def eccEvent (s : State) (who : EccWho) (lr p d cls syms : Nat) : State :=
  let s := addScore (modRank s p fun r => countClass r cls) p (eccWeight cls)
  let l := linePos (dramB s) d
  if (2 ≤ cls ∧ cls ≤ 4) ∨ (cls = 1 ∧ s.dmc.logc1) then
    logEcc s { cls := cls, prank := p, bank := l.bank, row := l.row, pos := l.pos, src := who.src, fixed := who.fixed,
               syms := syms, word := who.word, fa := foldedAddr lr d % 2 ^ 32, cycle := s.clk.cyc, tc := s.tsq.tc }
  else s

/-! ### Reads (07 R190 to R193) -/

/-- What a decode of one line delivers. -/
structure LineGot where
  st : State
  data : Bytes
  poison : Bool
  cls : Nat

/-- 07 R192: the word that stands for poisoned data. -/
def poisonLine : Bytes := (List.replicate 16 (leBytes 4 0xEEC0EEC0)).flatten

/-- Bytes with a mask added at one of them. -/
def flipAt (b : Bytes) (i : Nat) (m : Byte) : Bytes := b.zipIdx.map fun x => if x.2 = i then x.1 ^^^ m else x.1

/-- A check line with the errors that a command brings for the lines of its group (`group`: number in the access, and place in the group):
errors of its own bytes, and of the check bytes of data line `i`, which are symbols 64 to 71 of that line. -/
def checkErrs (errs : List EccErr) (group : List (Nat × Nat)) (b : Bytes) : Bytes :=
  errs.foldl (fun b e =>
    match group.find? (fun x => x.1 == e.line) with
    | some (_, i) =>
      if e.check then flipAt b e.sym e.mask
      else if 64 ≤ e.sym ∧ e.sym < 72 then flipAt b (8 * i + (e.sym - 64)) e.mask
      else b
    | none => b) b

/-- The errors of data line `n` of an access. -/
def dataErrs (errs : List EccErr) (n : Nat) (b : Bytes) : Bytes :=
  errs.foldl (fun b e => if e.line = n ∧ !e.check ∧ e.sym < 64 then flipAt b e.sym e.mask else b) b

/-- 07 R189 to R192: the read of line `d` of rank `p` by line `n` of an access whose group's check line decoded to `chk` (`none` when that was
uncorrectable): the line's class, and what is delivered. -/
def readLineEcc (s : State) (who : EccWho) (lr p d n : Nat) (errs : List EccErr) (chk : Option Bytes) : LineGot :=
  let bad (cls : Nat) : LineGot := { st := eccEvent s who lr p d cls 0, data := poisonLine, poison := true, cls := cls }
  match chk with
  | none => bad 4
  | some c =>
    let i := d % 28 % 7
    let raw := dataErrs errs n (lineRead s p d)
    match dataDecode lr d raw ((c.drop (8 * i)).take 8) with
    | none => bad 3
    | some e =>
      let cls := min 2 e.length
      if bitAt (checkFlags c) i then bad 5
      else { st := if cls = 0 then s else eccEvent s who lr p d cls (symsOf e), data := fixBytes raw e, poison := false, cls := cls }

/-- 07 R190, R191: the read of the check line of the group of line `d`: what it decodes to. An uncorrectable one weighs 64 once. -/
def readCheck (s : State) (lr p d : Nat) (errs : List EccErr) (group : List (Nat × Nat)) : State × Option Bytes :=
  match checkDecode lr d (checkErrs errs group (checkRead s p d)) with
  | none => (addScore s p 64, none)
  | some c => (s, some c)

/-- 07 R193: after a write to a group whose check line was uncorrectable, every line of it that was not written whole carries
the flag. -/
def poisonRest (s : State) (p lr d : Nat) (whole : List Nat) : State :=
  (List.range 7).foldl (fun s i =>
    let l := groupBase d + i
    if whole.contains l then s else lineWrite s p lr l 0 [] true) s

/-! ### Logical ranks behind physical ones -/

/-- The logical rank in the folded addresses of a physical rank's lines: the one that it serves; on a spare that is being written, the one
that moves there for the groups that MIG has begun, and for the others what training wrote (assumption log entry 133). -/
def lineLr (s : State) (p d : Nat) : Nat :=
  match firstIdx 8 fun lr => lr < dmNlr (dramB s) && ((rmtAt s lr).cur == p ||
      (((rmtAt s lr).st == 2 || (rmtAt s lr).st == 3) && dmSpare (dramB s) == p && decide (groupBase d < s.dmc.migWrote))) with
  | some lr => lr
  | none => lget s.dmc.trainLr p 0

end Sys2Proof.Machine
end

