-- ==== Sys2Proof/Machine/FabQ.lean ====
section
/-! DEFINITION. The queues of an elastic egress: length accounting, tags, selection and shapers (05 R130 to R136). -/

namespace Sys2Proof.Machine

/-- Tags and V are 48-bit values (05 R133). -/
def tagMod : Nat := 2 ^ 48

/-- 05 R134: the signed difference of two tags modulo 2^48. -/
def tagDiff (a b : Nat) : Int := sgn 48 ((a + (tagMod - b % tagMod)) % tagMod)

/-- The later of two tags. -/
def tagMax (a b : Nat) : Nat := if tagDiff a b < 0 then b else a

/-- 05 R132: the effective length of a packet at an egress. -/
def effLen (g : Egress) (flen : Nat) : Nat := if g.lmode = 1 then flen + g.ovh else flen

/-- 05 R133: the tag of a packet that becomes the head of queue `q`. C / w is rounded down to the tag unit. -/
def headTag (g : Egress) (q : Queue) (p : Pkt) : Nat :=
  let s := if p.first then tagMax ((g.v + (tagMod - (q.credit * 65536 / q.weight) % tagMod)) % tagMod) q.fl else q.fl
  (s + cdiv (effLen g p.req.flen * 65536) q.weight) % tagMod

/-- The head of a queue carries its tag. -/
def tagHead (g : Egress) (q : Queue) : Queue :=
  match q.pk with
  | p :: r => if p.tag.isNone then { q with pk := { p with tag := some (headTag g q p) } :: r } else q
  | [] => q

/-- 05 R136: the token bucket brought up to date. -/
def bucketNow (q : Queue) (now : Nat) : Int :=
  min ((q.burst * 1024 : Nat) : Int) (q.bucket + (q.rate * (now - q.upTo) : Nat))

/-- 05 R136: whether the shaper lets the queue send. -/
def shaperOk (q : Queue) (now : Nat) : Bool := q.rate == 0 || decide (0 ≤ bucketNow q now)

/-- The bytes queued, as they count against QLIM_KIB. -/
def queueBytes (q : Queue) : Nat := q.pk.foldl (fun a p => a + p.req.flen) 0

/-- Effective bytes queued (05 R141, R151). -/
def queueEff (g : Egress) (q : Queue) : Nat := q.pk.foldl (fun a p => a + effLen g p.req.flen) 0

/-- 05 R131: the queue is at one of its limits. A limit that FABRIC has not set yet is none. -/
def queueFull (q : Queue) : Bool :=
  q.limPkt != 0 && (decide (q.limPkt ≤ q.pk.length) || decide ((q.limKib + 1) * 1024 ≤ queueBytes q))

/-- A packet enters queue `i` of an egress. -/
def egPush (g : Egress) (i now : Nat) (p : Pkt) : Egress :=
  { g with qs := lmod g.qs i fun q =>
      tagHead g { q with pk := q.pk ++ [{ p with enq := now, first := q.pk.isEmpty, tag := none }] } }

/-- The queue that R133 serves: the smallest tag among the heads of eligible queues, the lowest queue on equal tags. `ok` says
whether the egress target accepts a packet. -/
def egPick (g : Egress) (now : Nat) (ok : Pkt → Bool) : Option Nat :=
  (List.range 32).foldl (fun best i =>
    let q := lget g.qs i {}
    match q.pk with
    | [] => best
    | p :: _ =>
      if shaperOk q now && ok p then
        match best with
        | none => some i
        | some j =>
          match (lget g.qs j {}).pk with
          | [] => some i
          | b :: _ => if tagDiff (p.tag.getD 0) (b.tag.getD 0) < 0 then some i else some j
      else best) none

/-- The head of queue `i` leaves: Fl and V advance, the shaper pays, and the next packet becomes the head. -/
def egPop (g : Egress) (i now : Nat) : Option (Pkt × Egress) :=
  let q := lget g.qs i {}
  match q.pk with
  | [] => none
  | p :: r =>
    let f := p.tag.getD 0
    let g1 := { g with v := tagMax g.v f }
    let l := effLen g p.req.flen
    let q1 := { q with pk := r, fl := f,
                       bucket := if q.rate = 0 then q.bucket else bucketNow q now - (l * 1024 : Nat),
                       upTo := now,
                       maxDly := max q.maxDly (min 0xFFFFFFFF (now - p.enq)),
                       telDly := max q.telDly (min 0xFFFFFFFF (now - p.enq)),
                       telDeq := q.telDeq + l }
    some (p, { g1 with qs := lmod g.qs i fun _ => tagHead g1 q1 })

/-- 05 R136: a write of RATE or BURST leaves the bucket as it stands, clamped to the new cap. -/
def setShape (q : Queue) (now rate burst : Nat) : Queue :=
  let b := if q.rate = 0 then q.bucket else bucketNow q now
  { q with rate := rate, burst := burst, bucket := min b ((burst * 1024 : Nat) : Int), upTo := now }

end Sys2Proof.Machine
end

