-- ==== Sys2Proof/Machine/Power.lean ====
section
/-! DEFINITION. Power domains: parents and authority, commands, the start of power-up and power-down, plans (17 R445 to R457). What
a domain's power-down and power-up do to the blocks it holds stands in Reset.lean; the fabric's part stands in Fabric.lean. -/

namespace Sys2Proof.Machine

/-- 17 Table 17-1: the parents of a domain. -/
def parents (d : Nat) : List Nat :=
  if d = 0 then []
  else if d ≤ 3 then [0]
  else if d = 4 then [2]
  else if d = 5 then [4, 8]
  else if d = 6 ∨ d = 7 then [8]
  else if d = 8 then [2]
  else if d ≤ 15 then [8]
  else if d ≤ 19 then [11]
  else if d ≤ 23 then [3, 5, 9]
  else if d ≤ 27 then [d - 4]
  else if d ≤ 39 then (if (d - 28) % 3 = 0 then [5, 10] else [d - 1])
  else if d ≤ 43 then [5, 10]
  else if d ≤ 45 then [4, 11]
  else if d = 46 then [5, 11, 49]
  else if d = 47 then [46]
  else if d = 48 then [5, 11, 49]
  else if d = 49 then [11]
  else if d = 50 ∨ d = 51 then [2]
  else if d = 52 then [4, 11, 50]
  else if d = 53 then [4, 11, 51]
  else if d = 54 ∨ d = 55 then [2]
  else if d = 56 then [11, 54, 55]
  else if d = 57 then [5, 56]
  else if d = 58 then [5, 9]
  else if d = 59 then [8]
  else [4]

/-- The domains that name `d` as a parent. -/
def children (d : Nat) : List Nat := idxWhere 64 fun c => (parents c).contains d

/-- 17 R446: the authority that switches a domain. -/
def isCommandDom (d : Nat) : Bool := (9 ≤ d && d ≤ 11) || (13 ≤ d && d ≤ 19) || (28 ≤ d && d ≤ 63)
def isDramDom (d : Nat) : Bool := d == 3 || (20 ≤ d && d ≤ 27)

/-- A mask as the list of its domains. -/
def domsOf (m : Nat) : List Nat := idxWhere 64 (bitAt m)

/-- Neither on nor on its way. -/
def domIsOff (x : Dom) : Bool := (x.phase == .off || x.phase == .retain) && !x.want

/-- On its way off: FENCE to ISOLATE, the wait for the switch included. -/
def domFalling (x : Dom) : Bool := x.phase == .fence || x.phase == .drain || x.phase == .flush || x.phase == .isolate

/-- In transition (SYS_PWRBUSY). -/
def domBusy (x : Dom) : Bool := x.phase == .powering || x.want || domFalling x

/-- SYS_DOMSTAT.PHASE (17 R463). -/
def phaseCode : DomPhase → Nat
  | .off => 0 | .powering => 1 | .on => 2 | .fence => 3 | .drain => 4 | .flush => 5 | .isolate => 6 | .retain => 7

/-- FAB_PDSTAT.PHASE (05 R151). -/
def fabPhaseCode (x : Dom) : Nat :=
  match x.phase with
  | .on => 0 | .fence => 1 | .drain => 2 | .flush => 3 | .isolate => if x.opening then 5 else 4 | _ => 5

/-- 05 R143: power-down of a domain that is on starts with FENCE at this cycle. -/
def startDown (s : State) (d : Nat) (quick : Bool) : State :=
  modDom s d fun x => if x.phase = .on then
    { x with phase := .fence, c0 := s.clk.mclk, downs := satAdd 4095 x.downs 1, drained := 0, flushed := 0, limit := false,
             quick := quick, queued := 0 } else x

/-- 17 R450, R451: an up command. -/
def cmdUp (s : State) (d : Nat) : State :=
  modDom s d fun x =>
    match x.phase with
    | .off => { x with want := true, queued := 0 }
    | .retain => { x with want := true, queued := 0 }
    | .on => { x with queued := 0 }
    | .powering => { x with queued := 0 }
    | _ => { x with queued := 1 }

/-- 17 R450, R451: a down command. -/
def cmdDown (s : State) (d : Nat) : State :=
  let x := domAt s d
  if x.phase = .on then startDown s d false
  else modDom s d fun x => if x.phase = .powering then { x with queued := 2 } else { x with want := false, queued := 0 }

/-- The DOMREQ that protects domains now: that of the running set (17 R450). -/
def runDomreq (s : State) : Nat := if s.tsq.run then schedDomreq (secB s Ty.sched s.tsq.set) else 0

/-- 17 Table 17-3: the cause for which a command is refused, in the table's order. 0 is none. -/
def pwrRefusal (s : State) (op d : Nat) (dbgLock : Bool) : Nat :=
  if op = 1 ∧ (bitAt (domUsed s) d && domAllowed s d) = false then 1
  else if isCommandDom d = false ∨ bitAt (fwLock s) d ∨ (d = 59 ∧ dbgLock) then 2
  else if op = 1 ∧ (parents d).any (fun p => (domAt s p).phase != .on && (domAt s p).phase != .powering && !(domAt s p).want) then 3
  else if op = 2 ∧ (children d).any (fun c => !domIsOff (domAt s c)) then 4
  else if op = 2 ∧ bitAt (runDomreq s) d then 5
  else if s.pwr.planSt = 1 ∨ s.pwr.planSt = 3 then 6
  else 0

/-- A refusal is recorded in SYS_PWRERR. -/
def pwrRefuse (s : State) (cause d : Nat) : State :=
  { s with pwr := { s.pwr with errCause := cause, errCount := satAdd 255 s.pwr.errCount 1, errDom := d } }

/-- 17 R450: a write of SYS_PWRCMD. -/
def pwrCmd (s : State) (v : Nat) (dbgLock : Bool) : State :=
  let op := bits v 9 8
  let d := bits v 5 0
  if bits v 31 16 ≠ 0x9D0E ∨ (op ≠ 1 ∧ op ≠ 2) then s
  else
    let c := pwrRefusal s op d dbgLock
    if c ≠ 0 then pwrRefuse s c d else if op = 1 then cmdUp s d else cmdDown s d

/-- 17 R445, R453: the domain whose power-up starts next: the lowest that is ready, one in each AON microsecond. -/
def nextStart (s : State) : Option Nat :=
  let free := match s.pwr.lastStart with | some t => decide (t < s.clk.aon) | none => true
  if free then
    firstIdx 64 fun d =>
      let x := domAt s d
      x.want && (x.phase == .off || x.phase == .retain) && domsOn s (parents d)
  else none

/-- 17 R452 step 1: the power switch closes. -/
def powerUpStart (s : State) : State :=
  match nextStart s with
  | some d =>
    let s := modDom s d fun x => { x with phase := .powering, want := false, ups := satAdd 4095 x.ups 1 }
    { s with pwr := { s.pwr with lastStart := some s.clk.aon } }
  | none => s

/-- Powers down what it can of a list of domains, children before parents. A domain that is not on is done with; one that
`keep` names, or that has a child still on which is neither in the list nor falling, is skipped; one with other children
waits. The answer is the state, what is left, and what was skipped. -/
def downPass (keep : Nat) : Nat → List Nat → State × List Nat × List Nat → State × List Nat × List Nat
  | 0, _, a => a
  | _, [], a => a
  | f + 1, d :: r, (s, left, skip) =>
    let x := domAt s d
    let kids := (children d).filter fun c => !domIsOff (domAt s c)
    if domIsOff x ∨ domFalling x then downPass keep f r (s, left, skip)
    else if bitAt keep d then downPass keep f r (s, left, skip ++ [d])
    else if kids.isEmpty then
      if x.phase = .on then downPass keep f r (startDown s d false, left, skip)
      else downPass keep f r (cmdDown s d, left, skip)
    else if kids.all (fun c => domFalling (domAt s c) || left.contains c || r.contains c) then
      downPass keep f r (s, left ++ [d], skip)
    else downPass keep f r (s, left, skip ++ [d])

/-- 17 R457: READY, DOWN and DONE as far as they can go now. `atBoundary` lets DOWN begin under TARGET. -/
def planStep (s : State) (atBoundary : Bool) : State :=
  let p := s.pwr.plan
  let s := if s.pwr.planSt = 1 ∧ domsOn s (domsOf (planUp s p)) then
      { s with pwr := { s.pwr with planSt := 2, planTicks := 0 } } else s
  let s := if s.pwr.planSt = 2 ∧ (planTarget s p = 0xFF ∨ (atBoundary ∧ s.tsq.run ∧ s.tsq.set = planTarget s p)) then
      { s with pwr := { s.pwr with planSt := 3, planLeft := domsOf (planDown s p) } } else s
  if s.pwr.planSt = 3 then
    let (s, left, skip) := downPass (runDomreq s) 65 s.pwr.planLeft.reverse (s, [], [])
    let first := if s.pwr.skipped = 0 then skip.headD s.pwr.firstSkip else s.pwr.firstSkip
    let s := { s with pwr := { s.pwr with planLeft := left.reverse, firstSkip := first,
                                          skipped := satAdd 255 s.pwr.skipped skip.length } }
    if left.isEmpty ∧ (domsOf (planDown s p)).all (fun d => !domFalling (domAt s d)) then
      { s with pwr := { s.pwr with planSt := 4 } } else s
  else s

/-- 17 R449, R460: the domains that the apply of DOMAINS or the way into safe-dark powers down, as far as they can go now. -/
def downStep (s : State) : State :=
  let (s, left, _) := downPass 0 65 s.pwr.downLeft.reverse (s, [], [])
  { s with pwr := { s.pwr with downLeft := left.reverse } }

/-- 17 R457: a plan that is cancelled leaves every domain in the state it has reached: in its UP or DOWN phase, no command of its
waits any longer. -/
def planCancelled (s : State) : State :=
  let p := s.pwr.plan
  let quiet (ds : List Dom) (d : Nat) : List Dom := lmod ds d fun x => { x with want := false, queued := 0 }
  let doms := if s.pwr.planSt = 2 then s.pwr.doms else (domsOf (planUp s p ||| planDown s p)).foldl quiet s.pwr.doms
  { s with pwr := { s.pwr with planSt := 5, planLeft := [], doms := doms } }

/-- 17 R457: a write of SYS_PLANGO. -/
def planGo (s : State) (v : Nat) : State :=
  let p := bits v 2 0
  let running := s.pwr.planSt = 1 ∨ s.pwr.planSt = 2 ∨ s.pwr.planSt = 3
  if bits v 31 16 ≠ 0x9D0E then s
  else if bitAt v 4 then
    if running then planCancelled s else s
  else if running then pwrRefuse s 6 s.pwr.errDom
  else if planValid s p then
    let s := { s with pwr := { s.pwr with planSt := 1, plan := p, skipped := 0, firstSkip := 0, planTicks := 0, planLeft := [] } }
    planStep ((domsOf (planUp s p)).foldl (fun s d => if domOn s d then s else cmdUp s d) s) false
  else s

/-- 17 R457: TIMEOUT ticks have passed after READY without TARGET running. -/
def planTimeoutNow (s : State) : State :=
  if s.pwr.planSt = 2 ∧ planTimeout s s.pwr.plan ≤ s.pwr.planTicks then
    { s with pwr := { s.pwr with planSt := 5, planLeft := [] } } else s

/-- 17 R449: what the apply of DOMAINS switches. -/
def domainsApply (s : State) : State :=
  let s := (domsOf (applyOn s)).foldl (fun s d => if domOn s d then s else cmdUp s d) s
  let down := idxWhere 64 fun d => isCommandDom d && !bitAt (applyOn s) d && !domIsOff (domAt s d)
  downStep { s with pwr := { s.pwr with downLeft := down } }

/-- 17 R449: the apply step is complete when both actions have finished. -/
def domainsDone (s : State) : Bool :=
  s.pwr.downLeft.isEmpty && domsOn s (domsOf (applyOn s)) &&
    (List.range 64).all fun d => bitAt (applyOn s) d || !isCommandDom d || !domFalling (domAt s d)

/-- 05 R145: the drain limit of a domain, in cycles. -/
def drainLimit (s : State) (d : Nat) : Nat :=
  let x := domDrain s d
  (if x = 0 then rwGet s (Base.fab + 4) 0x40 else x) * 256

/-- The SYS power registers (17 R463). -/
def pwrRead (s : State) (off : Nat) : Nat :=
  let p := s.pwr
  let half (f : Nat → Bool) (h : Nat) : Nat := maskOf (idxWhere 64 f) / 2 ^ (32 * h) % 2 ^ 32
  match off with
  | 0x100 => half (domOn s) 0
  | 0x104 => half (domOn s) 1
  | 0x108 => half (fun d => domBusy (domAt s d)) 0
  | 0x10C => half (fun d => domBusy (domAt s d)) 1
  | 0x110 => domUsed s % 2 ^ 32
  | 0x114 => domUsed s / 2 ^ 32
  | 0x11C => p.errCause * 2 ^ 28 + p.errCount * 2 ^ 8 + p.errDom
  | 0x124 => p.planSt * 2 ^ 28 + p.plan * 2 ^ 24 + p.firstSkip * 2 ^ 16 + p.skipped * 2 ^ 8
  | 0x12C =>
    let x := domAt s (rwGet s (Base.sys + 0x128) 0)
    phaseCode x.phase * 2 ^ 28 + b2n x.fault * 2 ^ 27 + b2n (x.queued != 0 || x.want) * 2 ^ 26 + x.ups * 2 ^ 12 + x.downs
  | 0x134 => p.wakeCfg
  | 0x138 => p.wakeCause
  | _ => 0

end Sys2Proof.Machine
end

