-- ==== Sys2Proof/Machine/Fabric.lean ====
section
/-! DEFINITION. The fabric below the registers: addresses and their targets, memories by fabric address, packets and their header flits, the
elastic egresses, the transfers of the chip's own units, responses and power-down traffic (00 R5 to R8; 05 R122 to R150; 20 R514). -/

namespace Sys2Proof.Machine

/-! ### Addresses (00 R7; 05 R123; 06 R158) -/

/-- 05 R123, 06 R156: DRAM system address `sa`, for `n` bytes. -/
def decodeSa (s : State) (sa n : Nat) : Target := if sa + n ≤ dmSize (dramB s) then .dram sa else .none

/-- 05 R123: the target of the bytes [fa, fa + n). -/
def decodeFa (s : State) (fa n : Nat) : Target :=
  let within (lo size : Nat) : Bool := lo ≤ fa && fa + n ≤ lo + size
  if 2 ^ 36 ≤ fa then .none
  else if 2 ^ 35 ≤ fa then (if bitAt fa 34 then .none else decodeSa s (fa % 2 ^ 34) n)
  else if 2 ^ 32 ≤ fa then .none
  else if within 0 0x10000 then .rom fa
  else if within 0x10000000 0x800000 then
    (if fa < 0x10400000 ∧ 0x10400000 < fa + n then .none else .sram (fa - 0x10000000))
  else if within 0x20000000 0x40000 then .tcm (fa - 0x20000000)
  else if 0x40000000 ≤ fa ∧ fa < 0x40100000 ∧ fa % 0x10000 + n ≤ 0x10000 then .reg fa
  else if within 0x80000000 0x80000000 then
    decodeSa s (bits (rwGet s (Base.dmc + 4) 0) 5 0 * 0x10000000 + (fa - 0x80000000)) n
  else .none

/-- 20 Table 20-1: the domain that serves a register. -/
def regDom (addr : Nat) : Nat :=
  let o := addr % 0x10000
  match addr / 0x10000 % 16 with
  | 0x0 => if o = 0x134 ∨ o = 0x138 ∨ o = 0x200 ∨ o = 0x204 then 0 else 8
  | 0x1 => 2
  | 0x2 => if o < 0x15C then 5 else 8
  | 0x3 => 8
  | 0x4 => if o < 0x80 then 9 else if 0x100 ≤ o ∧ o < 0x200 then 20 + (o - 0x100) / 0x40
           else if 0x200 ≤ o ∧ o < 0x2C0 then 9 else 8
  | 0x5 => if o < 0x20 then 10 else if 0x100 ≤ o ∧ o < 0x200 then 28 + 3 * ((o - 0x100) / 0x40) else 8
  | 0x6 => if o < 0x34 then 10 else if 0x100 ≤ o ∧ o < 0x200 then 29 + 3 * ((o - 0x100) / 0x40)
           else if 0x400 ≤ o ∧ o < 0x498 then 10 else 8
  | 0x7 => if o < 0xD0 then 10 else if 0x100 ≤ o ∧ o < 0x200 then 40 + (o - 0x100) / 0x40 else 8
  | 0x8 => if o < 0x100 then (if 0x10 ≤ o ∧ o < 0x28 then 44 + o / 4 % 2 else 11)
           else if o < 0x200 then 46 else 8
  | 0x9 => if o < 0x48 then 11 else if 0x100 ≤ o ∧ o < 0x180 then 52 + (o - 0x100) / 0x40 else 8
  | 0xA => if o = 0x10 ∨ o = 0x14 then 0 else 56
  | 0xB => 58
  | 0xC => 1
  | 0xD => if o < 0x1C then 8 else if 0x20 ≤ o ∧ o < 0x40 then 0 else 8
  | 0xE => 59
  | _ => 7

/-- The physical rank that a system address reaches now. -/
def saPrank (s : State) (sa : Nat) : Nat := (rmtAt s (saLine (dramB s) (sa / 64)).1).cur

/-- 05 R123: the target domains of a decoded request. -/
def targetDoms (s : State) (t : Target) (n : Nat) : List Nat :=
  match t with
  | .none => []
  | .rom _ => [8]
  | .sram off => let a := sramDom off; let b := sramDom (off + n - 1); if a = b then [a] else [a, b]
  | .tcm _ => [6]
  | .reg a => [regDom a]
  | .dram sa => [20 + saPrank s sa / 2]
  | .rank p _ => [20 + p / 2]

/-- The port that serves a target (05 Table 5-1). -/
def targetPort (s : State) (t : Target) : Nat :=
  match t with
  | .none => 5
  | .rom _ => 5
  | .sram off => if off < 0x400000 then 4 else 23
  | .tcm _ => 0
  | .reg _ => 5
  | .dram sa => 6 + saPrank s sa / 2
  | .rank p _ => 6 + p / 2

/-- The fabric address of a target's first byte, whichever way it was reached: the DRAM window names the same byte as its system address. -/
def targetFa (t : Target) : Nat :=
  match t with
  | .rom off => off
  | .sram off => 0x10000000 + off
  | .tcm off => 0x20000000 + off
  | .reg a => a
  | .dram sa => 2 ^ 35 + sa
  | _ => 0

/-- The domain of a source port (05 R148). 24 stands for the fabric's own telemetry (assumption log entry 134). -/
def portDom (p : Nat) : Nat :=
  if p = 0 then 6 else if p = 1 then 59 else if p = 2 then 7 else if p = 3 then 5 else if p = 5 ∨ p = 24 then 8
  else if p = 4 then 12 else if p ≤ 9 then 20 + (p - 6) else if p = 10 then 9 else if p = 11 then 58
  else if p ≤ 15 then 28 + 3 * (p - 12) else if p ≤ 17 then 10 else if p = 18 then 46 else if p = 19 then 48
  else if p ≤ 21 then 52 + (p - 20) else if p = 22 then 56 else 16

/-- The domains of the register windows (20 Table 20-1), which port 5 serves. -/
def windowDoms : List Nat :=
  [0, 1, 2, 5, 7, 8, 9, 10, 11, 20, 21, 22, 23, 28, 29, 31, 32, 34, 35, 37, 38, 40, 41, 42, 43, 44, 45, 46, 52, 53, 56, 58, 59]

/-- Every target domain of a port (05 R151, FAB_PORTON). A port that receives no requests has none: the model shows its own unit's domain
(assumption log entry 135, DESIGN CHOICE). -/
def portDoms (p : Nat) : List Nat :=
  if p = 4 then [12, 13, 14, 15] else if p = 23 then [16, 17, 18, 19]
  else if p = 5 then windowDoms else [portDom p]

/-- 02 R51, 06 R176: whether [fa, fa + n) meets a published buffer, or one that a LINES surface has latched. -/
def publishedIn (s : State) (fa n : Nat) : Bool :=
  let b := inputsB s
  let hit (r k : Nat) : Bool :=
    let lo := regBase b r + k * regLen b r
    decide (fa < lo + regLen b r ∧ lo < fa + n)
  let taken (r k : Nat) : Bool := (ahas s.pins.front r && alook s.pins.front r == k) ||
    s.pso.eng.any fun x => x.latch == some (r, k) || x.platch == some (r, k)
  (List.range 64).any fun r => regValid b r && ((hit r 0 && taken r 0) || (hit r 1 && taken r 1))

/-- The bytes that a write of `n` bytes must find unpublished: in DRAM its lines (06 R176). -/
def writeExtent (t : Target) (n : Nat) : Nat × Nat :=
  match t with
  | .dram sa => (2 ^ 35 + sa / 64 * 64, (sa % 64 + n + 63) / 64 * 64)
  | _ => (targetFa t, n)

/-- Whether a write to a target is barred as PUBLISHED. -/
def barred (s : State) (t : Target) (n : Nat) : Bool := publishedIn s (writeExtent t n).1 (writeExtent t n).2

/-! ### Memories by fabric address -/

/-- 07 R200: a write at HOME of line `d` behind the copy pointer is captured for the spare; a full buffer sets REDO_LO. -/
def mirrorLine (s : State) (lr d : Nat) : State :=
  let st := (rmtAt s lr).st
  if (st = 2 ∨ st = 3) ∧ d < s.dmc.cp then
    if s.dmc.mirror.length < 256 then
      let p := (rmtAt s lr).cur
      { s with dmc := { s.dmc with mirror := s.dmc.mirror ++ [(d, lineRead s p d, linePoison s p d)] } }
    else { s with dmc := { s.dmc with redo := some (min d (s.dmc.redo.getD d)) } }
  else s

/-- 16 R436: a lead that copies to its shadow, or forwards to it, notes every write as it is performed. -/
def noteWrite (s : State) (fa : Nat) (b : Bytes) (fixed : Bool) : State :=
  if isLead s && (s.twn.copy.isSome || (s.twn.forward && !fixed)) then
    { s with twn := { s.twn with fwd := s.twn.fwd ++ [(fa, b, fixed)] } }
  else s

/-- A write to line `d` of logical rank `lr` where the rank map places it, mirrored while it migrates. A part of a poisoned line
leaves the line poisoned (07 R193). -/
def homeWrite (s : State) (lr d off : Nat) (data : Bytes) (poison fixed : Bool) : State :=
  let p := (rmtAt s lr).cur
  let s := mirrorLine (lineWrite s p lr d off data (poison || (data.length < 64 && linePoison s p d))) lr d
  noteWrite s (2 ^ 35 + lineSa (dramB s) lr d * 64 + off) data fixed

/-- The pieces of [sa, sa + n) by line: address and length. -/
def linePieces (fuel sa n : Nat) : List (Nat × Nat) :=
  match fuel with
  | 0 => []
  | f + 1 =>
    if n = 0 then []
    else
      let k := min n (64 - sa % 64)
      (sa, k) :: linePieces f (sa + k) (n - k)

/-- Bytes of DRAM by system address; a poisoned line reads as R192 says. -/
def saRead (s : State) (sa n : Nat) : Bytes :=
  (linePieces (n / 64 + 2) sa n).flatMap fun (a, k) =>
    let (lr, d) := saLine (dramB s) (a / 64)
    let p := (rmtAt s lr).cur
    (((if linePoison s p d then poisonLine else lineRead s p d).drop (a % 64)).take k)

def saWriteGo (fixed : Bool) (s : State) (b : Bytes) : List (Nat × Nat) → State
  | [] => s
  | (a, k) :: r =>
    let (lr, d) := saLine (dramB s) (a / 64)
    saWriteGo fixed (homeWrite s lr d (a % 64) (b.take k) false fixed) (b.drop k) r

def saWrite (s : State) (sa : Nat) (b : Bytes) (fixed : Bool) : State :=
  saWriteGo fixed s b (linePieces (b.length / 64 + 2) sa b.length)

/-- The bytes of a memory target. -/
def memGet (s : State) (t : Target) (n : Nat) : Bytes :=
  match t with
  | .rom off => readRun romByte off n
  | .sram off => readRun (sramByte s) off n
  | .tcm off => readRun (tcmByte s) off n
  | .dram sa => saRead s sa n
  | _ => List.replicate n 0

/-- A write to a memory target. -/
def memSet (s : State) (t : Target) (b : Bytes) (fixed : Bool) : State :=
  match t with
  | .sram off => noteWrite (sramPut s off b) (0x10000000 + off) b fixed
  | .tcm off => tcmPut s off b
  | .dram sa => saWrite s sa b fixed
  | _ => s

/-- The word that answers an access to a domain that is not fully on (00 R8). -/
def offData (n : Nat) : Bytes := ((List.replicate ((n + 3) / 4) (leBytes 4 0xD0FFD0FF)).flatten).take n

/-- Whether an access to [fa, fa + n) reaches a memory that is fully on. -/
def faOk (s : State) (fa n : Nat) : Bool :=
  match decodeFa s fa n with
  | .none => false
  | .reg _ => false
  | t => domsOn s (targetDoms s t n)

/-- What a memory shows at [fa, fa + n). -/
def faRead (s : State) (fa n : Nat) : Bytes :=
  let t := decodeFa s fa n
  match t with
  | .none => List.replicate n 0
  | .reg _ => List.replicate n 0
  | _ => if domsOn s (targetDoms s t n) then memGet s t n else offData n

/-- The data of a fixed read: the front buffer of a staged region (18 R475). -/
def fixedRead (s : State) (fa n : Nat) : Bytes := faRead s (fixedAddr s fa) n

/-- A DOMAIN_OFF completion is counted (05 R151). -/
def countOff (s : State) : State := { s with fab := { s.fab with cntOff := sat32 s.fab.cntOff } }

/-- 05 R149: fixed traffic to a domain that is not fully on raises DOMAIN_ORDER for its unit and word, and completes with DOMAIN_OFF. -/
def fixedGuard (s : State) (unit : Nat) (word : Option Nat) (fa n : Nat) : State :=
  let t := decodeFa s (fixedAddr s fa) n
  match (targetDoms s t n).find? (fun d => !domOn s d) with
  | some d => countOff (raiseFault s 6 2 unit d word)
  | none => s

/-- 07 R192: whether a fixed read of [fa, fa + n) meets a poisoned line, which degrades the tick. -/
def faPoison (s : State) (fa n : Nat) : Bool :=
  match decodeFa s fa n with
  | .dram sa => (linePieces (n / 64 + 2) sa n).any fun (a, _) =>
      let (lr, d) := saLine (dramB s) (a / 64); linePoison s (rmtAt s lr).cur d
  | _ => false

/-- A fixed read by a unit: what it reads, with its faults and the degradation it causes. -/
def fixedGet (s : State) (unit : Nat) (word : Option Nat) (fa n : Nat) : State × Bytes × Bool :=
  let s := fixedGuard s unit word fa n
  let p := faPoison s (fixedAddr s fa) n
  (if p then degrade s 1 else s, fixedRead s fa n, p)

/-! ### Packets (05 R124, R125) -/

/-- The fields of a header flit (05 Table 5-2). -/
structure Flit where
  ptype  : Nat
  src    : Nat
  dst    : Nat
  tag    : Nat
  cls    : Nat
  fixed  : Bool
  poison : Bool
  status : Nat
  frag   : Nat
  flen   : Nat
  addr   : Nat
  deriving DecidableEq, Repr

/-- The flit's 128 bits. -/
def Flit.word (f : Flit) : Nat :=
  f.ptype % 16 * 2 ^ 124 + f.src % 32 * 2 ^ 119 + f.dst % 32 * 2 ^ 114 + f.tag % 256 * 2 ^ 106 + f.cls % 4 * 2 ^ 104 + b2n f.fixed * 2 ^ 103 +
    b2n f.poison * 2 ^ 102 + f.status % 16 * 2 ^ 98 + f.frag % 4 * 2 ^ 96 + f.flen % 2 ^ 14 * 2 ^ 82 + f.addr % 2 ^ 64

/-- PTYPE of a request. -/
def ptypeOf (k : ReqKind) : Nat := match k with | .read => 1 | .write => 2 | .msg => 3

/-- FRAG of fragment `i` of `n`. -/
def fragOf (i n : Nat) : Nat := if n ≤ 1 then 0 else if i = 0 then 1 else if i + 1 = n then 3 else 2

/-- The header flits of a request: one, and one for each fragment of a message. -/
def reqFlits (q : Req) : List Nat :=
  let n := if q.kind = .msg then max 1 (cdiv q.flen 256) else 1
  (List.range n).map fun i => Flit.word
    { ptype := ptypeOf q.kind, src := q.src, dst := q.dst, tag := q.tag, cls := q.cls, fixed := false,
      poison := false, status := 0, frag := fragOf i n, flen := q.flen, addr := q.fa }

/-- The header flit of a response, which goes from the request's destination to its source. -/
def rspFlit (q : Req) (status : Nat) : Nat :=
  Flit.word
    { ptype := 8 + ptypeOf q.kind, src := q.dst, dst := q.src, tag := q.tag, cls := q.cls, fixed := false,
      poison := status == 4, status := status, frag := 0, flen := q.flen, addr := q.fa }

/-! ### Responses (05 R125, R139) -/

/-- The data a status brings with a read (05 Table 5-3). -/
def errData (q : Req) (status : Nat) : Bytes :=
  if q.kind = .read then
    match status with
    | 1 => List.replicate q.flen 0
    | 2 => offData q.flen
    | 5 => List.replicate q.flen 0
    | 6 => List.replicate q.flen 0
    | _ => []
  else []

/-- A response starts on its way. -/
def respondWith (s : State) (q : Req) (seq status : Nat) (data : Bytes) (bad : List Nat) (own : Bool) : State :=
  { s with fab := { s.fab with rsp := s.fab.rsp ++
    [{ src := q.src, dst := q.dst, tag := q.tag, status := status, data := data, seq := seq, own := own, hdr := rspFlit q status, bad := bad }] } }

/-- A completion without effect that the fabric makes. A DECODE_ERR has no destination and waits for nothing. -/
def complete (s : State) (q : Req) (seq status : Nat) : State :=
  let s := respondWith s q seq status (errData q status) [] (status != 1)
  match status with
  | 1 => { s with fab := { s.fab with cntDec := sat32 s.fab.cntDec } }
  | 2 => countOff s
  | _ => s

/-- A completion that the destination makes. -/
def answer (s : State) (q : Req) (seq status : Nat) (data : Bytes) (bad : List Nat) : State :=
  respondWith s q seq status (if data.isEmpty then errData q status else data) bad false

/-- 05 R139: requests of `src` to `dst` with a place before `seq` whose responses have not reached it. -/
def earlierOpen (s : State) (src dst seq : Nat) : Bool :=
  let mine (p : Pkt) : Bool := p.req.src == src && p.req.dst == dst && decide (p.seq < seq)
  s.fab.eg.any (fun g => g.qs.any fun q => q.pk.any mine) || s.fab.handed.any mine || s.fab.held.any mine ||
    s.dmc.ch.any (fun c => c.reqs.any fun r => r.src == src && r.dst == dst && decide (r.seq < seq)) ||
    s.fab.rsp.any fun r => r.src == src && r.dst == dst && decide (r.seq < seq)

/-- The response that reaches source `src` next, by its place in the list. Only a completion that the fabric made waits. -/
def nextRsp (s : State) (src : Nat) : Option Nat :=
  firstIdx s.fab.rsp.length fun i =>
    match s.fab.rsp[i]? with
    | some r => r.src == src && !(r.own && earlierOpen s r.src r.dst r.seq)
    | none => false

/-! ### Elastic egresses (05 R130, R131) -/

/-- The egress of a destination port. -/
def egressOf (dst : Nat) : Option Nat :=
  if 6 ≤ dst ∧ dst ≤ 9 then some (dst - 6) else if dst = 20 ∨ dst = 21 then some (dst - 16) else if dst = 22 then some 6 else none

/-- 06 R155: the bytes of a DRAM request cross a 256-byte boundary. -/
def crosses (t : Target) (n : Nat) : Bool := match t with | .dram sa => decide (256 < sa % 256 + n) | _ => false

/-- The egress that a packet waits at. -/
def pktEgress (p : Pkt) : Option Nat :=
  if p.req.kind = .msg then egressOf p.req.dst
  else match p.tgt with
    | .dram _ => if crosses p.tgt p.req.flen then none else egressOf p.req.dst
    | .rank _ _ => egressOf p.req.dst
    | _ => none

/-- FAB_QMAP (05 Table 5-3A). -/
def fabricB (s : State) : Bytes := secB s Ty.fabric 0
def qmap (s : State) (e p k : Nat) : Nat := if 24 ≤ p then 0 else u8 (fabricB s) (0x100 + 96 * e + 4 * p + k) % 32
def maxOut (s : State) (p : Nat) : Nat := if 24 ≤ p then 0 else u16 (fabricB s) (0x40 + 2 * p)

/-- The domains that a packet needs (05 R123; a message's target is the port's MAC or the twin's link layer). -/
def pktDoms (s : State) (q : Req) (t : Target) : List Nat :=
  match q.kind with
  | .msg => if q.dst = 22 then [56] else [52 + (q.dst - 20)]
  | _ => targetDoms s t q.flen

/-- A request as the fabric takes it: its address is decoded in this cycle (06 R158). -/
def mkPkt (s : State) (q : Req) (tgt : Option Target) (bad : List Nat) (forced : Bool) (seq : Nat) : Pkt :=
  let t := if q.kind = .msg then .none else tgt.getD (decodeFa s q.fa q.flen)
  let q := if q.kind = .msg then q else { q with dst := targetPort s t }
  { req := q, tgt := t, hdrs := reqFlits q, bad := bad, forced := forced, arr := s.clk.mclk, enq := s.clk.mclk, first := false, tag := none,
    doms := pktDoms s q t, seq := seq }

/-- A packet is held in its source. -/
def holdPkt (s : State) (p : Pkt) : State := { s with fab := { s.fab with held := s.fab.held ++ [p] } }

/-- A packet enters its queue, or is held in its source while the queue is full (05 R131). A request for a target without a queue waits
for its grant there. -/
def enqueue (s : State) (p : Pkt) : State :=
  match pktEgress p with
  | none => holdPkt s p
  | some e =>
    let g := lget s.fab.eg e {}
    let i := qmap s e p.req.src p.req.cls
    if queueFull (lget g.qs i {}) then holdPkt s p
    else { s with fab := { s.fab with eg := lmod s.fab.eg e fun g => egPush g i s.clk.mclk p } }

/-- Whether a source holds packets back. -/
def srcHolds (s : State) (src : Nat) : Bool := s.fab.held.any fun x => x.req.src == src

/-- Packets held in their sources enter their queues as far as they now can, each source in its order. -/
def releaseHeld (s : State) : State :=
  s.fab.held.foldl (fun s p => if srcHolds s p.req.src then holdPkt s p else enqueue s p) { s with fab := { s.fab with held := [] } }

/-- The next place in the order of issue, and the state that has used it. -/
def takeSeq (s : State) : Nat × State := (s.fab.seq, { s with fab := { s.fab with seq := s.fab.seq + 1 } })

/-- 05 R143, R144: whether a packet's domains still take it: each is fully on, or was so when it arrived and has yet to flush. -/
def pktTaken (s : State) (p : Pkt) : Bool :=
  p.doms.all fun d =>
    let x := domAt s d
    match x.phase with
    | .on => true
    | .fence => decide (p.arr < x.c0)
    | .drain => decide (p.arr < x.c0)
    | _ => false

/-- A request that goes to an elastic egress: fenced, or queued, or held in its source behind its own earlier requests. -/
def submitPkt (s : State) (p : Pkt) : State :=
  if !pktTaken s p then complete s p.req p.seq 2
  else if srcHolds s p.req.src then holdPkt s p
  else enqueue s p

/-- A source's outstanding requests, with their TAGs (05 R124, R127). -/
def outAdd (s : State) (src tag : Nat) : State :=
  { s with fab := { s.fab with out := aset s.fab.out src (alook s.fab.out src + 1), tags := (src, tag) :: s.fab.tags } }
def outSub (s : State) (src tag : Nat) : State :=
  { s with fab := { s.fab with out := aset s.fab.out src (alook s.fab.out src - 1), tags := s.fab.tags.erase (src, tag) } }

/-- 05 R127: a source holds a free response buffer; ports that FABRIC gives none are not limited before it is applied. -/
def mayIssue (s : State) (src : Nat) : Bool :=
  domOn s (portDom src) && (maxOut s src == 0 || decide (alook s.fab.out src < maxOut s src))

/-- 05 R148: the domain of a source is in ISOLATE or OFF, and no response enters it. A domain on its way up is still OFF to the fabric. -/
def portCut (s : State) (src : Nat) : Bool :=
  match (domAt s (portDom src)).phase with
  | .on | .fence | .drain | .flush => false
  | _ => true

/-! ### Transfers of the chip's own units (05 R127, R138) -/

/-- The requests that cover [fa, fa + n), cut at 256-byte boundaries (assumption log entry 8). -/
def cutReqs (src : Nat) (kind : ReqKind) (cls : Nat) : Nat → Nat → Nat → Bytes → List XReq
  | 0, _, _, _ => []
  | f + 1, fa, n, data =>
    if n = 0 then []
    else
      let k := min n (256 - fa % 256)
      let q : Req := { src := src, kind := kind, fa := fa, flen := k, tag := 0, cls := cls, dst := 0, data := data.take k }
      { req := q, tgt := none, bad := [], forced := false } :: cutReqs src kind cls f (fa + k) (n - k) (data.drop k)

/-- A unit starts a transfer. -/
def xferAdd (s : State) (src : Nat) (job : Job) (l : List XReq) : State :=
  { s with fab := { s.fab with xfers := s.fab.xfers ++ [{ src := src, job := job, todo := l, sent := [], next := 0, got := [], bad := [] }] } }

/-- A unit reads [fa, fa + n), and `job` follows. -/
def unitRead (s : State) (src cls fa n : Nat) (job : Job) : State := xferAdd s src job (cutReqs src .read cls (n / 256 + 2) fa n [])

/-- A unit writes bytes at `fa`, and `job` follows. -/
def unitWrite (s : State) (src cls fa : Nat) (b : Bytes) (job : Job) : State :=
  xferAdd s src job (cutReqs src .write cls (b.length / 256 + 2) fa b.length b)

/-- A unit sends a message to a port, and `job` follows. -/
def unitMsg (s : State) (src cls dst : Nat) (b : Bytes) (job : Job) : State :=
  let q : Req := { src := src, kind := .msg, fa := 0, flen := b.length, tag := 0, cls := cls, dst := dst, data := b }
  xferAdd s src job [{ req := q, tgt := none, bad := [], forced := false }]

/-- Transfers that have lost their purpose end; what they have under way is answered to nobody. -/
def xferDrop (s : State) (p : Job → Bool) : State := { s with fab := { s.fab with xfers := s.fab.xfers.filter fun x => !p x.job } }

/-- A TAG that none of a source's outstanding requests carries. -/
def freeTag (s : State) (src : Nat) : Option Nat := firstIdx 256 fun t => !(s.fab.tags.contains (src, t))

/-- The CLASS of an elastic fetch's next request, which follows the urgency level (09 R247); another transfer's own. -/
def jobCls (s : State) (j : Job) (cls : Nat) : Nat :=
  match j with
  | .fetch e _ _ _ _ _ => (lget s.pso.eng e {}).cls
  | _ => cls

/-- A fetch unit issues no read at level 0. -/
def jobWaits (s : State) (j : Job) : Bool := jobCls s j 1 == 0

/-- The oldest transfer of a source that has a request to issue, by its place. -/
def xferDue (s : State) (src : Nat) : Option Nat :=
  firstIdx s.fab.xfers.length fun i => match s.fab.xfers[i]? with | some x => x.src == src && !x.todo.isEmpty && !jobWaits s x.job | none => false

/-- The next request of transfer `i` under TAG `t`: its packet, with the transfer noting it. -/
def xferNext (s : State) (i t : Nat) : Option (Pkt × State) :=
  match s.fab.xfers[i]? with
  | some x =>
    match x.todo with
    | [] => none
    | r :: l =>
      let (n, s) := takeSeq s
      let p := mkPkt s { r.req with tag := t, cls := jobCls s x.job r.req.cls } r.tgt r.bad r.forced n
      let s := { s with fab := { s.fab with xfers := lmod s.fab.xfers i fun x => { x with todo := l, sent := (t, x.next) :: x.sent, next := x.next + 1 } } }
      some (p, outAdd s x.src t)
  | none => none

/-- A source issues the next request of its oldest transfer, if it may. -/
def xferIssue (s : State) (src : Nat) : Option State :=
  if !mayIssue s src then none
  else
    match freeTag s src, xferDue s src with
    | some t, some i => (xferNext s i t).map fun x => if (pktEgress x.1).isSome then submitPkt x.2 x.1 else holdPkt x.2 x.1
    | _, _ => none

/-- Every source issues what it may, in port order. -/
def xferPump : Nat → State → State
  | 0, s => s
  | f + 1, s =>
    match (List.range 25).findSome? (xferIssue s) with
    | some s => xferPump f s
    | none => s

/-- Transfers end with the domain of their source. -/
def xferCut (s : State) : State :=
  if s.fab.xfers.any (fun x => portCut s x.src) then { s with fab := { s.fab with xfers := s.fab.xfers.filter fun x => !portCut s x.src } } else s

/-- How many requests the transfers have yet to issue. -/
def xferLeft (s : State) : Nat := s.fab.xfers.foldl (fun a x => a + x.todo.length) 0

/-- 05 R127: the units issue as far as they may. -/
def pumpXfers (s : State) : State := let s := xferCut s; xferPump (xferLeft s) s

/-- The transfer of source `src` that waits for the response to TAG `t`, by its place. -/
def xferOf (s : State) (src t : Nat) : Option Nat :=
  firstIdx s.fab.xfers.length fun i => match s.fab.xfers[i]? with | some x => x.src == src && x.sent.any (fun y => y.1 == t) | none => false

/-- A transfer with a response in it. -/
def Xfer.take (x : Xfer) (r : Rsp) : Xfer :=
  let n := ((x.sent.find? fun y => y.1 == r.tag).map (·.2)).getD 0
  { x with sent := x.sent.filter fun y => y.1 != r.tag, got := (n, r.status, r.data) :: x.got, bad := x.bad ++ r.bad.map fun l => (n, l) }

/-- Whether every response of a transfer has come. -/
def Xfer.whole (x : Xfer) : Bool := x.todo.isEmpty && x.sent.isEmpty

/-- The responses of a transfer in the order of its requests. -/
def Xfer.inOrder (x : Xfer) : List (Nat × Nat × Bytes) := x.got.mergeSort fun a b => decide (a.1 ≤ b.1)

/-- What a transfer read. -/
def Xfer.data (x : Xfer) : Bytes := x.inOrder.flatMap fun y => y.2.2

/-- The first status of a transfer that is neither OK nor POISON. -/
def Xfer.error (x : Xfer) : Option Nat := ((x.inOrder.map fun y => y.2.1).find? fun st => st != 0 && st != 4)

/-! ### Dequeuing (05 R133, R137, R145) -/

/-- A delivered packet counts for every target domain in DRAIN (05 R151). -/
def countDrained (s : State) (doms : List Nat) : State :=
  doms.foldl (fun s d => modDom s d fun x => if x.phase = .drain then { x with drained := satAdd 4095 x.drained 1 } else x) s

/-- The packet that egress `e` would send now and the state without it. -/
def egressPop (s : State) (e : Nat) (ok : Pkt → Bool) : Option (Pkt × State) :=
  let g := lget s.fab.eg e {}
  match egPick g s.clk.mclk ok with
  | none => none
  | some i =>
    match egPop g i s.clk.mclk with
    | none => none
    | some (p, g) =>
      let s := { s with fab := { s.fab with eg := lmod s.fab.eg e fun _ => g } }
      some (p, releaseHeld (countDrained s p.doms))

/-- The egress hands its packet to a link layer (05 R137). -/
def egressTake (s : State) (e : Nat) (ok : Pkt → Bool) : State :=
  match egressPop s e ok with
  | some (p, s) => { s with fab := { s.fab with handed := s.fab.handed ++ [p] } }
  | none => s

/-- A packet that was handed to a link layer is answered. -/
def answerHanded (s : State) (p : Pkt) : State :=
  let s := { s with fab := { s.fab with handed := s.fab.handed.filter fun x => x.seq != p.seq } }
  answer s p.req p.seq 0 [] []

/-! ### The DMC egresses (06 R169, R176) -/

/-- Where the bytes of a DRAM packet start: the offset in their line. -/
def dramOff (t : Target) : Nat := match t with | .dram sa => sa % 64 | _ => 0

/-- 06 R169: the entries a request needs, and whether its channel's queue has room. -/
def dmcRoom (s : State) (c : Nat) (p : Pkt) : Bool :=
  let n := (dramOff p.tgt + p.req.flen + 63) / 64
  let ch := chanAt s c
  if p.req.kind = .read then decide (ch.rdq.length + n ≤ 64) else decide (ch.wrq.length + n ≤ 64)

/-- The logical rank that a packet is for. -/
def pktLr (s : State) (p : Pkt) : Option Nat :=
  match p.tgt with
  | .dram sa => some (saLine (dramB s) (sa / 64)).1
  | _ => none

/-- 07 R200: a head for a logical rank in SETTLE is held. -/
def settleHeld (s : State) (p : Pkt) : Bool := match pktLr s p with | some lr => (rmtAt s lr).st == 3 | none => false

/-- The logical rank in COPY or SETTLE. -/
def movingLr (s : State) : Option Nat := firstIdx 8 fun lr => let x := (rmtAt s lr).st; x == 2 || x == 3

/-- The entries of a packet, one for each of its lines (06 R169). -/
def pktEnts (s : State) (p : Pkt) (id : Nat) : List LineEnt :=
  let w := p.req.kind == .write
  let ent (i lr d off len : Nat) (pr : Option Nat) (data : Bytes) : LineEnt :=
    { id := id, lr := lr, line := d, prank := pr, write := w, off := off, len := len, data := data, enq := s.clk.mclk,
      poison := p.bad.contains i, chk := none, rmw := none, late := false, held := false }
  match p.tgt with
  | .dram sa =>
    (linePieces 5 sa p.req.flen).zipIdx.map fun ((a, k), i) =>
      let (lr, d) := saLine (dramB s) (a / 64)
      ent i lr d (a % 64) k none ((p.req.data.drop (a - sa)).take k)
  | .rank r d =>
    (List.range (p.req.flen / 64)).map fun i => ent i ((movingLr s).getD 0) (d + i) 0 64 (some r) ((p.req.data.drop (64 * i)).take 64)
  | _ => []

/-- The first rank-local line of a DRAM packet. -/
def pktLine (s : State) (p : Pkt) : Nat :=
  match p.tgt with | .dram sa => (saLine (dramB s) (sa / 64)).2 | .rank _ d => d | _ => 0

/-- A packet inside a channel with `left` line accesses to come. -/
def pktReq (s : State) (p : Pkt) (id left status : Nat) : LineReq :=
  { id := id, src := p.req.src, dst := p.req.dst, tag := p.req.tag, write := p.req.kind == .write, seq := p.seq, off := dramOff p.tgt,
    len := p.req.flen, left := left, got := [], bad := [], status := status, fa := p.req.fa, line := pktLine s p }

/-- The request of a line request, as its response needs it. -/
def lineReq (r : LineReq) : Req :=
  { src := r.src, kind := if r.write then .write else .read, fa := r.fa, flen := r.len, tag := r.tag, cls := 0, dst := r.dst, data := [] }

/-- The answer of a request whose lines are all done. -/
def lineAnswer (s : State) (r : LineReq) : State :=
  let data := (r.got.mergeSort fun x y => decide (x.1 ≤ y.1)).flatMap (·.2)
  answer s (lineReq r) r.seq (if r.status ≠ 0 then r.status else if r.bad.isEmpty then 0 else 4) (if r.write then [] else data) r.bad

/-- 06 R174: completed requests answer in the order in which each source's requests came. -/
def finishReqs (s : State) (c : Nat) : State :=
  let step (a : State × List LineReq) (r : LineReq) : State × List LineReq :=
    if r.left = 0 ∧ !(a.2.any fun x => x.src == r.src) then (lineAnswer a.1 r, a.2) else (a.1, a.2 ++ [r])
  let a := (chanAt s c).reqs.foldl step (s, [])
  modChan a.1 c fun x => { x with reqs := a.2 }

/-- 19 R505: the extra mirror regions of the TWIN section. -/
def twinB (s : State) : Bytes := secB s Ty.twin 0
def twNxr (b : Bytes) : Nat := u8 b 8
def twXrBase (b : Bytes) (i : Nat) : Nat := u64 b (0x20 + 16 * i)
def twXrLen (b : Bytes) (i : Nat) : Nat := u64 b (0x28 + 16 * i)

def inExtraMirror (s : State) (fa n : Nat) : Bool :=
  (List.range (twNxr (twinB s))).any fun i =>
    let a := twXrBase (twinB s) i
    decide (fa < a + twXrLen (twinB s) i ∧ a < fa + n)

/-- 19 R505: a forced write that lands on state the schedule owns degrades the tick. -/
def forcedMark (s : State) (t : Target) (n : Nat) : State :=
  if barred s t n || inExtraMirror s (targetFa t) n then degrade s 4 else s

/-- A DMC egress dequeues its packet into the channel's queue, line by line; a write to a published buffer is refused (06 R176). -/
def dmcTake (s : State) (c : Nat) : State :=
  match egressPop s c (fun p => dmcRoom s c p && !settleHeld s p) with
  | none => s
  | some (p, s) =>
    let id := s.dmc.nextId
    let s := { s with dmc := { s.dmc with nextId := id + 1 } }
    if p.req.kind = .write ∧ !p.forced ∧ barred s p.tgt p.req.flen then
      finishReqs (modChan s c fun x => { x with reqs := x.reqs ++ [pktReq s p id 0 3] }) c
    else
      let s := if p.forced then forcedMark s p.tgt p.req.flen else s
      let l := pktEnts s p id
      modChan s c fun x =>
        let x := { x with reqs := x.reqs ++ [pktReq s p id l.length 0] }
        if p.req.kind = .write then { x with wrq := x.wrq ++ l } else { x with rdq := x.rdq ++ l }

/-- 05 R133: a DMC egress sends what it chose; its domain is on or drains. -/
def dmcDequeue (s : State) (e : Nat) : State :=
  if domOn s (20 + e) || (domAt s (20 + e)).phase == .drain then dmcTake s e else s

/-! ### Power-down (05 R143 to R147) -/

/-- Whether requests for domain `d` are queued or inside it. -/
def domWork (s : State) (d : Nat) : Bool :=
  let mine (p : Pkt) : Bool := p.doms.contains d
  s.fab.eg.any (fun g => g.qs.any fun q => q.pk.any mine) || s.fab.handed.any mine || s.fab.held.any mine ||
    (20 ≤ d && d < 24 && !(chanAt s (d - 20)).reqs.isEmpty)

/-- 05 R143, R145: DRAIN ends when nothing is left, or at its limit, or at once after a power-good failure (17 R456). -/
def drainEnd (s : State) (d : Nat) : State :=
  let x := domAt s d
  let late := decide (x.c0 + 1 + drainLimit s d ≤ s.clk.mclk)
  let left := domWork s d
  if x.phase = .drain ∧ (x.quick ∨ !left ∨ late) then
    modDom s d fun x => { x with phase := .flush, limit := left && late && !x.quick }
  else s

/-- The requests that FLUSH completes, with their places in the order of issue: those of the fabric's packets and `more`, source by source
and in issue order within a source (05 R146). -/
def flushList (s : State) (d : Nat) (more : List (Req × Nat)) : List (Req × Nat) :=
  let mine (p : Pkt) : Bool := p.doms.contains d
  let pk := s.fab.eg.flatMap (fun g => g.qs.flatMap fun q => q.pk.filter mine) ++ s.fab.handed.filter mine ++ s.fab.held.filter mine
  let all := pk.map (fun p => (p.req, p.seq)) ++ more
  (List.range 25).flatMap fun src => (all.filter fun p => p.1.src == src).mergeSort fun a b => decide (a.2 ≤ b.2)

/-- 05 R146: FLUSH completes every request left with DOMAIN_OFF, and ISOLATE starts. -/
def flushEnd (s : State) (d : Nat) : State :=
  if (domAt s d).phase = .flush then
    let inside : List LineReq := if 20 ≤ d ∧ d < 24 then (chanAt s (d - 20)).reqs else []
    let l := flushList s d (inside.map fun r => (lineReq r, r.seq))
    let keep (p : Pkt) : Bool := !p.doms.contains d
    let s := { s with fab := { s.fab with
      eg := s.fab.eg.map fun g => { g with qs := g.qs.map fun q => { q with pk := q.pk.filter keep } }
      handed := s.fab.handed.filter keep
      held := s.fab.held.filter keep } }
    let s := if 20 ≤ d ∧ d < 24 then modChan s (d - 20) fun c => { c with rdq := [], wrq := [], reqs := [], wb := [] } else s
    let s := l.foldl (fun s p => complete s p.1 p.2 2) s
    modDom s d fun x => { x with phase := .isolate, opening := false, c0 := s.clk.mclk, flushed := satAdd 4095 x.flushed l.length }
  else s

/-- 05 R143: ISOLATE ends after 64 cycles; the domain waits for its switch (17 R454). -/
def isolateEnd (s : State) (d : Nat) : State :=
  modDom s d fun x => if x.phase = .isolate ∧ x.opening = false ∧ x.c0 + 64 ≤ s.clk.mclk then { x with opening := true } else x

/-! ### FABRIC (05 R544) -/

/-- 05 R544: the queues and egresses take FABRIC's values. -/
def fabricLoad (s : State) : State :=
  let b := fabricB s
  let now := s.clk.mclk
  { s with fab := { s.fab with eg := s.fab.eg.zipIdx.map fun (g, e) =>
      { g with
        lmode := u8 b (8 * e) % 2
        ovh := u8 b (8 * e + 1) % 64
        qs := g.qs.zipIdx.map fun (q, i) =>
          let o := 0x400 + 512 * e + 16 * i
          setShape { q with weight := u16 b o, credit := u16 b (o + 2), limPkt := u8 b (o + 8), limKib := u8 b (o + 9) } now
            (u16 b (o + 4)) (u16 b (o + 6)) } } }

/-! ### FAB registers (05 R151) -/

/-- The queue that FAB_QSEL selects. -/
def qselE (s : State) : Nat := bits (rwGet s (Base.fab + 0x40) 0) 10 8
def qselQ (s : State) : Nat := bits (rwGet s (Base.fab + 0x40) 0) 4 0
def qselGet (s : State) : Queue := lget (lget s.fab.eg (qselE s) {}).qs (qselQ s) {}

def modQsel (s : State) (f : Queue → Queue) : State :=
  { s with fab := { s.fab with eg := lmod s.fab.eg (qselE s) fun g => { g with qs := lmod g.qs (qselQ s) f } } }

/-- 05 R151: a write of FAB_QSEL, with the copy it makes. -/
def qselWrite (s : State) (v : Nat) : State :=
  let s := rwPut s (Base.fab + 0x40) (bits v 10 8 * 256 + bits v 4 0)
  let g := lget s.fab.eg (qselE s) {}
  let q := qselGet s
  let age := match q.pk with | [] => 0 | p :: _ => min 0xFFFFFFFF (s.clk.mclk - p.enq)
  { s with fab := { s.fab with qsn := [q.pk.length % 256 * 2 ^ 24 + queueEff g q % 2 ^ 24, age, q.maxDly] } }

def fabRead (s : State) (off : Nat) : Nat :=
  let q := qselGet s
  let x := domAt s (bits (rwGet s (Base.fab + 8) 0) 5 0)
  match off with
  | 0x00 => maskOf (idxWhere 24 fun p => domsOn s (portDoms p))
  | 0x0C => x.flushed * 2 ^ 20 + x.drained * 256 + b2n x.limit * 8 + fabPhaseCode x
  | 0x10 => s.fab.cntOff
  | 0x14 => s.fab.cntDec
  | 0x18 => s.fab.rspDrop
  | 0x44 => q.weight
  | 0x48 => q.credit
  | 0x4C => q.burst * 65536 + q.rate
  | 0x50 => q.limKib * 65536 + q.limPkt
  | 0x54 => lget s.fab.qsn 0 0
  | 0x58 => lget s.fab.qsn 1 0
  | 0x5C => lget s.fab.qsn 2 0
  | 0x8C => s.fab.telPtr
  | 0x90 => s.fab.telMiss
  | _ =>
    if 0x20 ≤ off ∧ off < 0x3C then
      let g := lget s.fab.eg ((off - 0x20) / 4) {}
      g.lmode * 256 + g.ovh
    else if 0x400 ≤ off ∧ off < 0x460 then maxOut s ((off - 0x400) / 4) % 512
    else if 0x1000 ≤ off ∧ off < 0x12A0 then
      let w := (off - 0x1000) / 4
      (List.range 4).foldl (fun a k => a + qmap s (w / 24) (w % 24) k * 2 ^ (8 * k)) 0
    else 0

/-- A write of a FAB register that is not plain storage. -/
def fabWrite (s : State) (off v : Nat) : State :=
  let now := s.clk.mclk
  match off with
  | 0x04 => if bits v 7 0 = 0 then s else rwPut s (Base.fab + 4) (bits v 7 0)
  | 0x40 => qselWrite s v
  | 0x44 => if bits v 15 0 = 0 then s else modQsel s fun q => { q with weight := bits v 15 0 }
  | 0x48 => modQsel s fun q => { q with credit := bits v 15 0 }
  | 0x4C => modQsel s fun q => setShape q now (bits v 15 0) (bits v 31 16)
  | 0x50 => modQsel s fun q => { q with limKib := bits v 23 16, limPkt := if bits v 7 0 = 0 then q.limPkt else bits v 7 0 }
  | _ =>
    if 0x20 ≤ off ∧ off < 0x3C ∧ off % 4 = 0 then
      { s with fab := { s.fab with eg := lmod s.fab.eg ((off - 0x20) / 4) fun g => { g with lmode := bits v 8 8, ovh := bits v 5 0 } } }
    else s

end Sys2Proof.Machine
end

