-- ==== Sys2Proof/Machine/Crypto.lean ====
section
/-! DEFINITION. The check words and the signature of 03_fold_images.md: CRC-32 (R75), SHA-256 (FIPS 180-4) and ECDSA P-256
(FIPS 186-5, R76). FIPS texts are outside the spec: assumption log entry 5. -/

namespace Sys2Proof.Machine

/-- One bit of the reflected CRC-32 register. -/
def crcBit (c : BitVec 32) : BitVec 32 :=
  if c.getLsbD 0 then (c >>> 1) ^^^ 0xEDB88320#32 else c >>> 1

/-- One byte through the CRC-32 register. -/
def crcByte (c : BitVec 32) (b : Byte) : BitVec 32 :=
  crcBit (crcBit (crcBit (crcBit (crcBit (crcBit (crcBit (crcBit (c ^^^ b.zeroExtend 32))))))))

/-- R75: the CRC-32 of a run of bytes. -/
def crc32 (b : Bytes) : Nat := (b.foldl crcByte 0xFFFFFFFF#32 ^^^ 0xFFFFFFFF#32).toNat

/-- The first 64 primes; none of them has a prime factor above 17 but itself. -/
def shaPrimes : List Nat :=
  (List.range 312).filter fun n => decide (2 ≤ n) && [2, 3, 5, 7, 11, 13, 17].all fun d => n == d || n % d != 0

/-- The greatest `r + x` with x below 2 to the number of steps whose `k`-th power is at most `n`. -/
def rootBits (k n : Nat) : Nat → Nat → Nat
  | 0, r => r
  | b + 1, r => rootBits k n b (if (r + 2 ^ b) ^ k ≤ n then r + 2 ^ b else r)

/-- The first 32 bits of the fraction of the `k`-th root of `p`, which FIPS 180-4 takes its constants from. -/
def rootFraction (k p : Nat) : Word := BitVec.ofNat 32 (rootBits k (p * 2 ^ (32 * k)) 35 0)

/-- The 64 round constants: from the cube roots of the primes. -/
def shaK : List Word := shaPrimes.map (rootFraction 3)

/-- The initial hash value: from the square roots of the first eight. -/
def shaH0 : List Word := (shaPrimes.take 8).map (rootFraction 2)

/-- A word turned right by each of several amounts, the results added without carry. -/
def turns (x : Word) (l : List Nat) : Word := l.foldl (fun y n => y ^^^ x.rotateRight n) 0

/-- The message schedule grown by a number of words; the list is kept newest first. -/
def shaExpand : Nat → List Word → List Word
  | 0, w => w
  | k + 1, w =>
    let far := w.getD 14 0
    let near := w.getD 1 0
    shaExpand k (((turns near [17, 19] ^^^ near >>> 10) + w.getD 6 0 + (turns far [7, 18] ^^^ far >>> 3) + w.getD 15 0) :: w)

/-- The working variables of a block: a to d and e to h, newest first. Of each four a round pushes one and drops the last. -/
structure ShaVars where
  as : List Word
  es : List Word

/-- One round with the sum of its constant and its word. -/
def shaRound (v : ShaVars) (kw : Word) : ShaVars :=
  let a := v.as.getD 0 0
  let b := v.as.getD 1 0
  let e := v.es.getD 0 0
  let g := v.es.getD 2 0
  let choice := g ^^^ (e &&& (v.es.getD 1 0 ^^^ g))
  let most := (a &&& b) ||| (v.as.getD 2 0 &&& (a ||| b))
  let sum := kw + turns e [6, 11, 25] + choice + v.es.getD 3 0
  { as := (most + turns a [2, 13, 22] + sum) :: v.as.take 3, es := (v.as.getD 3 0 + sum) :: v.es.take 3 }

/-- One 64-byte block. -/
def shaBlock (h : List Word) (blk : Bytes) : List Word :=
  let first := ((chunks 16 4 blk).map fun q => BitVec.ofNat 32 (beNat q)).reverse
  let sums := List.zipWith (· + ·) shaK (shaExpand 48 first).reverse
  let v := sums.foldl shaRound { as := h.take 4, es := h.drop 4 }
  List.zipWith (· + ·) h (v.as ++ v.es)

/-- SHA-256 of a run of bytes. -/
def sha256 (m : Bytes) : Bytes :=
  let n := m.length
  let pad := (119 - n % 64) % 64
  let p := m ++ [0x80#8] ++ List.replicate pad 0 ++ beBytes 8 (8 * n)
  ((chunks (p.length / 64 + 1) 64 p).foldl shaBlock shaH0).flatMap fun x => beBytes 4 x.toNat

/-! ### P-256 -/

def p256P : Nat := 0xffffffff00000001000000000000000000000000ffffffffffffffffffffffff
def p256N : Nat := 0xffffffff00000000ffffffffffffffffbce6faada7179e84f3b9cac2fc632551
def p256B : Nat := 0x5ac635d8aa3a93e7b3ebbd55769886bc651d06b0cc53b0f63bce3c3e27d2604b
def p256Gx : Nat := 0x6b17d1f2e12c4247f8bce6e563a440f277037d812deb33a0f4a13945d898c296
def p256Gy : Nat := 0x4fe342e2fe1a7f9b8ee7eb4a7c0f9e162bce33576b315ececbb6406837bf51f5

/-- A power modulo `m`, over the bits of `e` from bit `k - 1` down. -/
def powMod (m b e : Nat) : Nat → Nat
  | 0 => 1
  | k + 1 =>
    let r := powMod m b (e / 2) k
    if e % 2 = 1 then r * r % m * b % m else r * r % m

/-- The inverse modulo a prime `m`, as a power. -/
def invMod (m a : Nat) : Nat := powMod m (a % m) (m - 2) 256

/-- A point of the curve; `none` is the point at infinity. -/
abbrev EcPoint := Option (Nat × Nat)

/-- Point addition. -/
def ecAdd (p q : EcPoint) : EcPoint :=
  match p, q with
  | none, q => q
  | p, none => p
  | some (x1, y1), some (x2, y2) =>
    let m := p256P
    if x1 = x2 ∧ (y1 + y2) % m = 0 then none
    else
      let l := if x1 = x2 then (3 * x1 * x1 + (m - 3)) % m * invMod m (2 * y1) % m
               else (y2 + m - y1) % m * invMod m ((x2 + m - x1) % m) % m
      let x3 := (l * l + 2 * m - x1 - x2) % m
      some (x3, (l * ((x1 + m - x3) % m) + m - y1) % m)

/-- A multiple of a point, over `k` bits of `e`. -/
def ecMul (e : Nat) (p : EcPoint) : Nat → EcPoint
  | 0 => none
  | k + 1 =>
    let r := ecMul (e / 2) p k
    let d := ecAdd r r
    if e % 2 = 1 then ecAdd d p else d

/-- R76: each coordinate lies below the field prime and the point satisfies the curve equation. The pair of coordinates never
stands for the point at infinity. -/
def p256KeyValid (x y : Nat) : Bool :=
  x < p256P && y < p256P && (y * y) % p256P == (x * x % p256P * x + (p256P - 3) * x + p256B) % p256P

/-- R76: whether (r, s) is a valid signature of the message with digest `h`. -/
def p256Verify (x y r s : Nat) (h : Bytes) : Bool :=
  let n := p256N
  if r = 0 ∨ n ≤ r ∨ s = 0 ∨ n ≤ s then false
  else
    let z := beNat h
    let w := invMod n s
    match ecAdd (ecMul (z * w % n) (some (p256Gx, p256Gy)) 256) (ecMul (r * w % n) (some (x, y)) 256) with
    | none => false
    | some (px, _) => px % n == r

end Sys2Proof.Machine
end

