-- ==== Sys2Proof/Machine/Otp.lean ====
section
/-! DEFINITION. The latched OTP: trim and ceiling checks, key slots, option fuses, the minimum security version (12 R314 to R318, 03
R77, 14 R367). -/

namespace Sys2Proof.Machine

/-- 12 R316: an option fuse is the majority of its three copies. -/
def fuseAt (o : Bytes) (bit : Nat) : Bool :=
  let w := u64 o 0xD0
  2 ≤ b2n (bitAt w bit) + b2n (bitAt w (bit + 1)) + b2n (bitAt w (bit + 2))

def fuse (s : State) (bit : Nat) : Bool := fuseAt s.cal.otp bit

def wdgHw (s : State) : Bool := fuse s 16
def dbgLock (s : State) : Bool := fuse s 19
def factLock (s : State) : Bool := fuse s 24

/-- 12 R315: the factory record's check word. -/
def trimOk (s : State) : Bool := crc32 (s.cal.otp.take 0x7C) == u32 s.cal.otp 0x7C

/-- 12 R318: the check word of the ceiling region. -/
def ceilOk (s : State) : Bool := crc32 ((s.cal.otp.drop 0x100).take 0xFC) == u32 s.cal.otp 0x1FC

/-- 12 R316: the state of a key slot: 0 blank, 1 valid, 2 revoked. -/
def keySlot (s : State) (k : Nat) : Nat :=
  let a := 0x80 + 0x24 * k
  let valid := fuse s (8 * k)
  let crcOk := crc32 ((s.cal.otp.drop a).take 32) == u32 s.cal.otp (a + 32)
  if fuse s (8 * k + 3) then (if valid then 2 else 0)
  else if valid then (if crcOk then 1 else 2) else 0

/-- The key hash of a slot. -/
def keyHash (s : State) (k : Nat) : Bytes := (s.cal.otp.drop (0x80 + 0x24 * k)).take 32

/-- 03 R77: one more than the number of the highest blown fuse, or 0. -/
def minVerOf (o : Bytes) : Nat := (List.range 64).foldl (fun m i => if bitAt (u64 o 0xC8) i then i + 1 else m) 0

def minVer (s : State) : Nat := minVerOf s.cal.otp

/-- 12 Table 12-2: the UID, least significant byte first. -/
def uid (s : State) : Bytes := s.cal.otp.take 8

/-- 12 R327: the die sensor offset; 0 while the record is bad (12 R315, untrimmed defaults). -/
def tsOfs (s : State) : Int := if trimOk s then i16 s.cal.otp 0x12 else 0

/-- 14 Table 14-1, 12 R318: a ceiling value reads 0 while CEILOK is 0. -/
def ceil16 (s : State) (off : Nat) : Nat := if ceilOk s then u16 s.cal.otp (0x100 + off) else 0
def ceil8 (s : State) (off : Nat) : Nat := if ceilOk s then u8 s.cal.otp (0x100 + off) else 0
def openCeil (s : State) (n : Nat) : Nat := ceil16 s (4 * n)
def clearCeil (s : State) (n : Nat) : Nat := ceil16 s (4 * n + 2)

/-- The latched BENCH_N is low (18 R466). -/
def benchLow (s : State) : Bool := !bitAt s.boot.straps 3

/-- The OTP bits of CAL_OTPSTAT and FLD_OTPVER (12 R337, 03 R96). -/
def slotBits (s : State) : Nat := keySlot s 1 * 2 ^ 10 + keySlot s 0 * 2 ^ 8 + minVer s

end Sys2Proof.Machine
end

