-- ==== Sys2Proof/Machine/Guard.lean ====
section
/-! DEFINITION. The pin map, PINSWAP, and the input guard: range checks, fallback values, freshness and delivery (18 R467 to R480). -/

namespace Sys2Proof.Machine

/-! ### Balls and owners (18 R467 to R472) -/

/-- The ball index of a GP line. GP0 is in the VAON bank; the others stand four to a row (21, the ball list). -/
def gpBall (n : Nat) : Nat := if n = 0 then 341 else 33 * (19 + n / 4) + 4 + n % 4

/-- The ball index of TREF_IN. -/
def trefBall : Nat := 405

/-- The GP line at a ball. -/
def gpOf (ball : Nat) : Option Nat := firstIdx 32 fun n => gpBall n == ball

/-- Whether a ball stands in its tick of park. -/
def inPark (s : State) (ball : Nat) : Bool := s.pins.swaps.any fun x => x.ball == ball

/-- The owner of a ball. -/
def ownerOf (s : State) (ball : Nat) : Nat := alook s.pins.owner ball

/-- The domain of an owner (18 Table 18-2). -/
def ownerDom (o : Nat) : Option Nat :=
  if o = 1 ∨ o = 2 ∨ (0x10 ≤ o ∧ o ≤ 0x13) then some 4
  else if o = 0x18 ∨ o = 0x19 then some 48
  else if o = 0x20 then some 2
  else if o = 0x21 then some 0
  else none

/-- 18 R470: the ball is held at PARK. -/
def ballParked (s : State) (ball : Nat) : Bool :=
  !s.pins.mapped || inPark s ball || (match ownerDom (ownerOf s ball) with | some d => !domOn s d | none => true)

/-- The ball that a unique owner holds and that is not held at PARK. -/
def ownerBall (s : State) (o : Nat) : Option Nat :=
  match s.pins.owner.find? fun p => p.2 == o with
  | some p => if ballParked s p.1 then none else some p.1
  | none => none

/-- 18 Table 18-2: whether an owner is allowed on a ball. -/
def ownerAllowed (o ball : Nat) : Bool :=
  let gp := (gpOf ball).isSome
  if o = 0 then gp || ball == trefBall
  else if o = 1 ∨ o = 2 ∨ (0x10 ≤ o ∧ o ≤ 0x13) ∨ o = 0x18 ∨ o = 0x19 then gp
  else if o = 0x20 then ball == trefBall
  else if o = 0x21 then ball == gpBall 0
  else false

/-- An owner that only one ball may have. -/
def ownerUnique (o : Nat) : Bool := 0x10 ≤ o

/-- 18 R471. -/
def swappable (s : State) (ball : Nat) : Bool := (gpOf ball).isSome && ownerOf s ball != 0x21

/-- The inputs that an owner feeds from a ball: source and argument. -/
def fedBy (o : Nat) (ball : Nat) : List (Nat × Nat) :=
  if o = 1 then (match gpOf ball with | some n => [(3, n), (4, n)] | none => [])
  else if 0x10 ≤ o ∧ o ≤ 0x13 then [(8, o - 0x10)]
  else []

/-- 18 R472: a delivered PINSWAP. The answer says DETAIL when it completes BAD_ARG. -/
def pinswap (s : State) (ball o : Nat) : State × Option Nat :=
  if inPark s ball then (s, some 1)
  else if !swappable s ball ∨ !ownerAllowed o ball then (s, some 0)
  else if ownerUnique o ∧ s.pins.owner.any (fun p => p.2 == o && p.1 != ball) then (s, some 0)
  else if ownerUnique o ∧ s.pins.swaps.any (fun x => x.owner == o) then (s, some 0)
  else
    let s := (fedBy (ownerOf s ball) ball).foldl (fun s (src, arg) =>
      match inputIdx s src arg with | some i => stampStale s i 0 | none => s) s
    ({ s with pins := { s.pins with swaps := s.pins.swaps ++ [{ ball := ball, owner := o }] } }, none)

/-- 18 R472 step 3: the new owners take their balls. -/
def swapsEnd (s : State) : State :=
  { s with pins := { s.pins with
      owner := s.pins.swaps.foldl (fun m x => aset m x.ball x.owner) s.pins.owner
      swaps := [] } }

/-- 18 R468, R470: PINMAP is applied. -/
def pinmapApply (s : State) : State :=
  let b := secB s Ty.pinmap 0
  let ents := (List.range (u16 b 8)).map fun i => 0x80 + 8 * i
  { s with pins := { s.pins with
      mapped := true, swaps := []
      owner := ents.map fun a => (u16 b a, u8 b (a + 2))
      park := ents.map fun a => (u16 b a, u8 b (a + 3)) } }

/-! ### Samples (18 R475, R479, R480) -/

/-- 18 R479: a sample of input `i`. `ok` says that its converter, its conversion and its owner were good, `hold` that a hold-last run
holds it (12 R331). The answer holds the delivered value and whether it is a fallback value. -/
def guardSample (s : State) (i : Nat) (v : Int) (ok hold : Bool) : State × Int × Bool :=
  let b := inputsB s
  let x := lget s.pins.ins i {}
  if ok && !hold && decide (inLo b i ≤ v) && decide (v < inHi b i) then
    let s := if x.stale then { s with pins := { s.pins with
        evq := s.pins.evq ++ [{ idx := i, stamp := s.clk.cyc, val := 0, stale := true, ovr := false }] } } else s
    (modIn s i fun x => { x with val := v, valid := some v, fb := false, seen := true, stale := false }, v, false)
  else
    let d := if inFbMode b i = 1 ∧ !hold then inFbVal b i else x.valid.getD (inFbVal b i)
    (modIn s i fun x => { x with val := d, fb := true }, d, true)

/-- A sample of a source that feeds an input where the fold image gives it one; without one it is delivered as it came. -/
def sampleSrc (s : State) (src arg : Nat) (v : Int) (ok hold : Bool) : State × Int × Bool :=
  match inputIdx s src arg with
  | some i => guardSample s i v ok hold
  | none => (s, v, !ok || hold)

/-- 12 R328: a raw code trimmed by entry `k` of the trims in force (sense channels 0 to 11, then drive channels). -/
def trim (s : State) (k a : Nat) : Nat :=
  (clampI 0 65535 (32768 + asr (((a : Int) - 32768 - lget s.cal.ofs k 0) * (lget s.cal.gain k 0x8000 : Nat)) 15)).toNat

/-- The domain of a sense channel's converter. -/
def snsDom (ch : Nat) : Nat := if ch < 6 then 60 else 61

/-- The domain of a drive channel's converter. -/
def drvDom (ch : Nat) : Nat := if ch < 4 then 62 else 63

/-- 12 R331: a hold-last run holds sense channel `ch`. -/
def snsHeld (s : State) (ch : Nat) : Bool :=
  s.cal.run.st == 1 && (s.cal.run.code == 1 || s.cal.run.code == 2) && s.cal.run.target == ch

/-- 12 R331: DRVCAL holds drive channel `ch`. -/
def drvHeld (s : State) (ch : Nat) : Bool := s.cal.run.st == 1 && s.cal.run.code == 3 && s.cal.run.target == ch

/-- 18 Table 18-5: what a boundary sample of input `i` takes from outside, and whether it is good. -/
def boundaryValue (s : State) (b : BoundaryIn) (i : Nat) : Int × Bool × Bool :=
  let t := inputsB s
  let arg := inArg t i
  match inSrc t i with
  | 0x02 => (sgn 32 (domMask s), true, false)
  | 0x04 => (b2n (bitAt s.pins.gpin arg), !ballParked s (gpBall arg) && ownerOf s (gpBall arg) == 1, false)
  | 0x06 =>
    match b.tsns.find? fun p => p.1 == arg with
    | some p => (asr (((trim s arg p.2 : Nat) - 32768 : Int) * inAux t i) 16, domOn s (snsDom arg), snsHeld s arg)
    | none => (0, false, snsHeld s arg)
  | _ => (b.die + tsOfs s, true, false)

/-- Boundary samples of Table 18-5. -/
def inIsBoundary (src : Nat) : Bool := [0x02, 0x04, 0x06, 0x07].contains src

/-- 18 R475, R479: every boundary sample is taken. DOMAINS has no range. -/
def boundarySamples (s : State) (b : BoundaryIn) : State :=
  (List.range (nIn (inputsB s))).foldl (fun s i =>
    let src := inSrc (inputsB s) i
    if !inIsBoundary src then s
    else
      let (v, ok, hold) := boundaryValue s b i
      if src = 2 then modIn s i fun x => { x with val := v, valid := some v, fb := false, seen := true }
      else (guardSample s i v ok hold).1) s

/-- 18 R480: the ticks since the last valid sample or event, counted at a boundary. -/
def ageInputs (s : State) : State :=
  { s with pins := { s.pins with ins := s.pins.ins.map fun x =>
      { x with age := if x.seen then 0 else satAdd 65535 x.age 1, seen := false, count := 0 } } }

/-- 18 R480: whether input `i` is to be stamped STALE now. -/
def staleDue (s : State) (i : Nat) : Bool :=
  let b := inputsB s
  let x := lget s.pins.ins i {}
  let n := if inIsEvent (inSrc b i) then x.age else if x.seen || !x.fb then 0 else x.age + 1
  decide (i < nIn b) && inFresh b i != 0 && !x.stale && decide (inFresh b i ≤ n)

/-- Inputs that are to be stamped STALE and that no STALE command has stamped by the end of the tick. -/
def staleRest (s : State) : State :=
  (idxWhere (nIn (inputsB s)) fun i => staleDue s i && !(inIsEvent (inSrc (inputsB s) i) && (lget s.pins.ins i {}).seen)).foldl
    (fun s i => stampStale s i 0) s

/-- The events of a tick in order of delivery (00 R16, R17). -/
def deliverOrder (l : List Ev) : List Ev :=
  l.mergeSort fun x y => decide (x.stamp < y.stamp ∨ (x.stamp = y.stamp ∧ x.idx ≤ y.idx))

/-- 00 R16: the events that a tick of `len` cycles delivers; one stamped exactly at its end belongs to the next tick. -/
def evsBefore (len : Nat) (l : List Ev) : List Ev := l.filter fun e => decide (e.stamp < len)

/-- The events that belong to the next tick, by their stamps there. -/
def evsAfter (len : Nat) (l : List Ev) : List Ev := (l.filter fun e => decide (len ≤ e.stamp)).map fun e => { e with stamp := e.stamp - len }

/-- The low word of the value that an event delivers (18 R486): S of a crossing, otherwise its value. -/
def evLow (s : State) (e : Ev) : Int := if inSrc (inputsB s) e.idx = 8 then e.stamp else e.val

/-- The delivered events leave the guard, and each input shows its last value (18 R486). The tick that ends is the chip's own, of CLK_TICK's
length. -/
def deliverEvents (s : State) (evs : List Ev) : State :=
  let s := evs.foldl (fun s e => if e.stale then s else modIn s e.idx fun x => { x with val := evLow s e }) s
  { s with pins := { s.pins with evq := evsAfter s.clk.len s.pins.evq, evcnt := min 8191 evs.length } }

/-- 18 R480: a machine that a bundle feeds counts freshness by the events that it is given. -/
def followEvents (s : State) (evs : List Ev) : State :=
  evs.foldl (fun s e => modIn s e.idx fun x => if e.stale then { x with stale := e.val != 0 } else { x with age := 0 }) s

/-- An entry of the mailbox as an event of its input: the low word of the entry is the value that SYS_IGVAL shows. -/
def mboxEv (i : Nat) (m : MboxEntry) : Ev := { idx := i, stamp := m.stamp, val := sgn 32 (lget m.w 0 0), stale := false, ovr := false }

/-- 04 R108, 18 R478: an entry is an event of the MAILBOX input `i`, at its own cycle. Past MAXEV it is dropped, a HOTAPPLY with its lock. -/
def mboxEvent (i : Nat) (s : State) (m : MboxEntry) : State :=
  let full := decide (inMaxEv (inputsB s) i ≤ (lget s.pins.ins i {}).count)
  let s := stampEvAt s i (mboxEv i m).val m.stamp
  if full then
    { s with
      tsq := { s.tsq with mbox := s.tsq.mbox.filter (· != m) }
      fld := { s.fld with applyPend := s.fld.applyPend - b2n (bits (lget m.w 0 0) 31 24 == 2) } }
  else s

/-- The entries that the tick that ends delivers reach the guard. -/
def mboxEvents (s : State) : State :=
  match inputIdx s 1 0 with
  | some i => (s.tsq.mbox.filter fun m => decide (m.stamp < s.clk.len)).foldl (mboxEvent i) s
  | none => s

/-- The delivered events of a source: argument, stamp and value, in order. -/
def eventsOf (s : State) (evs : List Ev) (src : Nat) : List (Nat × Nat × Int) :=
  let b := inputsB s
  evs.filterMap fun e => if inSrc b e.idx = src ∧ e.stale = false then some (inArg b e.idx, e.stamp, e.val) else none

/-! ### Commands (18 R477, R480) -/

/-- A new recognised level of GP line `n`: SYS_GPIN and GPLEVEL inputs see it, and a GPEDGE input stamps it. A ball held at PARK, or
one that GPIN does not own, brings nothing. -/
def gpLevel (s : State) (n : Nat) (hi : Bool) : State :=
  if n < 32 ∧ ownerOf s (gpBall n) = 1 ∧ !ballParked s (gpBall n) ∧ bitAt s.pins.gpin n ≠ hi then
    let s := { s with pins := { s.pins with gpin := setBit s.pins.gpin n hi } }
    srcEvent s 3 n (b2n hi)
  else s

/-- 18 R477: an event on an input that a GP line feeds, or (512 + n) on GP line n with no input of its own. Events of the other
sources come about inside their own commands. -/
def inputEvent (s : State) (idx : Nat) (v : Int) : State :=
  let b := inputsB s
  if 512 ≤ idx then gpLevel s (idx - 512) (v % 2 == 1)
  else if idx < nIn b ∧ (inSrc b idx = 3 ∨ inSrc b idx = 4) then gpLevel s (inArg b idx) (v % 2 == 1)
  else s

/-! ### SYS pin registers (18 R486, R487) -/

/-- The schedule-produced registers as they stood at the last boundary, the others live. Only a GP ball and TREF_IN
are ever held at PARK (R470). -/
def pinsRead (s : State) (off : Nat) : Nat :=
  let z := s.shown.pins
  match off with
  | 0x200 => s.boot.straps
  | 0x204 => s.boot.count * 256 + s.boot.cause
  | 0x20C => s.boot.step * 2 ^ 28 + b2n s.boot.fallback * 2 ^ 27 + s.boot.ms
  | 0x210 => maskOf (idxWhere 32 fun n => bitAt s.pins.gpin n && ownerOf s (gpBall n) == 1)
  | 0x21C =>
    let ball := rwGet s (Base.sys + 0x218) 0
    let sh := { s with pins := z }
    let own := alook z.owner ball
    b2n (((gpOf ball).isSome || ball == trefBall) && ballParked sh ball) * 2 ^ 31 + b2n (swappable sh ball) * 2 ^ 30 + own * 2 ^ 16 + alookD z.park ball 2
  | 0x224 =>
    let x := lget z.ins (rwGet s (Base.sys + 0x220) 0) {}
    b2n x.stale * 2 ^ 31 + b2n x.fb * 2 ^ 30 + x.drops
  | 0x228 => pat 32 (lget z.ins (rwGet s (Base.sys + 0x220) 0) {}).val
  | 0x230 =>
    let r := rwGet s (Base.sys + 0x22C) 0
    b2n (regValid (inputsB s) r) * 2 ^ 31 + b2n (ahas z.front r) * 2 + alook z.front r % 2
  | 0x234 => z.evcnt
  | _ => 0

end Sys2Proof.Machine
end

