-- ==== Sys2Proof/Machine/Arcsine.lean ====
section
/-! DEFINITION. The arcsine table T of 08 R224: T[j] = round(2^24 × asin(j / 1024) / 2π) for j from 0 to 1024, worked out from that
formula. -/

namespace Sys2Proof.Machine

/-- T[0] to T[63]. -/
def asin0 : List Nat :=
  [0, 2608, 5215, 7823, 10430, 13038, 15646, 18253, 20861, 23469, 26076, 28684,
   31292, 33900, 36507, 39115, 41723, 44331, 46939, 49547, 52155, 54763, 57371, 59980,
   62588, 65196, 67805, 70413, 73022, 75630, 78239, 80848, 83457, 86066, 88675, 91284,
   93893, 96502, 99111, 101721, 104330, 106940, 109550, 112160, 114769, 117380, 119990, 122600,
   125210, 127821, 130432, 133042, 135653, 138264, 140875, 143487, 146098, 148710, 151321, 153933,
   156545, 159157, 161770, 164382]

/-- T[64] to T[127]. -/
def asin1 : List Nat :=
  [166995, 169608, 172221, 174834, 177447, 180060, 182674, 185288, 187902, 190516, 193130, 195745,
   198360, 200974, 203590, 206205, 208820, 211436, 214052, 216668, 219284, 221901, 224518, 227135,
   229752, 232369, 234987, 237605, 240223, 242841, 245459, 248078, 250697, 253316, 255936, 258556,
   261176, 263796, 266416, 269037, 271658, 274280, 276901, 279523, 282145, 284767, 287390, 290013,
   292636, 295260, 297883, 300507, 303132, 305756, 308381, 311006, 313632, 316258, 318884, 321510,
   324137, 326764, 329392, 332019]

/-- T[128] to T[191]. -/
def asin2 : List Nat :=
  [334647, 337276, 339905, 342534, 345163, 347793, 350423, 353053, 355684, 358315, 360946, 363578,
   366210, 368843, 371476, 374109, 376742, 379376, 382011, 384645, 387280, 389916, 392552, 395188,
   397825, 400462, 403099, 405737, 408375, 411013, 413652, 416292, 418932, 421572, 424213, 426854,
   429495, 432137, 434779, 437422, 440065, 442709, 445353, 447998, 450642, 453288, 455934, 458580,
   461227, 463874, 466522, 469170, 471818, 474468, 477117, 479767, 482418, 485069, 487720, 490372,
   493024, 495677, 498331, 500985]

/-- T[192] to T[255]. -/
def asin3 : List Nat :=
  [503639, 506294, 508949, 511605, 514262, 516919, 519576, 522234, 524893, 527552, 530212, 532872,
   535532, 538194, 540855, 543518, 546180, 548844, 551508, 554172, 556837, 559503, 562169, 564836,
   567503, 570171, 572840, 575509, 578178, 580849, 583519, 586191, 588863, 591535, 594209, 596882,
   599557, 602232, 604908, 607584, 610261, 612938, 615616, 618295, 620975, 623655, 626335, 629017,
   631699, 634381, 637065, 639749, 642433, 645118, 647804, 650491, 653178, 655866, 658555, 661244,
   663934, 666625, 669316, 672008]

/-- T[256] to T[319]. -/
def asin4 : List Nat :=
  [674701, 677394, 680089, 682783, 685479, 688175, 690872, 693570, 696269, 698968, 701668, 704368,
   707070, 709772, 712475, 715178, 717883, 720588, 723294, 726000, 728708, 731416, 734125, 736835,
   739545, 742257, 744969, 747682, 750395, 753110, 755825, 758541, 761258, 763976, 766694, 769413,
   772134, 774855, 777576, 780299, 783022, 785747, 788472, 791198, 793925, 796652, 799381, 802110,
   804841, 807572, 810304, 813037, 815770, 818505, 821241, 823977, 826714, 829453, 832192, 834932,
   837673, 840414, 843157, 845901]

/-- T[320] to T[383]. -/
def asin5 : List Nat :=
  [848645, 851391, 854138, 856885, 859633, 862383, 865133, 867884, 870636, 873389, 876143, 878898,
   881654, 884411, 887169, 889928, 892688, 895449, 898211, 900974, 903738, 906503, 909269, 912036,
   914804, 917573, 920343, 923114, 925886, 928659, 931433, 934208, 936985, 939762, 942540, 945320,
   948100, 950882, 953665, 956448, 959233, 962019, 964806, 967594, 970384, 973174, 975966, 978758,
   981552, 984347, 987143, 989940, 992738, 995537, 998338, 1001140, 1003942, 1006746, 1009552, 1012358,
   1015165, 1017974, 1020784, 1023595]

/-- T[384] to T[447]. -/
def asin6 : List Nat :=
  [1026407, 1029221, 1032036, 1034851, 1037668, 1040487, 1043306, 1046127, 1048949, 1051772, 1054597, 1057422,
   1060249, 1063078, 1065907, 1068738, 1071570, 1074403, 1077238, 1080074, 1082911, 1085749, 1088589, 1091430,
   1094272, 1097116, 1099961, 1102807, 1105655, 1108504, 1111354, 1114206, 1117059, 1119913, 1122769, 1125626,
   1128485, 1131344, 1134206, 1137068, 1139932, 1142798, 1145664, 1148533, 1151402, 1154273, 1157146, 1160020,
   1162895, 1165772, 1168650, 1171530, 1174411, 1177294, 1180178, 1183063, 1185950, 1188839, 1191729, 1194620,
   1197513, 1200408, 1203304, 1206201]

/-- T[448] to T[511]. -/
def asin7 : List Nat :=
  [1209100, 1212001, 1214903, 1217807, 1220712, 1223619, 1226527, 1229437, 1232349, 1235262, 1238176, 1241093,
   1244011, 1246930, 1249851, 1252774, 1255698, 1258624, 1261552, 1264481, 1267412, 1270344, 1273278, 1276214,
   1279152, 1282091, 1285032, 1287974, 1290919, 1293865, 1296812, 1299762, 1302713, 1305666, 1308620, 1311577,
   1314535, 1317495, 1320456, 1323420, 1326385, 1329352, 1332321, 1335291, 1338264, 1341238, 1344214, 1347192,
   1350171, 1353153, 1356136, 1359121, 1362108, 1365097, 1368088, 1371081, 1374075, 1377072, 1380070, 1383071,
   1386073, 1389077, 1392083, 1395091]

/-- T[512] to T[575]. -/
def asin8 : List Nat :=
  [1398101, 1401113, 1404127, 1407143, 1410161, 1413181, 1416203, 1419227, 1422253, 1425281, 1428311, 1431343,
   1434377, 1437413, 1440451, 1443491, 1446533, 1449578, 1452624, 1455673, 1458724, 1461776, 1464831, 1467889,
   1470948, 1474009, 1477073, 1480139, 1483206, 1486277, 1489349, 1492423, 1495500, 1498579, 1501660, 1504744,
   1507829, 1510917, 1514008, 1517100, 1520195, 1523292, 1526391, 1529493, 1532597, 1535703, 1538812, 1541923,
   1545037, 1548152, 1551271, 1554391, 1557514, 1560639, 1563767, 1566898, 1570030, 1573165, 1576303, 1579443,
   1582586, 1585731, 1588878, 1592028]

/-- T[576] to T[639]. -/
def asin9 : List Nat :=
  [1595181, 1598336, 1601494, 1604654, 1607817, 1610982, 1614150, 1617320, 1620494, 1623669, 1626848, 1630029,
   1633213, 1636399, 1639588, 1642780, 1645974, 1649171, 1652371, 1655574, 1658779, 1661987, 1665198, 1668412,
   1671628, 1674847, 1678069, 1681294, 1684522, 1687753, 1690986, 1694222, 1697462, 1700704, 1703949, 1707197,
   1710448, 1713701, 1716958, 1720218, 1723481, 1726747, 1730015, 1733287, 1736562, 1739840, 1743121, 1746405,
   1749692, 1752983, 1756276, 1759573, 1762872, 1766175, 1769481, 1772791, 1776103, 1779419, 1782738, 1786060,
   1789386, 1792714, 1796046, 1799382]

/-- T[640] to T[703]. -/
def asin10 : List Nat :=
  [1802721, 1806063, 1809408, 1812757, 1816109, 1819465, 1822824, 1826186, 1829552, 1832922, 1836294, 1839671,
   1843051, 1846434, 1849821, 1853212, 1856606, 1860004, 1863405, 1866810, 1870219, 1873631, 1877047, 1880467,
   1883890, 1887317, 1890748, 1894183, 1897622, 1901064, 1904510, 1907960, 1911414, 1914872, 1918334, 1921799,
   1925269, 1928743, 1932220, 1935702, 1939187, 1942677, 1946171, 1949668, 1953170, 1956676, 1960186, 1963701,
   1967219, 1970742, 1974269, 1977800, 1981336, 1984875, 1988419, 1991968, 1995521, 1999078, 2002639, 2006205,
   2009776, 2013351, 2016930, 2020514]

/-- T[704] to T[767]. -/
def asin11 : List Nat :=
  [2024103, 2027696, 2031294, 2034896, 2038503, 2042115, 2045731, 2049352, 2052978, 2056608, 2060244, 2063884,
   2067529, 2071179, 2074834, 2078493, 2082158, 2085828, 2089502, 2093182, 2096867, 2100557, 2104252, 2107952,
   2111657, 2115368, 2119083, 2122804, 2126531, 2130262, 2133999, 2137741, 2141489, 2145242, 2149001, 2152765,
   2156535, 2160310, 2164091, 2167878, 2171670, 2175468, 2179272, 2183081, 2186896, 2190717, 2194544, 2198377,
   2202216, 2206061, 2209912, 2213769, 2217631, 2221501, 2225376, 2229257, 2233145, 2237039, 2240939, 2244846,
   2248759, 2252678, 2256604, 2260537]

/-- T[768] to T[831]. -/
def asin12 : List Nat :=
  [2264476, 2268421, 2272374, 2276333, 2280298, 2284271, 2288250, 2292236, 2296229, 2300229, 2304236, 2308250,
   2312271, 2316299, 2320335, 2324377, 2328427, 2332484, 2336549, 2340621, 2344700, 2348787, 2352882, 2356984,
   2361094, 2365212, 2369337, 2373470, 2377612, 2381761, 2385918, 2390083, 2394256, 2398438, 2402628, 2406826,
   2411032, 2415247, 2419470, 2423702, 2427942, 2432191, 2436449, 2440716, 2444991, 2449276, 2453569, 2457871,
   2462183, 2466504, 2470834, 2475173, 2479522, 2483880, 2488248, 2492626, 2497013, 2501410, 2505817, 2510234,
   2514661, 2519098, 2523545, 2528002]

/-- T[832] to T[895]. -/
def asin13 : List Nat :=
  [2532470, 2536948, 2541437, 2545936, 2550447, 2554968, 2559499, 2564042, 2568596, 2573161, 2577737, 2582325,
   2586924, 2591535, 2596157, 2600791, 2605437, 2610095, 2614765, 2619447, 2624141, 2628848, 2633568, 2638300,
   2643045, 2647802, 2652573, 2657357, 2662154, 2666964, 2671788, 2676626, 2681477, 2686342, 2691221, 2696115,
   2701023, 2705945, 2710882, 2715833, 2720800, 2725781, 2730778, 2735790, 2740817, 2745861, 2750920, 2755995,
   2761086, 2766194, 2771318, 2776459, 2781617, 2786792, 2791984, 2797194, 2802421, 2807667, 2812930, 2818212,
   2823512, 2828831, 2834169, 2839526]

/-- T[896] to T[959]. -/
def asin14 : List Nat :=
  [2844902, 2850298, 2855714, 2861150, 2866607, 2872084, 2877582, 2883101, 2888641, 2894203, 2899788, 2905394,
   2911023, 2916675, 2922350, 2928048, 2933771, 2939517, 2945288, 2951084, 2956904, 2962751, 2968623, 2974521,
   2980446, 2986398, 2992378, 2998385, 3004421, 3010485, 3016578, 3022701, 3028855, 3035038, 3041253, 3047499,
   3053777, 3060088, 3066432, 3072810, 3079222, 3085669, 3092152, 3098670, 3105225, 3111818, 3118449, 3125119,
   3131829, 3138578, 3145369, 3152202, 3159078, 3165997, 3172961, 3179970, 3187026, 3194129, 3201280, 3208481,
   3215732, 3223035, 3230391, 3237801]

/-- T[960] to T[1023]. -/
def asin15 : List Nat :=
  [3245267, 3252788, 3260368, 3268008, 3275708, 3283471, 3291298, 3299191, 3307151, 3315181, 3323282, 3331456,
   3339706, 3348033, 3356441, 3364930, 3373505, 3382167, 3390920, 3399766, 3408709, 3417751, 3426898, 3436151,
   3445516, 3454996, 3464596, 3474321, 3484176, 3494166, 3504297, 3514576, 3525009, 3535604, 3546369, 3557311,
   3568442, 3579770, 3591307, 3603066, 3615059, 3627301, 3639810, 3652603, 3665701, 3679128, 3692910, 3707076,
   3721662, 3736708, 3752260, 3768375, 3785118, 3802570, 3820831, 3840025, 3860314, 3881911, 3905108, 3930326,
   3958215, 3989861, 4027391, 4076288]

/-- T[1024] to T[1024]. -/
def asin16 : List Nat :=
  [4194304]

/-- 08 R224: T. -/
def asinT : List Nat :=
  asin0 ++ asin1 ++ asin2 ++ asin3 ++ asin4 ++ asin5 ++ asin6 ++ asin7 ++ asin8 ++
    asin9 ++ asin10 ++ asin11 ++ asin12 ++ asin13 ++ asin14 ++ asin15 ++ asin16

end Sys2Proof.Machine
end

