-- ==== Sys2Proof/Machine/Colour.lean ====
section
/-! DEFINITION. The colour record and what is interpolated from it (11 R292 to R296), and the media curves (11 R299, R300). -/

namespace Sys2Proof.Machine

/-! ### ENGINE fields (08 R214) -/

def engB (s : State) (e : Nat) : Bytes := secB s Ty.engine e
def engKind (s : State) (e : Nat) : Nat := if hasSec s Ty.engine e then u8 (engB s e) 0 else 0
def engChans (s : State) (e : Nat) : Nat := u8 (engB s e) 1
/-- The role of channel n = 4e + c: 0 unused, 1 red, 2 green, 3 blue, 4 violet write. -/
def chanRole (s : State) (n : Nat) : Nat := u8 (engB s (n / 4)) (2 + n % 4)
def engCols (s : State) (e : Nat) : Nat := u16 (engB s e) 8
def engRows (s : State) (e : Nat) : Nat := u16 (engB s e) 0xA
def engTset (s : State) (e : Nat) : Nat := u16 (engB s e) 0xC
def fieldCh (s : State) (e f : Nat) : Nat := u8 (engB s e) (0x40 + 8 * f) % 4
def fieldInt (s : State) (e f : Nat) : Nat := u16 (engB s e) (0x42 + 8 * f)

/-- 09 R266: the engine that FALLBACK names. -/
def fallbackEng (s : State) : Nat := u8 (secB s Ty.fallback 0) 0x3E

/-- 01 Table 1-1: whether a role may emit on engine `e` in the running set. -/
def roleEmits (s : State) (e role : Nat) : Bool :=
  if s.tsq.run then
    match s.tsq.set with
    | 0 => role == 1 || role == 2 || role == 3
    | 1 => role == 4 || (role == 1 && engKind s e == 2)
    | _ => false
  else s.boot.fallback && e == fallbackEng s && (role == 1 || role == 2 || role == 3)

/-! ### The colour record (11 R292) -/

/-- The body of the colour record in use. -/
def colB (s : State) : Bytes := lget s.cal.live 0 []
def colSets (b : Bytes) : Nat := u8 b 0
def colTemp (b : Bytes) (t : Nat) : Int := i16 b (0x4C + 2 * t)
def colEntry (b : Bytes) (n t : Nat) : Nat := 0x80 + 96 * (colSets b * n + t)

/-- 11 R293: the band of a temperature and the weight in it. -/
def colBand (b : Bytes) (temp : Int) : Nat × Int :=
  let k := colSets b
  if temp < colTemp b 0 then (0, 0)
  else if k = 0 ∨ colTemp b (k - 1) ≤ temp then (k - 1, 0)
  else
    let t := ((List.range (k - 1)).find? fun t => colTemp b t ≤ temp && temp < colTemp b (t + 1)).getD 0
    (t, fdivI (65536 * (temp - colTemp b t)) (colTemp b (t + 1) - colTemp b t))

/-- 11 R293: a field between two sets. -/
def colMix (x y : Nat) (w : Int) : Nat := ((x : Int) + asr (((y : Int) - x) * w) 16).toNat

/-- The interpolated values of channel `n`, but for its balance. -/
def colChan (b : Bytes) (n : Nat) (bw : Nat × Int) : ColCh :=
  let p := colEntry b n bw.1
  let q := if bw.2 = 0 then p else colEntry b n (bw.1 + 1)
  { xc := colMix (u16 b (p + 2)) (u16 b (q + 2)) bw.2, yc := colMix (u16 b (p + 4)) (u16 b (q + 4)) bw.2,
    klm := colMix (u16 b (p + 6)) (u16 b (q + 6)) bw.2, gpd := colMix (u32 b (p + 8)) (u32 b (q + 8)) bw.2,
    pk := (List.range 17).map fun k => colMix (u32 b (p + 12 + 4 * k)) (u32 b (q + 12 + 4 * k)) bw.2 }

/-! ### A running PCURVE (12 R331, R332) -/

/-- The channel that a running PCURVE measures. -/
def pcRun (s : State) : Option Nat := if s.cal.run.st = 1 ∧ s.cal.run.code = 4 then some s.cal.run.target else none

/-- A PCURVE run interrupts engine `e`. -/
def pcEng (s : State) (e : Nat) : Bool := match pcRun s with | some n => n / 4 == e | none => false

/-- The intensity of its present slice: slice 0 settles at knot 1, slice k runs at knot k. -/
def pcLevel (s : State) : Nat := min 4095 (256 * max 1 (s.cal.run.active / 4))

/-- 12 Table 12-8: DUMPY of engine `e`. -/
def pcDumpY (s : State) (e : Nat) : Int := i16 (secB s Ty.calptr 0) (4 + 2 * e)

/-- 11 R296: BAL_n. A PCURVE run takes its channel's as 32 768 (12 R332). -/
def balance (s : State) (n : Nat) : Nat :=
  let b := colB s
  if pcRun s = some n then 32768 else
  let p := u8 b 2 + n / 4
  min 32768 (if ahas s.tsq.params p then bits (alook s.tsq.params p) (16 * (n % 4) + 15) (16 * (n % 4)) else u16 b (0x2C + 2 * n))

/-- 11 R293: the interpolation of one engine at the boundary. -/
def colEngine (s : State) (e : Nat) : State :=
  let b := colB s
  let i := u16 b (4 + 2 * e)
  let x := lget s.pins.ins i {}
  if i ≠ 0xFFFF ∧ x.fb then
    { s with lse := { s.lse with colStat := lmod s.lse.colStat e fun c => (true, c.2) } }
  else
    let bw := if i = 0xFFFF then (0, 0) else colBand b x.val
    { s with lse := { s.lse with
      colStat := lmod s.lse.colStat e fun _ => (false, bw.1, if i = 0xFFFF then 0 else x.val)
      col := s.lse.col.zipIdx.map fun (c, n) => if n / 4 = e then { colChan b n bw with bal := c.bal } else c } }

/-- 11 R293, R296, 12 R326: what a boundary does to the colour values. Without a record every power is 0. -/
def colourBoundary (s : State) : State :=
  let s := { s with lse := { s.lse with colWas := s.lse.col } }
  let s := if colSets (colB s) = 0 then { s with lse := { s.lse with col := List.replicate 16 {} } } else (List.range 4).foldl colEngine s
  { s with lse := { s.lse with col := s.lse.col.zipIdx.map fun (c, n) => { c with bal := balance s n } } }

/-- 11 R294: P₀(n, q). -/
def curve0 (c : ColCh) (q : Nat) : Nat :=
  let k := q / 256
  let a := lget c.pk k 0
  let z := lget c.pk (k + 1) 0
  ((a : Int) + fdivI (((z : Int) - a) * ((q - 256 * k : Nat) : Int)) ((min (256 * (k + 1)) 4095 - 256 * k : Nat) : Int)).toNat

/-- 11 R294: P(n, q) in µW. -/
def power (s : State) (n q : Nat) : Nat :=
  let c := lget s.lse.col n {}
  curve0 c q * c.bal / 2 ^ 15

/-- A signed 32-bit value, saturating. -/
def sat32i (x : Int) : Int := clampI (-2147483648) 2147483647 x

/-- 11 R295: the set point CAL gives the power loop of channel `n` at intensity `q`. -/
def calSetPoint (s : State) (n q : Nat) : Int := sat32i (asr (power s n q * (lget s.lse.col n {}).gpd : Nat) 16)

/-- 11 R312: what LSE_COLVAL shows for a value of LSE_COLSEL. -/
def colItem (c : ColCh) (item : Nat) : Nat :=
  match item with
  | 0 => c.xc
  | 1 => c.yc
  | 2 => c.klm
  | 3 => c.gpd
  | 21 => c.bal
  | 22 => curve0 c 4095
  | k => if k ≤ 20 then lget c.pk (k - 4) 0 else 0

/-- 11 R312: a write of LSE_COLSEL. -/
def colselWrite (s : State) (v : Nat) : State :=
  let s := rwPut s (Base.lse + 0x490) (bits v 12 8 * 256 + bits v 3 0)
  { s with lse := { s.lse with colVal := colItem (lget s.lse.colWas (bits v 3 0) {}) (bits v 12 8) % 2 ^ 32 } }

/-! ### Media profiles (11 R299, R300) -/

def mediaB (s : State) (i : Nat) : Bytes := secB s Ty.media i

/-- The points of a curve: dose, and contrast with the erase curve turned upside down. -/
def mediaCurve (b : Bytes) (write : Bool) : List (Nat × Nat) :=
  let o := if write then 0x80 else 0x280
  (List.range (u8 b (if write then 0x14 else 0x15))).map fun i =>
    let c := u16 b (o + 8 * i + 4)
    (u32 b (o + 8 * i), if write then c else 65535 - c)

/-- INV on a list of points that starts with the point below. -/
def invGo (c : Nat) : List (Nat × Nat) → Nat
  | [] => 0
  | [(d, _)] => d
  | (d, x) :: (d', x') :: r =>
    if x ≤ c ∧ c < x' then d + (d' - d) * (c - x) / (x' - x) else invGo c ((d', x') :: r)

/-- 11 R300: the dose at which a curve reaches contrast `c`. -/
def mediaInv (b : Bytes) (write : Bool) (c : Nat) : Nat :=
  let l := mediaCurve b write
  let c := if write then c else 65535 - c
  match l.head?, l.getLast? with
  | some (_, c0), some (dn, cn) => if c < c0 then 0 else if cn ≤ c then dn else invGo c l
  | _, _ => 0

end Sys2Proof.Machine
end

