-- ==== Sys2Proof/Machine/Walk.lean ====
section
/-! DEFINITION. The slot word and the walk of a schedule set (04 R98, R101, R102). -/

namespace Sys2Proof.Machine

/-! ### The common header (04 Table 4-1) -/

def swKind (w : Nat) : Nat := bits w 127 124
def swUnit (w : Nat) : Nat := bits w 123 118
def swRes (w : Nat) : Nat := bits w 117 115
def swSlot (w : Nat) : Nat := bits w 114 102
def swDeadline (w : Nat) : Nat := bits w 101 89
def swSpan (w : Nat) : Nat := bits w 88 81
def swFeedx (w : Nat) : Bool := bitAt w 80
def swEarly (w : Nat) : Bool := bitAt w 79
def swFinish (w : Nat) : Nat := bits w 76 64
def swPayload (w : Nat) : Nat := bits w 63 0

/-- Kinds 0x1 to 0x8 are actions. -/
def isAction (k : Nat) : Bool := 1 ≤ k && k ≤ 8

/-- The slot words of a SCHED body, in order. -/
def slotWords (b : Bytes) : List Nat := (chunks (schedWords b) 16 (b.drop 64)).map leNat

/-- What the branch conditions of a walk are evaluated from, fixed at the boundary (04 R101). -/
structure WalkEnv where
  /-- TC mod F. -/
  phase : Nat
  prev  : Nat
  age   : Nat
  fsp   : Nat
  param : Amap
  deriving DecidableEq, Repr

/-- Whether `v` lies in [lo, hi). -/
def inBand (v lo hi : Nat) : Bool := lo ≤ v && v < hi

/-- 04 Table 4-5: whether a BRANCH word is taken. -/
def branchTaken (e : WalkEnv) (p : Nat) : Bool :=
  let lo := bits p 47 37
  let hi := bits p 36 26
  let md := bits p 58 48
  let c := match bits p 63 60 with
    | 0 => true
    | 1 => inBand (if md = 0 then 0 else e.phase % md) lo hi
    | 2 => inBand e.prev lo hi
    | 3 => inBand e.age lo hi
    | 4 => inBand e.fsp lo hi
    | 5 => bitAt (alook e.param md) lo
    | _ => false
  c != bitAt p 59

/-- One thing that a walk passes. -/
inductive Item where
  | act (d : Disp)
  | ctl (c : Ctl)
  deriving DecidableEq, Repr

/-- The shift a loop gives to a slot field (04 R102). -/
def mkDisp (i w shift : Nat) (reps : List Nat) : Disp :=
  { word := i, kind := swKind w, unit := swUnit w, res := swRes w, slot := swSlot w + shift,
    deadline := if swDeadline w = 0 then 0 else swDeadline w + shift, span := swSpan w, feedx := swFeedx w,
    early := swEarly w, finish := swFinish w + shift, payload := swPayload w, reps := reps,
    done := false, overrun := false, late := false, held := false, endAt := 0 }

def mkCtl (i w shift : Nat) : Ctl :=
  let p := swPayload w
  { word := i, isWait := swKind w == 0xB, slot := swSlot w + shift, src := bits p 63 58, dst := bits p 57 52,
    mask := p, before := 0, done := false }

/-- A walk from word `i`, whose words are `ws`, until END. The answer says what it passed and whether END was reached. `fuel`
need only exceed the number of words. -/
def walkGo (e : WalkEnv) (fuel i : Nat) (ws : List Nat) (shift : Nat) (reps : List Nat) : List Item × Bool :=
  match fuel, ws with
  | 0, _ => ([], false)
  | _, [] => ([], false)
  | f + 1, w :: r =>
    let k := swKind w
    if k = 0xF then ([], true)
    else if k = 0xC then
      if branchTaken e (swPayload w) then
        let t := bits (swPayload w) 15 0
        walkGo e f t (r.drop (t - (i + 1))) shift reps
      else walkGo e f (i + 1) r shift reps
    else if k = 0xD then
      let p := swPayload w
      let body := bits p 63 56
      let items := (List.range (bits p 55 44)).flatMap fun n =>
        (walkGo e f (i + 1) (r.take body) (shift + n * bits p 43 31) (reps ++ [n])).1
      let rest := walkGo e f (i + 1 + body) (r.drop body) shift reps
      (items ++ rest.1, rest.2)
    else
      let rest := walkGo e f (i + 1) r shift reps
      if isAction k then (.act (mkDisp i w shift reps) :: rest.1, rest.2)
      else if k = 0xB ∨ k = 0xE then (.ctl (mkCtl i w shift) :: rest.1, rest.2)
      else rest

/-- The walk of a set from ENTRY. -/
def walkSet (e : WalkEnv) (b : Bytes) : List Item × Bool :=
  let ws := slotWords b
  walkGo e (ws.length + 1) (schedEntry b) (ws.drop (schedEntry b)) 0 []

/-- The dispatches of a walk, and its control words with the number of dispatches before each, after `n` others. -/
def splitItems (n : Nat) : List Item → List Disp × List Ctl
  | [] => ([], [])
  | .act d :: r => let q := splitItems (n + 1) r; (d :: q.1, q.2)
  | .ctl c :: r => let q := splitItems n r; (q.1, { c with before := n } :: q.2)

end Sys2Proof.Machine
end

