-- ==== Sys2Proof/Machine/Surface.lean ====
section
/-! DEFINITION. Surfaces and their fetch (09 R238 to R249, R266). -/

namespace Sys2Proof.Machine

def psoAt (s : State) (e : Nat) : PsoEng := lget s.pso.eng e {}
def modPso (s : State) (e : Nat) (f : PsoEng → PsoEng) : State := { s with pso := { s.pso with eng := lmod s.pso.eng e f } }
def lseAt (s : State) (e : Nat) : LseEng := lget s.lse.eng e {}
def modLse (s : State) (e : Nat) (f : LseEng → LseEng) : State := { s with lse := { s.lse with eng := lmod s.lse.eng e f } }

/-! ### Words that the schedule gives an engine -/

/-- The first slot word of a kind and unit, over all sets, that satisfies `p` on its payload (09 R244, R250: every FETCH, PUSH and
COMMIT word of an engine names the same things). -/
def wordOf (s : State) (kind unit : Nat) (p : Nat → Bool) : Option Nat :=
  ([0, 1, 2, 3].flatMap fun i => slotWords (secB s Ty.sched i)).find? fun w =>
    swKind w == kind && swUnit w == unit && p (swPayload w)

/-- The payload of an engine's FETCH words. -/
def fetchWord (s : State) (e : Nat) : Option Nat := (wordOf s 2 (5 + e) fun _ => true).map swPayload
def fetchSurf (p : Nat) : Nat := bits p 59 54
def fetchList (p : Nat) : Nat := bits p 53 48
def fetchFixed (p : Nat) : Bool := bitAt p 47
def fetchBlocks (p : Nat) : Nat := bits p 46 31

/-- Whether the running set holds a word of a kind and unit with operation `op` (any below 16 where `op` is 16). -/
def setHas (s : State) (set kind unit op : Nat) : Bool :=
  (slotWords (secB s Ty.sched set)).any fun w =>
    swKind w == kind && swUnit w == unit && (op == 16 || bits (swPayload w) 63 60 == op)

/-! ### The descriptor (09 R238) -/

structure Surf where
  base : Nat
  len : Nat
  d : Bytes
  deriving DecidableEq, Repr

def Surf.fmt (f : Surf) : Nat := u8 f.d 0
def Surf.layout (f : Surf) : Nat := u8 f.d 1
def Surf.rot (f : Surf) : Nat := u8 f.d 2 % 4
def Surf.mirror (f : Surf) : Bool := bitAt (u8 f.d 2) 2
def Surf.w (f : Surf) : Nat := u16 f.d 4
def Surf.h (f : Surf) : Nat := u16 f.d 6
def Surf.pitch (f : Surf) : Nat := u32 f.d 8
def Surf.dataoff (f : Surf) : Nat := u32 f.d 0xC
def Surf.indexoff (f : Surf) : Nat := u32 f.d 0x10
def Surf.orgx (f : Surf) : Int := i16 f.d 0x14
def Surf.orgy (f : Surf) : Int := i16 f.d 0x16

/-- 09 R239: bytes per stored pixel. -/
def Surf.bpp (f : Surf) : Nat := match f.fmt with | 1 => 1 | 2 => 2 | 3 => 4 | _ => 8

/-- Where the surface of an engine stands: the latched buffer, else the front buffer, of its region, as address and length (09 R238, R248). The
fallback surface is not staged and counts its offsets from the start of SRAM bank 0 (R266). -/
def surfPlace (s : State) (e : Nat) : Option (Nat × Nat) :=
  if s.boot.fallback then some (0x10000000, 0x100000)
  else (fetchWord s e).map fun p =>
    let b := inputsB s
    let r := fetchSurf p
    let x := psoAt s e
    let k := match (if x.mode = 1 then x.latch else x.platch) with
      | some (r', k) => if r' = r then k else alook s.pins.front r
      | none => alook s.pins.front r
    (regBase b r + k * regLen b r, regLen b r)

/-- The surface as its memory holds it. -/
def surfOf (s : State) (e : Nat) : Option Surf := (surfPlace s e).map fun p => { base := p.1, len := p.2, d := faRead s p.1 64 }

/-- An 8-bit component as 12 bits. -/
def wide8 (v : Nat) : Nat := v * 16 + v / 16

/-- Three components as one number. -/
def pack3 (r g b : Nat) : Nat := r + 4096 * g + 16777216 * b
def comp (px i : Nat) : Nat := px / 4096 ^ i % 4096

/-- 09 R239: the components of a stored pixel. -/
def decodePx (fmt v : Nat) : Nat :=
  match fmt with
  | 1 => let l := wide8 v; pack3 l l l
  | 2 => let l := v % 4096; pack3 l l l
  | 3 => pack3 (wide8 (v % 256)) (wide8 (v / 256 % 256)) (wide8 (v / 65536 % 256))
  | _ => pack3 (v % 4096) (v / 65536 % 4096) (v / 2 ^ 32 % 4096)

/-- 09 R240: the buffer offset of pixel (u, v) of a linear or tiled surface. -/
def Surf.off (f : Surf) (u v : Nat) : Nat :=
  if f.layout = 0 then f.dataoff + v * f.pitch + u * f.bpp
  else f.dataoff + (v / 16 * f.pitch + u / 16) * 256 * f.bpp + (v % 16 * 16 + u % 16) * f.bpp

/-- 09 R242: the surface point of output point (x, y). -/
def Surf.orient (f : Surf) (cols rows x y : Nat) : Int × Int :=
  let x1 : Int := if f.mirror then (cols : Int) - 1 - x else x
  let p : Int × Int := match f.rot with
    | 0 => (x1, y)
    | 1 => (y, (cols : Int) - 1 - x1)
    | 2 => ((cols : Int) - 1 - x1, (rows : Int) - 1 - y)
    | _ => ((rows : Int) - 1 - y, x1)
  (p.1 + f.orgx, p.2 + f.orgy)

/-- The surface point, where it lies inside. -/
def Surf.point (f : Surf) (cols rows x y : Nat) : Option (Nat × Nat) :=
  let (u, v) := f.orient cols rows x y
  if 0 ≤ u ∧ u < f.w ∧ 0 ≤ v ∧ v < f.h then some (u.toNat, v.toNat) else none

/-- What a surface is fetched for: its output extent, and whether for a raster (1) or a path (2). -/
structure Extent where
  cols : Nat
  rows : Nat
  /-- The parts of the output that are needed. -/
  boxes : List Rect
  lines : Nat
  deriving DecidableEq, Repr

/-- The greatest surface point that a part of the output needs, if it needs any. -/
def Surf.maxPoint (f : Surf) (x : Extent) (r : Rect) : Option (Nat × Nat) :=
  let a := f.orient x.cols x.rows r.x r.y
  let b := f.orient x.cols x.rows (r.x + r.w - 1) (r.y + r.h - 1)
  let u := min (max a.1 b.1) ((f.w : Int) - 1)
  let v := min (max a.2 b.2) ((f.h : Int) - 1)
  if u < 0 ∨ v < 0 ∨ (f.w : Int) ≤ min a.1 b.1 ∨ (f.h : Int) ≤ min a.2 b.2 then none else some (u.toNat, v.toNat)

/-- 09 R243: whether the descriptor holds for the demand. `engOk` is the value that ENGINE must have. -/
def Surf.ok (f : Surf) (x : Extent) (eng : Nat) : Bool :=
  1 ≤ f.fmt && f.fmt ≤ 4 && f.layout ≤ 2 && u8 f.d 2 < 8 && u8 f.d 3 == 0 && 1 ≤ f.w && f.w ≤ 8192 && 1 ≤ f.h && f.h ≤ 8192 &&
  f.dataoff % 64 == 0 && (f.layout == 2 || f.indexoff == 0) && zeroes f.d 0x18 38 && u8 f.d 0x3E == eng && u8 f.d 0x3F == 0 &&
  (if f.layout = 0 then f.pitch % 64 == 0 && decide (f.w * f.bpp ≤ f.pitch) else decide ((f.w + 15) / 16 ≤ f.pitch)) &&
  (x.lines != 1 || f.rot % 2 == 0) && (x.lines != 2 || f.rot == 0) &&
  x.boxes.all fun r => match f.maxPoint x r with
   | none => true
   | some (u, v) =>
     if f.layout = 2 then decide (f.indexoff + 4 * (v / 16 * f.pitch + u / 16) + 4 ≤ f.len) else decide (f.off u v + f.bpp ≤ f.len)

/-! ### NTC tiles (09 R241) -/

/-- Palette entries, index bits and record bytes of an NTC mode. -/
def ntcMode (m b : Nat) : Option (Nat × Nat × Nat) :=
  let r16 (n : Nat) := (n + 15) / 16 * 16
  match m with
  | 0 => some (0, 0, 256 * b)
  | 1 => some (1, 0, r16 b)
  | 2 => some (2, 1, r16 (2 * b) + 32)
  | 3 => some (4, 2, r16 (4 * b) + 64)
  | 4 => some (16, 4, r16 (16 * b) + 128)
  | _ => none

/-- A pixel and the buffer offsets of the bytes it came from; `g` reads n bytes at an offset, `bad` says an offset is poisoned. -/
def Surf.pixel (f : Surf) (g : Nat → Nat → Nat) (bad : Nat → Bool) (u v : Nat) : Nat × List Nat :=
  let b := f.bpp
  if f.layout < 2 then
    let o := f.off u v
    (if bad o then 0 else decodePx f.fmt (g o b), [o])
  else
    let io := f.indexoff + 4 * (v / 16 * f.pitch + u / 16)
    let ent := g io 4
    match ntcMode (ent / 2 ^ 28) b with
    | none => (0, [io])
    | some (n, k, size) =>
      let o := f.dataoff + 16 * (ent % 2 ^ 28)
      let i := v % 16 * 16 + u % 16
      if bad io ∨ f.len < o + size then (0, [io])
      else if n = 0 then (if bad (o + i * b) then 0 else decodePx f.fmt (g (o + i * b) b), [io, o + i * b])
      else
        let pal := (n * b + 15) / 16 * 16
        let bo := o + pal + i * k / 8
        let idx := if k = 0 then 0 else g bo 1 / 2 ^ (i * k % 8) % 2 ^ k
        let po := o + idx * b
        (if (k ≠ 0 ∧ bad bo) ∨ bad po then 0 else decodePx f.fmt (g po b), if k = 0 then [io, po] else [io, bo, po])

/-- Output points decoded in order: the pixels and the poisoned 64-byte lines they met. -/
def Surf.decode (f : Surf) (x : Extent) (ok : Bool) (g : Nat → Nat → Nat) (bad : Nat → Bool) (pts : List (Nat × Nat)) :
    List Nat × List Nat :=
  if !ok then (pts.map fun _ => 0, [])
  else
    let l := pts.map fun (px, py) => match f.point x.cols x.rows px py with
      | some (u, v) => f.pixel g bad u v
      | none => (0, [])
    (l.map (·.1), (((l.flatMap (·.2)).filter bad).map fun o => (f.base + o) / 64).eraseDups)

/-! ### The demand -/

/-- 09 R252: the bands of a list of rectangles: rectangle, first row and rows. -/
def bandsOf (l : List Rect) : List (Rect × Nat × Nat) :=
  l.flatMap fun r =>
    let n := 4096 / ((r.w + 7) / 8)
    (List.range (cdiv r.h n)).map fun i => (r, r.y + i * n, min n (r.h - i * n))

/-- Path elements (08 R227). -/
def pathBase (s : State) (e : Nat) : Nat :=
  let r := u8 (engB s e) 0x415
  fixedAddr s (regBase (inputsB s) r)
def elOp (b : Bytes) : Nat := u8 b 0
def elCh (b : Bytes) : Nat := u8 b 1
def elDirs (b : Bytes) : Nat := u8 b 2
def elSrc (b : Bytes) : Bool := bitAt (u8 b 3) 0
def elSeg (b : Bytes) : Nat := u16 b 4 % 4096
def elNper (b : Bytes) : Nat := u16 b 6
def elInt (b : Bytes) : Nat := u16 b 8 % 4096
def elNpix (b : Bytes) : Nat := u16 b 0xA
def elEta (b : Bytes) : Nat := u16 b 0x14
def elArea (b : Bytes) : Nat := u32 b 0x18

/-- How many sweeps of a period an element lights. -/
def elSweeps (b : Bytes) : Nat := bits (elDirs b) 0 0 + bits (elDirs b) 1 1

/-- The width of path line `k`, found by walking the elements from `i`; `done` periods of the first have been counted. -/
def pathCols (s : State) (base : Nat) : Nat → Nat → Nat → Nat → Option Nat
  | 0, _, _, _ => none
  | f + 1, i, done, k =>
    let b := faRead s (base + 32 * i) 32
    if elOp b = 0 ∨ 3 < elOp b ∨ 2048 ≤ i then none
    else
      let n := if elOp b = 2 ∧ elSrc b then (elNper b - done) * elSweeps b else 0
      if k < n then some (elNpix b) else pathCols s base f (i + 1) 0 (k - n)

/-- Whether the engine's LINES demand is a raster. -/
def isRaster (s : State) (e : Nat) : Bool := (psoAt s e).mode == 1

/-- The demand that the running set gives a scanner engine: 1 raster lines, 2 path lines; a set without light leaves it as it was. -/
def linesMode (s : State) (e : Nat) : Nat :=
  if setHas s s.tsq.set 4 (0xD + e) 1 then 1 else if setHas s s.tsq.set 4 (0xD + e) 2 then 2 else (psoAt s e).mode

/-- The next piece of an engine's demand: the extent of the surface and the output points, if any demand remains. -/
def nextPiece (s : State) (e : Nat) : Option (Extent × List (Nat × Nat)) :=
  let x := psoAt s e
  if s.boot.fallback ∨ engKind s e = 1 then
    match (bandsOf x.pend)[x.next]? with
    | none => none
    | some (r, y, h) =>
      some ({ cols := engCols s e, rows := engRows s e, boxes := x.pend, lines := 0 },
            (List.range h).flatMap fun j => (List.range r.w).map fun i => (r.x + i, y + j))
  else if engKind s e = 2 then
    if isRaster s e then
      let n := u16 (engB s e) 0x41C
      let rl := u16 (engB s e) 0x416
      if x.latch.isSome ∧ x.next < rl then
        some ({ cols := n, rows := rl, boxes := [{ x := 0, y := 0, w := n, h := rl }], lines := 1 }, (List.range n).map fun i => (i, x.next))
      else none
    else
      let l := lseAt s e
      if l.path ∧ !l.stopped then
        match pathCols s (pathBase s e) 4096 l.ptr (l.run.getD 0) (x.next - l.k) with
        | some n => some ({ cols := n, rows := x.next + 1, boxes := [{ x := 0, y := x.next, w := n, h := 1 }], lines := 2 }, (List.range n).map fun i => (i, x.next))
        | none => none
      else none
  else none

/-- 09 R247: FILL. -/
def fill (x : PsoEng) : Nat := x.rows.foldl (fun a r => a + r.px.length) 0

/-- 09 R247: the urgency level. -/
def urgency (s : State) (e : Nat) : Nat :=
  let x := psoAt s e
  if (nextPiece s e).isNone then 0
  else if x.waiting then 3
  else if x.wmhi ≤ fill x then 0
  else if x.wmlo ≤ fill x then 1 else 2

/-- A decoded piece enters the line buffer, with its poisoned lines counted (09 R249). -/
def pushRow (s : State) (e : Nat) (px : List Nat) (bad : Nat) : State :=
  modPso s e fun x => { x with
    rows := x.rows ++ [{ no := x.next, px := px, poison := decide (0 < bad) }]
    next := x.next + 1
    waiting := false
    poison := satAdd 65535 x.poison bad }

/-- 09 R243: what the demand as a whole asks of the surface: a raster's frame, the rectangles of a push, a line of a path. -/
def demandExtent (s : State) (e : Nat) : Extent :=
  if s.boot.fallback ∨ engKind s e = 1 then { cols := engCols s e, rows := engRows s e, boxes := (psoAt s e).pend, lines := 0 }
  else if isRaster s e then
    let n := u16 (engB s e) 0x41C
    let rl := u16 (engB s e) 0x416
    { cols := n, rows := rl, boxes := [{ x := 0, y := 0, w := n, h := rl }], lines := 1 }
  else match nextPiece s e with
    | some (x, _) => x
    | none => { cols := 1, rows := 1, boxes := [], lines := 2 }

/-- The value that a descriptor's ENGINE must have (09 Table 9-1). -/
def surfEng (s : State) (e : Nat) : Nat := if s.boot.fallback then e else 0

/-- 09 R243: BADSURF. -/
def badSurf (s : State) (e : Nat) : Bool :=
  match surfOf s e with
  | some f => engKind s e != 0 && !f.ok (demandExtent s e) (surfEng s e)
  | none => false

/-! ### The elastic path (09 R246, R247) -/

/-- Runs of lines [a, b] in rising order, joined where they meet. -/
def joinRuns (a b : Nat) : List (Nat × Nat) → List (Nat × Nat)
  | [] => [(a, b)]
  | (c, d) :: r => if c ≤ b + 1 then joinRuns a (max b d) r else (a, b) :: joinRuns c d r

/-- The whole 64-byte lines that hold some bytes, as ranges of addresses. -/
def lineRanges (l : List (Nat × Nat)) : List (Nat × Nat) :=
  match (l.map fun x => (x.1 / 64, (x.1 + x.2 - 1) / 64)).mergeSort fun x y => decide (x.1 ≤ y.1) with
  | [] => []
  | (a, b) :: r => (joinRuns a b r).map fun x => (64 * x.1, 64 * (x.2 + 1 - x.1))

/-- Bytes that have been read. -/
def haveAt (l : List (Nat × Bytes)) (a n : Nat) : Bytes :=
  match l.find? fun x => decide (x.1 ≤ a ∧ a < x.1 + x.2.length) with
  | some x => (x.2.drop (a - x.1)).take n
  | none => []

/-- The tile index entries of some points of an NTC surface. -/
def Surf.indexSpans (f : Surf) (pts : List (Nat × Nat)) : List (Nat × Nat) :=
  pts.map fun (u, v) => (f.base + f.indexoff + 4 * (v / 16 * f.pitch + u / 16), 4)

/-- The stored bytes of some points; `g` reads the surface's index. -/
def Surf.dataSpans (f : Surf) (g : Nat → Nat → Nat) (pts : List (Nat × Nat)) : List (Nat × Nat) :=
  pts.flatMap fun (u, v) =>
    if f.layout < 2 then [(f.base + f.off u v, f.bpp)]
    else
      let ent := g (f.indexoff + 4 * (v / 16 * f.pitch + u / 16)) 4
      let o := f.dataoff + 16 * (ent % 2 ^ 28)
      let i := v % 16 * 16 + u % 16
      match ntcMode (ent / 2 ^ 28) f.bpp with
      | none => []
      | some (n, k, size) =>
        if f.len < o + size then []
        else if n = 0 then [(f.base + o + i * f.bpp, f.bpp)]
        else (f.base + o, n * f.bpp) :: if k = 0 then [] else [(f.base + o + (n * f.bpp + 15) / 16 * 16 + i * k / 8, 1)]

/-- The reads of a stage of a piece, with the CLASS of the urgency level. -/
def fetchAsk (s : State) (e no stage : Nat) (l : List (Nat × Nat)) (have_ : List (Nat × Bytes)) (bad : List Nat) : State :=
  xferAdd s (12 + e) (.fetch e no stage l have_ bad) (l.flatMap fun x => cutReqs (12 + e) .read (psoAt s e).cls (x.2 / 256 + 2) x.1 x.2 [])

/-- Whether a piece of engine `e` is being read. The model reads one at a time (assumption log entry 147). -/
def fetchBusy (s : State) (e : Nat) : Bool :=
  s.fab.xfers.any fun x => match x.job with | .fetch e' _ _ _ _ _ => e' == e | _ => false

/-- The reads of engine `e` that are under way lose their purpose: their data is discarded when it comes. -/
def fetchDrop (s : State) (e : Nat) : State :=
  xferDrop s fun j => match j with | .fetch e' _ _ _ _ _ => e' == e | _ => false

/-- What follows once stage `stage` of piece `no` has been read: the next reads, or the decoded piece. -/
def fetchNext (s : State) (e no stage : Nat) (have_ : List (Nat × Bytes)) (bad : List Nat) : State :=
  match nextPiece s e, surfPlace s e with
  | some (x, pts), some (base, len) =>
    let f : Surf := { base := base, len := len, d := padTo 64 (haveAt have_ base 64) }
    let g (o n : Nat) : Nat := leNat (haveAt have_ (base + o) n)
    let ok := f.ok x (surfEng s e)
    let uv := pts.filterMap fun (px, py) => f.point x.cols x.rows px py
    let ask (st : Nat) (l : List (Nat × Nat)) : State :=
      if l.isEmpty then pushRow s e (f.decode x ok g (fun o => bad.contains ((base + o) / 64)) pts).1 bad.length
      else fetchAsk s e no st (lineRanges l) have_ bad
    if no ≠ (psoAt s e).next then s
    else if !ok ∨ 2 ≤ stage then ask 2 []
    else if stage = 0 ∧ f.layout = 2 then ask 1 (f.indexSpans uv)
    else ask 2 (f.dataSpans g uv)
  | _, _ => s

/-- The bytes of ranges, one after another, by range. -/
def splitRanges : List (Nat × Nat) → Bytes → List (Nat × Bytes)
  | [], _ => []
  | (a, n) :: r, b => (a, b.take n) :: splitRanges r (b.drop n)

/-- A stage of a fetch has been read. -/
def fetchDone (s : State) (x : Xfer) (e no stage : Nat) (at_ : List (Nat × Nat)) (have_ : List (Nat × Bytes)) (bad : List Nat) : State :=
  let q := at_.flatMap fun r => cutReqs (12 + e) .read 0 (r.2 / 256 + 2) r.1 r.2 []
  let l := x.bad.map fun (n, i) => ((q[n]?.map fun y => y.req.fa).getD 0) / 64 + i
  fetchNext s e no stage (have_ ++ splitRanges at_ x.data) ((bad ++ l).eraseDups)

/-- 09 R247: the CLASS with which the fetch units read now. -/
def fetchLevels (s : State) : State :=
  (List.range 4).foldl (fun s e =>
    let l := if (psoAt s e).go ∨ s.boot.fallback then urgency s e else 0
    if l = (psoAt s e).cls then s else modPso s e fun x => { x with cls := l }) s

/-- 09 R247: the fetch unit of engine `e` begins to read the next piece of its demand, if there is one and the buffer has room for it. -/
def fetchRead (s : State) (e : Nat) : State :=
  let s := fetchLevels s
  if (psoAt s e).cls = 0 ∨ fetchBusy s e ∨ !domOn s (28 + 3 * e) then s
  else
    match nextPiece s e, surfPlace s e with
    | some (_, pts), some (base, _) =>
      if 32768 < fill (psoAt s e) + pts.length then s else fetchAsk s e (psoAt s e).next 0 [(base, 64)] [] []
    | _, _ => s

/-! ### The fixed path (09 R245) -/

/-- The bytes of the next line of a linear surface, as the range of 64-byte lines that holds them: first offset and length. -/
def fixedRange (f : Surf) (x : Extent) (pts : List (Nat × Nat)) : Nat × Nat :=
  let offs := pts.filterMap fun (px, py) => (f.point x.cols x.rows px py).map fun (u, v) => f.off u v
  match offs.head? with
  | none => (0, 0)
  | some o =>
    let lo := (f.base + offs.foldl min o) / 64 * 64
    let hi := (f.base + offs.foldl max o + f.bpp + 63) / 64 * 64
    (lo, hi - lo)

/-- Whole lines are decoded from what has arrived, as far as it goes. -/
def fixedLines (s : State) (e : Nat) : Nat → State
  | 0 => s
  | n + 1 =>
    match nextPiece s e, surfOf s e with
    | some (x, pts), some f =>
      let p := psoAt s e
      let ok := f.ok x 0
      let (lo, len) := fixedRange f x pts
      if p.part.length < len ∨ 32768 < fill p + pts.length then s
      else
        let g (o k : Nat) : Nat := leNat ((p.part.drop (f.base + o - lo)).take k)
        let (px, l) := f.decode x ok g (fun o => p.partBad.contains ((f.base + o - lo) / 64)) pts
        let k := len / 64
        let s := modPso s e fun y => { y with
          part := y.part.drop len, partBad := (y.partBad.filter fun i => k ≤ i).map (· - k) }
        fixedLines (pushRow s e px l.length) e n
    | _, _ => s

/-- The lines that DRAM words have brought to a port under the tag that the word has come to, in [from, to) of MCLK, and the entries left. -/
def takeIn (port tag lo hi : Nat) (l : List (Nat × Nat × Nat × Bytes × Bool)) : List (Bytes × Bool) × List (Nat × Nat × Nat × Bytes × Bool) :=
  let mine (x : Nat × Nat × Nat × Bytes × Bool) : Bool := x.1 == port && x.2.1 == tag && decide (lo ≤ x.2.2.1 ∧ x.2.2.1 < hi)
  ((l.filter mine).map (·.2.2.2), l.filter fun x => !mine x)

/-- 09 R245: a fixed-path word takes the lines that have come to its port since its SLOT began and before its FINISH, tag by tag. -/
def takeLines (s : State) (e lo hi : Nat) : Nat → State
  | 0 => s
  | n + 1 =>
    let (l, rest) := takeIn (12 + e) (psoAt s e).tag lo hi s.dmc.bufIn
    if l.isEmpty then
      let t := (psoAt s e).tag + 1
      if (psoAt s e).taken ≠ 0 ∧ (takeIn (12 + e) t lo hi s.dmc.bufIn).1 ≠ [] then takeLines (modPso s e fun x => { x with tag := t }) e lo hi n else s
    else
      let s := { s with dmc := { s.dmc with bufIn := rest } }
      takeLines (modPso s e fun x => { x with
        part := x.part ++ l.flatMap (·.1), partBad := x.partBad ++ (idxWhere l.length fun i => (l[i]?.map (·.2)).getD false).map (· + x.part.length / 64)
        taken := x.taken + l.length }) e lo hi n

/-- A row that a consumer takes out of the buffer, or nothing; a row from poisoned lines degrades the tick (09 R249). -/
def takeRow (s : State) (e no : Nat) : Option (List Nat × State) :=
  match (psoAt s e).rows.find? fun r => r.no == no with
  | some r =>
    let s := modPso s e fun x => { x with rows := x.rows.filter fun y => no < y.no }
    some (r.px, if r.poison then degrade s 1 else s)
  | none => none

/-- A restart or an abort empties the buffer and begins the demand at piece `n`; responses to reads already issued are discarded when they come
(09 R251, R264). -/
def resetFetch (s : State) (e n : Nat) : State :=
  modPso (fetchDrop s e) e fun x => { x with rows := [], next := n, part := [], partBad := [], waiting := false }

/-- The surface region `r` is published: what was being read of its old front buffer is read anew (09 R246). -/
def surfPublished (s : State) (r : Nat) : State :=
  (List.range 4).foldl (fun s e =>
    if (fetchWord s e).map fetchSurf = some r ∧ (psoAt s e).latch.isNone ∧ (psoAt s e).platch.isNone then fetchDrop s e else s) s

end Sys2Proof.Machine
end

