-- ==== Sys2Proof/Machine/Light.lean ====
section
/-! DEFINITION. The mirror phase, sweeps, raster lines and vector paths, forced zeros, beam words and doses (08 R222 to R237; 09 R258,
R259, R264; 11 R303). -/

namespace Sys2Proof.Machine

/-! ### ENGINE fields of a scanner (08 Table 8-1) -/

def scPnom (s : State) (e : Nat) : Nat := u32 (engB s e) 0x404
def scPmin (s : State) (e : Nat) : Nat := u32 (engB s e) 0x408
def scPmax (s : State) (e : Nat) : Nat := u32 (engB s e) 0x40C
def scGph (s : State) (e : Nat) : Nat := u8 (engB s e) 0x410
def scGfr (s : State) (e : Nat) : Nat := u8 (engB s e) 0x411
def scPhtol (s : State) (e : Nat) : Nat := u16 (engB s e) 0x412
def scLockn (s : State) (e : Nat) : Nat := u8 (engB s e) 0x414
def scPathReg (s : State) (e : Nat) : Nat := u8 (engB s e) 0x415
def scLines (s : State) (e : Nat) : Nat := u16 (engB s e) 0x416
def scRy0 (s : State) (e : Nat) : Int := i16 (engB s e) 0x418
def scRy1 (s : State) (e : Nat) : Int := i16 (engB s e) 0x41A
def scXlo (s : State) (e : Nat) : Int := i16 (engB s e) 0x41E
def scXhi (s : State) (e : Nat) : Int := i16 (engB s e) 0x420
def scDirs (s : State) (e : Nat) : Nat := u8 (engB s e) 0x422

/-! ### The resonance tracker (08 R222, R223) -/

/-- What the tracker carries from edge to edge. -/
structure Track where
  m : Nat
  p : Int
  err : Int
  h : Int
  b : Int
  maxErr : Nat
  deriving DecidableEq, Repr

/-- The error of an edge stamped at cycle `st` against the nearest predicted value; the later one on a tie. -/
def trackErr (a p h : Int) (st : Nat) : Int :=
  let x := 256 * (st : Int) - a - h
  if p = 0 then x else x - p * Int.fdiv (2 * x + p) (2 * p)

/-- One edge: its stamp, whether it rises, and the length of the tick it fell in. -/
def trackEdge (s : State) (e : Nat) (a0 p0 : Int) (len : Nat) (t : Track) (ed : Nat × Bool) : Track :=
  let h : Int := if ed.2 then 0 else asr p0 1
  let err := if t.m = 0 then 0 else trackErr a0 p0 h ed.1
  { m := if err.natAbs ≤ 256 * scPhtol s e then min (t.m + 1) 255 else 0
    p := clampI (scPmin s e : Nat) (scPmax s e : Nat) (t.p + asr err (scGfr s e))
    err := err
    h := h
    b := (len : Int) - ed.1
    maxErr := max t.maxErr (min 65535 (err.natAbs / 256)) }

/-- 08 R223: the tracker of engine `e` at a boundary; `edges` are the edges of the tick that ends, which was `len` cycles long. -/
def trackEngine (s : State) (e len : Nat) (edges : List (Nat × Bool)) : State :=
  let x := lseAt s e
  let need : Int := if scPnom s e = 0 ∨ s.clk.rate = 0 then 0 else 2 * ((256 * 1000000000 / (s.clk.rate * scPnom s e) : Nat) : Int) - 2
  let m0 := if edges.isEmpty ∨ (edges.length : Int) < need then 0 else x.m
  let t := edges.foldl (trackEdge s e x.a x.p len) { m := m0, p := x.p, err := 0, h := 0, b := 0, maxErr := x.maxErr }
  modLse s e fun x => { x with
    m := t.m, p := t.p.toNat, maxErr := t.maxErr, edges := min 65535 edges.length
    a := if edges.isEmpty then x.a else -256 * t.b - t.h - t.err + asr t.err (scGph s e)
    err := if edges.isEmpty then x.err else clampI (-32768) 32767 (Int.tdiv t.err 256)
    lk := decide (scLockn s e ≤ t.m) }

/-! ### Sweep timing (08 R223 to R225) -/

/-- 08 R224: S(x) in units of 2^-24 of a period. -/
def phaseOf (x : Int) : Int :=
  let u := x.natAbs
  let j := u / 32
  let t (k : Nat) : Nat := asinT.getD k 4194304
  let v := t j + (t (j + 1) - t j) * (u % 32) / 32
  if x < 0 then -(v : Int) else v

/-- Four times the first instant of sweep `k` of engine `e`, in 1/256 ns: sweep 2m is the forward one of period m. -/
def sweepStart (x : LseEng) (k : Int) : Int := 4 * x.a + (2 * k - 1) * (x.p : Int)

/-- The first sweep that starts at cycle `c` or later. -/
def sweepFrom (x : LseEng) (c : Nat) : Int :=
  if x.p = 0 then 0 else - Int.fdiv (4 * x.a - (x.p : Int) - 1024 * (c : Int)) (2 * (x.p : Int))

/-- A time in 1/256 ns as a cycle. -/
def cycOf (t : Int) : Int := Int.fdiv (t + 128) 256

/-- When sweep `k` reaches position `pos` (Q1.15), as a cycle. -/
def reach (x : LseEng) (k pos : Int) : Int :=
  let base := x.a + Int.fdiv k 2 * (x.p : Int)
  let d := asr (phaseOf pos * (x.p : Int)) 24
  if k % 2 = 0 then cycOf (base + d) else cycOf (base + asr (x.p : Int) 1 - d)

/-- 08 R225: the spans of the `n` pixels of a window on sweep `k`, as first and last-but-one cycle. -/
def pixelSpans (x : LseEng) (k xlo xhi : Int) (n : Nat) : List (Int × Int) :=
  let at_ (i : Nat) : Int := reach x k (xlo + fdivI ((xhi - xlo) * (i : Int)) (n : Int))
  (List.range n).map fun i => let a := at_ i; let b := at_ (i + 1); (min a b, max a b)

/-! ### Where light is allowed (08 R231) -/

/-- The cycles of a tick outside the dark window and the guard band. -/
def openCycles (s : State) : List (Nat × Nat) :=
  [(0, darkStart s * 256), ((darkStart s + darkLen s) * 256, nSlot s * 256)]

/-- The same, cut at the first cycle of class X blanking. -/
def litCycles (s : State) : List (Nat × Nat) :=
  match s.tsq.blank with
  | none => openCycles s
  | some b => (openCycles s).map fun (x, y) => (min x b, min y b)

/-- The parts of [a, b) that lie in a list of ranges. -/
def cutTo (l : List (Nat × Nat)) (a b : Nat) : List (Nat × Nat) :=
  (l.map fun (x, y) => (max a x, min b y)).filter fun (x, y) => x < y

/-- How many cycles of [a, b) lie in a list of ranges. -/
def cover (l : List (Nat × Nat)) (a b : Nat) : Nat := (cutTo l a b).foldl (fun n (x, y) => n + (y - x)) 0

/-- 11 R234, 08 R234: the dose of an account in µJ/cm². -/
def doseOf (area e : Nat) : Nat := if area = 0 then 0 else min 0xFFFFFFFF (e / (area * 625000))
def writeDose (s : State) (seg : Nat) : Nat := doseOf (alook s.lse.area seg) (alook s.lse.wAcc seg)
def eraseDose (s : State) (seg : Nat) : Nat := doseOf (alook s.lse.area seg) (alook s.lse.eAcc seg)

/-- The doses as they were settled at the last boundary, with the areas of that boundary (00 R14, 11 R303). -/
def settledDose (s : State) (seg : Nat) (write : Bool) : Nat :=
  let l := s.shown.lse
  doseOf (alook l.area seg) (alook (if write then l.wAcc else l.eAcc) seg)

/-- 11 R303: whether write-verify lets light of the given phase onto a segment. -/
def wvGate (s : State) (seg : Nat) (write : Bool) : Bool :=
  s.lse.wv.any fun v => v.seg == seg && v.st == 1 && v.write == write && decide (settledDose s seg write < v.tgt)

/-- The account of a channel on a scanner engine: 1 write, 2 erase, 0 none (08 R232). -/
def acctOf (role : Nat) : Nat := if role = 4 then 1 else if role = 1 then 2 else 0

/-- 08 R231: what Table 8-4 and 11 R303 settle before a sweep is placed: whether the sweep of a channel may be lit at all. -/
def sweepOpen (s : State) (e n : Nat) (draw : Option Nat) : Bool :=
  let role := chanRole s n
  (lseAt s e).lk && domOn s (30 + 3 * e) && (role != 4 || s.tsq.set == 1) &&
    (match draw with
     | some seg => acctOf role == 0 || wvGate s seg (role == 4)
     | none => true)

/-! ### Emitting (08 R218, R225, R226, R228) -/

/-- A sweep's pixels as light: `qs` are the intensities, `draw` the path element that it belongs to. -/
def emitSweep (s : State) (e n : Nat) (k xlo xhi : Int) (qs : List Nat) (draw : Option Bytes) : State :=
  let x := lseAt s e
  let sp := if xlo < xhi then (pixelSpans x k xlo xhi qs.length).zip qs else []
  let sp := sp.filterMap fun ((a, b), q) => if 0 < b ∧ a < b then some (a.toNat, b.toNat, q) else none
  let isOpen := sweepOpen s e n (draw.map elSeg)
  let full := sp.foldl (fun t (a, b, _) => t + (b - a)) 0
  let lit := if isOpen then sp.foldl (fun t (a, b, _) => t + cover (openCycles s) a b) 0 else 0
  let acct := match draw with | some _ => acctOf (chanRole s n) | none => 0
  let new : List Span := if !isOpen then [] else sp.map fun (a, b, q) =>
    { chan := n, a := a, b := b, q := q, acct := acct, seg := (draw.map elSeg).getD 0, eta := (draw.map elEta).getD 0,
      puw := if acct = 0 then 0 else power s n q }
  let sh : List Show := if full = 0 then [] else
    [{ eng := e, a := (sp.map (·.1)).foldl min ((sp.head?.map (·.1)).getD 0), b := (sp.map (·.2.1)).foldl max 0, cut := decide ((lit : Nat) < (full : Nat)) }]
  { s with lse := { s.lse with spans := s.lse.spans ++ new, shows := s.lse.shows ++ sh } }

/-- The intensities of a line on a channel. -/
def lineInts (s : State) (n int : Nat) (px : List Nat) : List Nat :=
  let i := match chanRole s n with | 2 => 1 | 3 => 2 | _ => 0
  px.map fun p => int * comp p i / 4095

/-- A slow-axis set point that holds from time `t4` on (08 R229). -/
def setPoint (s : State) (e : Nat) (t4 v : Int) : State := modLse s e fun x => { x with sps := x.sps ++ [(t4, v)] }

/-- The set point as LSE has it at a time, periods that start then not yet counted. -/
def setPointAt (x : LseEng) (t4 : Int) : Int := x.sps.foldl (fun v (t, w) => if t < t4 then w else v) x.sp0

/-- FETCH_STARVE on engine `e` in slots `a` up to `b` of its LIGHT word, outside the dark window (09 R262). -/
def starveSlots (s : State) (e word a b : Nat) : State :=
  (List.range (b - a)).foldl (fun s i =>
    let sl := a + i
    if inDark s (256 * sl) then s else raiseStarve s (256 * sl) e (0xD + e) (some word)) s

/-- 08 R226, 09 R264: one sweep of a RASTER word. -/
def rasterSweep (s : State) (e : Nat) (w : LWin) : State :=
  let x := lseAt s e
  let dir := if w.next % 2 = 0 then 0 else 1
  if !(bitAt (scDirs s e) dir) ∨ scLines s e ≤ x.line ∨ x.abort then s
  else
    match takeRow s e x.line with
    | none =>
      let c := (cycOf (Int.fdiv (sweepStart x w.next) 4)).toNat
      let s := raiseStarve s c e (0xD + e) (some w.word)
      let s := modLse s e fun x => { x with abort := true }
      let s := { s with lse := { s.lse with shows := s.lse.shows ++ [{ eng := e, a := c, b := c, cut := true }] } }
      modPso (resetFetch s e (scLines s e)) e fun p => { p with aborts := satAdd 65535 p.aborts 1 }
    | some (px, s) =>
      let n := 4 * e + fieldCh s e w.field
      let s := emitSweep s e n w.next (scXlo s e) (scXhi s e) (lineInts s n (fieldInt s e w.field) px) none
      let l : Int := (x.line : Nat)
      let v := scRy0 s e + fdivI ((scRy1 s e - scRy0 s e) * l) (max (scLines s e - 1) 1 : Nat)
      modLse (setPoint s e (sweepStart x w.next) v) e fun x => { x with line := x.line + 1 }

/-- The element at `i` of the path buffer, if the buffer holds it. -/
def bufEl (x : LseEng) (i : Nat) : Option Bytes :=
  if x.bufAt ≤ i ∧ 32 * (i - x.bufAt) + 32 ≤ x.buf.length then some ((x.buf.drop (32 * (i - x.bufAt))).take 32) else none

/-- 08 R228: while no element runs, CLEAR elements take effect at cycle `c` and END stops the path. An OP above 3 stands for END
(assumption log entry 14). -/
def pathPass (c e : Nat) : Nat → State → State
  | 0, s => s
  | f + 1, s =>
    let x := lseAt s e
    if x.run.isSome ∨ x.stopped ∨ !x.path then s
    else if 2048 ≤ x.ptr then modLse s e fun x => { x with stopped := true }
    else
      match bufEl x x.ptr with
      | none => s
      | some b =>
        if elOp b = 3 then
          let s := { s with lse := { s.lse with clears := s.lse.clears ++ [(elSeg b, c)], area := aset s.lse.area (elSeg b) (elArea b) } }
          pathPass c e f (modLse s e fun x => { x with ptr := x.ptr + 1 })
        else if elOp b = 0 ∨ 3 < elOp b then modLse s e fun x => { x with stopped := true }
        else s

/-- Whether a line that a SRCLINE element needs for the period is absent. -/
def lineAbsent (s : State) (e : Nat) (b : Bytes) : Bool :=
  elOp b == 2 && elSrc b &&
    (List.range (elSweeps b)).any fun i => !((psoAt s e).rows.any fun r => r.no == (lseAt s e).k + i)

/-- The sweeps of one counted period of a DRAW element (08 R228). -/
def drawPeriod (s : State) (e : Nat) (k : Int) (b : Bytes) : State :=
  (List.range 2).foldl (fun s i =>
    if bitAt (elDirs b) i then
      let n := 4 * e + elCh b % 4
      if elSrc b then
        match takeRow s e (lseAt s e).k with
        | some (px, s) =>
          let s := emitSweep s e n (k + (i : Nat)) (i16 b 0xC) (i16 b 0xE) (lineInts s n (elInt b) px) (some b)
          modLse s e fun x => { x with k := x.k + 1 }
        | none => s
      else emitSweep s e n (k + (i : Nat)) (i16 b 0xC) (i16 b 0xE) (List.replicate (elNpix b) (elInt b)) (some b)
    else s) s

/-- One period of a VECTOR word whose forward sweep is `w.next` and which starts in the window (08 R228 to R230). The element that runs
may have counted its periods already, in which case nothing counts until it has ended. -/
def vectorPeriod (s : State) (e : Nat) (w : LWin) : State :=
  let x := lseAt s e
  let t4 := sweepStart x w.next
  let c := (cycOf (Int.fdiv t4 4)).toNat
  let s := if x.run.isNone then pathPass c e 2049 s else s
  let x := lseAt s e
  let starve (s : State) : State :=
    let s := starveSlots s e w.word (x.stall.getD (c / 256)) (c / 256 + 1)
    let s := modLse s e fun x => { x with stall := some (c / 256 + 1) }
    modPso s e fun p => { p with waiting := true }
  if x.stopped ∨ !x.path then s
  else
    match bufEl x x.ptr with
    | none => starve s
    | some b =>
      let n := x.run.getD 0
      if elNper b ≤ n then s
      else if lineAbsent s e b then starve s
      else
        let s := if x.run.isNone ∧ elOp b = 2 then { s with lse := { s.lse with area := aset s.lse.area (elSeg b) (elArea b) } } else s
        let s := modLse s e fun x => { x with run := some (n + 1), stall := none }
        let y0 := i16 b 0x10
        let v := y0 + Int.tdiv ((i16 b 0x12 - y0) * ((n + 1 : Nat) : Int)) (max 1 (elNper b) : Nat)
        let s := setPoint s e t4 v
        if elOp b = 2 then drawPeriod s e w.next b else s

/-- 08 R228: the running element has counted NPER periods and ends; what follows it is passed as far as a MOVE, a DRAW or END. -/
def elementEnd (s : State) (e : Nat) : State :=
  let x := lseAt s e
  match x.run, bufEl x x.ptr with
  | some n, some b =>
    if elNper b ≤ n then
      let c := match x.win with
        | some w => (cycOf (Int.fdiv (sweepStart x (- Int.fdiv (- w.next) 2 * 2)) 4)).toNat
        | none => s.clk.cyc
      pathPass (min c (nSlot s * 256)) e 2049 (modLse s e fun x => { x with run := none, ptr := x.ptr + 1 })
    else s
  | _, _ => s

/-- Whether the running element has counted all its periods. -/
def elementOver (s : State) (e : Nat) : Bool :=
  let x := lseAt s e
  match x.run, bufEl x x.ptr with
  | some n, some b => decide (elNper b ≤ n)
  | _, _ => false

/-- Periods that started while the element clock stood still raise FETCH_STARVE in each slot up to cycle `upTo` (08 R230, 09 R262). -/
def stallSlots (s : State) (e : Nat) (w : LWin) (upTo : Nat) : State :=
  match (lseAt s e).stall with
  | none => s
  | some a =>
    let b := min (upTo / 256 + 1) w.finish
    modLse (starveSlots s e w.word a b) e fun x => { x with stall := some (max a b) }

/-- The sweeps of the open window of engine `e` that start before cycle `upTo`, one by one. `ends` elements may end on the way; a
window whose FINISH has come closes. -/
def lightRun (e upTo : Nat) : Nat → Nat → State → State
  | 0, _, s => s
  | f + 1, ends, s =>
    let x := lseAt s e
    match x.win with
    | none => s
    | some w =>
      if elementOver s e ∧ 0 < ends then lightRun e upTo f (ends - 1) (elementEnd s e)
      else if elementOver s e then s
      else
        let t4 := sweepStart x w.next
        let stop := min upTo (w.finish * 256)
        if x.p = 0 ∨ 1024 * (stop : Int) ≤ t4 then
          let s := if x.stall.isSome then stallSlots s e w (stop - 1) else s
          if w.finish * 256 ≤ upTo then modLse s e fun x => { x with win := none, stall := none } else s
        else
          let c := Int.fdiv t4 1024
          let s := if w.op = 1 then rasterSweep s e w
                   else if w.next % 2 = 0 ∧ x.lk ∧ !(0 ≤ c && inDark s c.toNat) then vectorPeriod s e w
                   else s
          lightRun e upTo f ends (modLse s e fun x => { x with win := x.win.map fun w => { w with next := w.next + 1 } })

/-- How many steps `lightRun` takes at most in one tick: sweeps and element ends. -/
def lightFuel : Nat := 16384

/-- The sweeps of engine `e` up to the present cycle. -/
def lightNow (s : State) (e : Nat) : State := lightRun e s.clk.cyc lightFuel 0 s

/-- 08 R230: the buffer is refilled with fixed reads through port 16 at the first cycle of a VECTOR word. -/
def refill (s : State) (e word : Nat) : State :=
  let x := lseAt s e
  if x.path ∧ !x.stopped then
    let n := min 32 (2048 - x.ptr)
    let b := inputsB s
    let fa := fixedAddr s (regBase b (scPathReg s e)) + 32 * x.ptr
    let (s, data, _) := fixedGet s (0xD + e) (some word) fa (32 * n)
    modLse s e fun x => { x with bufAt := x.ptr, buf := data, stall := none }
  else s

/-- 12 R332: while PCURVE interrupts the engine, its window carries the calibration light in an active tick and nothing otherwise;
no raster line and no path period counts. -/
def pcurveWin (s : State) (e : Nat) (d : Disp) : State :=
  let n := s.cal.run.target
  if s.cal.run.inTick && sweepOpen s e n none then
    let a := 256 * d.slot
    let b := 256 * d.finish
    let sp : Span := { chan := n, a := a, b := b, q := pcLevel s, acct := 0, seg := 0, puw := 0, eta := 0 }
    { s with lse := { s.lse with
        spans := s.lse.spans ++ [sp]
        shows := s.lse.shows ++ [{ eng := e, a := a, b := b, cut := decide (cover (openCycles s) a b < b - a) }] } }
  else s

/-- A RASTER or VECTOR word opens its window; one that is still open runs to its end first. -/
def openWin (s : State) (e op : Nat) (d : Disp) : State :=
  let s := lightRun e s.clk.cyc lightFuel lightFuel s
  let s := if op = 2 then refill s e d.word else s
  let w : LWin := { word := d.word, op := op, field := bits d.payload 59 56, slot := d.slot, finish := d.finish,
                    next := sweepFrom (lseAt s e) (256 * d.slot) }
  let w := if op = 2 then { w with next := - Int.fdiv (- w.next) 2 * 2 } else w
  if pcEng s e then pcurveWin s e d else modLse s e fun x => { x with win := some w }

/-- A FIELD word's light start and length (08 R218). -/
def fieldStart (d : Disp) : Nat := 256 * d.slot + bits d.payload 49 36
def fieldLen (d : Disp) : Nat := bits d.payload 35 15

/-- 08 R218: a FIELD word's light. -/
def fieldLight (s : State) (e : Nat) (d : Disp) : State :=
  let f := bits d.payload 59 56
  let st := fieldStart d
  let len := fieldLen d
  let n := 4 * e + fieldCh s e f
  let cut := decide (cover (openCycles s) st (st + len) < len) || !domOn s (30 + 3 * e)
  let sp : Span := { chan := n, a := st, b := st + len, q := fieldInt s e f, acct := 0, seg := 0, puw := 0, eta := 0 }
  { s with lse := { s.lse with
      spans := if domOn s (30 + 3 * e) then s.lse.spans ++ [sp] else s.lse.spans
      shows := s.lse.shows ++ [{ eng := e, a := st, b := st + len, cut := cut }] } }

/-! ### Intensity and beam words (08 R231; 09 R258, R259) -/

/-- LSE's intensity of channel `n` at a cycle of the running tick, after every forced zero. -/
def intensityAt (s : State) (n c : Nat) : Nat :=
  if cover (litCycles s) c (c + 1) = 0 then 0
  else match s.lse.spans.find? fun p => p.chan == n && decide (p.a ≤ c) && decide (c < p.b) with
    | some p => p.q
    | none => 0

/-- The entries of a list of levels that differ from the one before, which was `v`. -/
def realChanges (v : Nat) : List (Nat × Nat) → List (Nat × Nat)
  | [] => []
  | (c, w) :: r => if w = v then realChanges v r else (c, w) :: realChanges w r

/-- The level changes of a channel in the running tick: cycle and level, in order. -/
def laneChanges (s : State) (n : Nat) : List (Nat × Nat) :=
  let lit := (s.lse.spans.filter fun p => p.chan == n).flatMap fun p => (cutTo (litCycles s) p.a p.b).map fun (a, b) => (a, b, p.q)
  let sorted := lit.mergeSort fun x y => decide (x.1 ≤ y.1)
  let go := sorted.foldl (fun (acc : List (Nat × Nat) × Nat) (x : Nat × Nat × Nat) =>
    let l := if acc.2 < x.1 ∧ acc.1 ≠ [] then (acc.2, 0) :: acc.1 else acc.1
    ((x.1, x.2.2) :: l, x.2.1)) ([], 0)
  realChanges 0 (if go.1 = [] then [] else (go.2, 0) :: go.1).reverse

/-- The MCLK count at which the running tick started, which sets the grid of beam words. -/
def gridAt (s : State) : Nat := s.clk.mclk - s.clk.cyc

/-- 09 R259: of several changes in one word period only the last is sent. -/
def sentChanges (s : State) (n : Nat) : List (Nat × Nat) :=
  let g := gridAt s
  ((laneChanges s n).foldl (fun acc (c, v) =>
    match acc with
    | (c', v') :: r => if (c' + g) / 4 = (c + g) / 4 then (c, v) :: r else (c, v) :: (c', v') :: r
    | [] => [(c, v)]) []).reverse

/-- The level that the beam words of channel `n` send at a cycle. -/
def sentAt (s : State) (n c : Nat) : Nat := (sentChanges s n).foldl (fun v (x, w) => if x ≤ c then w else v) 0

/-- Whether a number has an odd count of ones in its low 16 bits. -/
def oddOnes (v : Nat) : Bool := ((List.range 16).filter (bitAt v)).length % 2 == 1

/-- 09 R258, R259: the beam word of channel `n` whose period starts at MCLK count `t`, a multiple of 4 in the running tick. -/
def beamWord (s : State) (n t : Nat) : Nat :=
  let c := t - gridAt s
  match (psoAt s (n / 4)).laneAt with
  | none => 0
  | some at_ =>
    let k := (t - (at_ + 3) / 4 * 4) / 4
    let ch := if gridAt s ≤ t then (sentChanges s n).filter fun (x, _) => c ≤ x && x < c + 4 else []
    let ofs := match ch.getLast? with | some (x, _) => x - c | none => 0
    let int := if gridAt s ≤ t then sentAt s n (c + 3) else 0
    let w := if k < 256 then 2 ^ 13 else ofs * 2 ^ 14 + (if k % 64 = 0 then 2 ^ 13 else 0) + int
    if oddOnes w then w + 2 ^ 12 else w

/-- 09 R260, R261: the beam word on the ball of lane `n` in the word period that starts at MCLK count `t`: the internal one of 24 cycles before.
The ball is high-impedance while the port's domain is off. In the first 24 cycles of a tick the word is one of the guard band before, which
is dark (08 R231). -/
def laneBall (s : State) (n t : Nat) : Option Nat :=
  if domOn s (30 + 3 * (n / 4)) && (psoAt s (n / 4)).laneAt.isSome then some (beamWord s n (t - 24)) else none

/-! ### Settling a tick (08 R232 to R234) -/

/-- The ranges of cycles in which enable `n` was high, from its level at the start and its transitions, in a tick of `len` cycles. -/
def highRanges (n len : Nat) (at0 : Bool) (ev : List (Nat × Nat × Bool)) : List (Nat × Nat) :=
  let go := (ev.filter fun x => x.1 == n).foldl (fun (a : List (Nat × Nat) × Bool × Nat) x =>
    if x.2.2 = a.2.1 then a
    else if a.2.1 then ((a.2.2, x.2.1) :: a.1, false, x.2.1)
    else (a.1, true, x.2.1)) ([], at0, 0)
  if go.2.1 then (go.2.2, len) :: go.1 else go.1

/-- Whether enable `n` was high at a cycle. -/
def lenHigh (at0 : Nat) (ev : List (Nat × Nat × Bool)) (n c : Nat) : Bool :=
  ev.foldl (fun v x => if x.1 = n ∧ x.2.1 ≤ c then x.2.2 else v) (bitAt at0 n)

/-- The ranges before `stop` in which the beam words of a channel send level `q`: they send level `v` from cycle `a` on, and then change. -/
def levelRanges (q stop v a : Nat) : List (Nat × Nat) → List (Nat × Nat)
  | [] => if v = q then [(a, stop)] else []
  | (c, w) :: r => if v = q then (a, c) :: levelRanges q stop w c r else levelRanges q stop w c r

/-- The cycles that two lists of ranges share. -/
def both (l m : List (Nat × Nat)) : List (Nat × Nat) := l.flatMap fun (a, b) => cutTo m a b

/-- 08 R232: the energy of one accounted span: the cycles at its level while nothing forced zero and the enable was high. -/
def spanEnergy (p : Span) (from_ stop : Nat) (sent lit high : List (Nat × Nat)) : Nat :=
  let l := both (both (cutTo (levelRanges p.q stop 0 0 sent) (max p.a from_) p.b) lit) high
  let tau := l.foldl (fun t (a, b) => t + (b - a)) 0
  p.puw * tau * p.eta / 65536

/-- 64-bit accounts saturate. -/
def addAcct (m : Amap) (seg e : Nat) : Amap := if e = 0 then m else aset m seg (min (2 ^ 64 - 1) (alook m seg + e))

/-- 08 R228, R232, R233: the energy of the tick that ends, of `len` cycles, settled from the enable transitions `ev`. -/
def settleDose (s : State) (len : Nat) (ev : List (Nat × Nat × Bool)) : State :=
  let acc := s.lse.spans.filter fun p => p.acct != 0
  let clr (seg : Nat) : Nat := s.lse.clears.foldl (fun m (g, c) => if g = seg then max m c else m) 0
  let s0 := s.lse.clears.foldl (fun (s : State) (g, _) =>
    { s with lse := { s.lse with wAcc := adel s.lse.wAcc g, eAcc := adel s.lse.eAcc g } }) s
  let s1 := ((acc.map (·.chan)).eraseDups).foldl (fun s' n =>
    let sent := sentChanges s n
    let high := highRanges n len (bitAt s.lse.len0 n) ev
    (acc.filter fun p => p.chan == n).foldl (fun (s' : State) p =>
      let e := spanEnergy p (clr p.seg) len sent (litCycles s) high
      if p.acct = 1 then { s' with lse := { s'.lse with wAcc := addAcct s'.lse.wAcc p.seg e } }
      else { s' with lse := { s'.lse with eAcc := addAcct s'.lse.eAcc p.seg e } }) s') s0
  { s1 with lse := { s1.lse with settled := s.tsq.tc } }

/-- 08 R236: the strobes and cuts of the tick that ends are counted; a strobe that blanking suppressed is forced anew (R221). -/
def settleCounts (s : State) : State :=
  let s := s.lse.flips.foldl (fun s (e, plane, t) =>
    let gone := match s.tsq.blank with | some b => decide (b ≤ t) | none => false
    modLse s e fun x => if gone then { x with noStrobe := sat16 x.noStrobe, force := true }
                        else { x with strobes := sat32 x.strobes, plane := plane }) s
  s.lse.shows.foldl (fun s h =>
    let cut := h.cut || (match s.tsq.blank with | some b => decide (b < h.b) | none => false)
    if cut then modLse s h.eng fun x => { x with cut := sat16 x.cut } else s) s

/-- The light of a new tick: nothing placed yet. -/
def clearTick (s : State) (len : Nat) : State :=
  { s with lse := { s.lse with
      spans := [], shows := [], flips := [], clears := [], lenEv := [], len0 := len
      eng := s.lse.eng.map fun x => { x with
        win := none, stall := none, sps := []
        sp0 := x.sps.foldl (fun _ (p : Int × Int) => p.2) x.sp0 } } }

/-- 08 R228: PATHREG is published. -/
def pathPublished (s : State) (e : Nat) : State :=
  modLse s e fun x => { x with path := true, ptr := 0, run := none, stopped := false, bufAt := 0, buf := [], stall := none, k := 0 }

/-! ### LSE registers (08 R236, 11 R312) -/

/-- The total of an account table. -/
def acctTotal (m : Amap) : Nat := min (2 ^ 64 - 1) (m.foldl (fun a p => a + p.2) 0)

/-- LSE_SNWV0 to 2 of a segment. -/
def wvWords (l : Lse) (seg : Nat) : List Nat :=
  match l.wv.find? fun v => v.seg == seg with
  | none => [0, 0, 0]
  | some v => [v.st * 2 ^ 29 + b2n v.write * 2 ^ 28 + v.pass * 2 ^ 24 + v.flags * 2 ^ 16 + v.clast, v.tgt % 2 ^ 32, v.facing]

/-- 08 R236, 11 R312: what LSE_CTL.SNAP copies: the accounts, areas and segments as they stood at the last boundary (00 R14). -/
def lseSnap (s : State) : State :=
  let l := s.shown.lse
  let g := rwGet s (Base.lse + 4) 0
  let w := alook l.wAcc g
  let e := alook l.eAcc g
  let t := acctTotal l.wAcc
  let lo (v : Nat) := v % 2 ^ 32
  let hi (v : Nat) := v / 2 ^ 32 % 2 ^ 32
  { s with lse := { s.lse with
      sn := [lo l.settled, hi l.settled, lo w, hi w, lo e, hi e, settledDose s g true, settledDose s g false, alook l.area g, lo t, hi t]
      wvSn := wvWords l g } }

/-- 11 R312: a write of LSE_FRSEL. -/
def frselWrite (s : State) (v : Nat) : State :=
  let i := bits v 5 0
  let s := rwPut s (Base.lse + 0x420) i
  { s with lse := { s.lse with frSn := (ringAt s.shown.lse.fr s.shown.lse.frTotal 64 i).getD (List.replicate 8 0) } }

def lseRead (s : State) (off : Nat) : Nat :=
  let z := s.shown.lse
  if 0x08 ≤ off ∧ off < 0x34 then lget s.lse.sn ((off - 8) / 4) 0
  else if 0x100 ≤ off ∧ off < 0x200 then
    let e := (off - 0x100) / 0x40
    let x := lget z.eng e {}
    match (off - 0x100) % 0x40 with
    | 0x00 => if engKind s e = 0 then 0 else engKind s e * 2 ^ 30 + engChans s e % 16 * 2 ^ 16 + engTset s e % 2 ^ 14
    | 0x04 => b2n x.lk * 2 ^ 31 + x.m * 2 ^ 16 + x.edges
    | 0x08 => x.p
    | 0x0C => x.maxErr * 65536 + pat 16 x.err
    | 0x10 =>
      let b := bufEl x x.ptr
      x.ptr % 2048 * 65536 + (match x.run, b with | some n, some b => elNper b - n | _, _ => 0)
    | 0x14 => x.strobes
    | 0x18 => x.noStrobe * 65536 + x.cut
    | 0x1C => pat 16 x.sp
    | _ => 0
  else match off with
    | 0x400 => z.jobSeq * 65536 + z.jobCount
    | 0x404 => z.closed * 65536 + (z.wv.filter fun v => v.st == 4).length
    | 0x408 => (z.wv.filter fun v => v.st == 1 || v.st == 2 || v.st == 3).length
    | 0x40C => lget s.lse.wvSn 0 0
    | 0x410 => lget s.lse.wvSn 1 0
    | 0x414 => lget s.lse.wvSn 2 0
    | 0x424 => z.frTotal
    | 0x494 => s.lse.colVal
    | _ =>
      if 0x440 ≤ off ∧ off < 0x460 then lget s.lse.frSn ((off - 0x440) / 4) 0
      else if 0x480 ≤ off ∧ off < 0x490 then
        let c := lget z.colStat ((off - 0x480) / 4) (false, 0, 0)
        b2n c.1 * 2 ^ 31 + c.2.1 % 8 * 2 ^ 16 + pat 16 c.2.2
      else 0

/-- LSE_CTL.CLRMAX (08 R236): every tracker error maximum goes back to 0, and its register with it. -/
def lseClrMax (s : State) : State :=
  let f (l : Lse) : Lse := { l with eng := l.eng.map fun x => { x with maxErr := 0 } }
  { s with lse := f s.lse, shown := { s.shown with lse := f s.shown.lse } }

end Sys2Proof.Machine
end

