-- ==== Sys2Proof/Machine/Servo.lean ====
section
/-! DEFINITION. The servo engine: sampling, holds, the set-point generator, the control law, enabling, the relay tune, the drive
channels, parks and the SRV registers (10 R269 to R291). -/

namespace Sys2Proof.Machine

/-! ### The SERVO section (10 Tables 10-1 to 10-3) -/

def srvB (s : State) : Bytes := secB s Ty.servo 0
def srvTuneParam (s : State) : Nat := u8 (srvB s) 0
def srvTuneN (s : State) : Nat := u8 (srvB s) 1
def srvTuneMax (s : State) : Nat := u16 (srvB s) 2
def snsEn (s : State) (ch : Nat) : Bool := u8 (srvB s) (0x40 + 8 * ch) == 1
def snsOsr (s : State) (ch : Nat) : Nat := u8 (srvB s) (0x41 + 8 * ch) % 4
def drvEnB (b : Bytes) (d : Nat) : Bool := u8 b (0xA0 + 8 * d) == 1
def drvEn (s : State) (d : Nat) : Bool := drvEnB (srvB s) d
/-- The array engine that shares a drive channel. -/
def drvShare (s : State) (d : Nat) : Option Nat :=
  let v := u8 (srvB s) (0xA1 + 8 * d)
  if drvEn s d ∧ bitAt v 7 then some (v % 4) else none
def drvInitB (b : Bytes) (d : Nat) : Nat := if drvEnB b d then u16 b (0xA2 + 8 * d) else 0

/-- A loop record, as the bytes from its start. -/
def loopB (b : Bytes) (l : Nat) : Bytes := (b.drop (0x100 + 176 * l)).take 176
def lpEn (c : Bytes) : Bool := u8 c 0 == 1
def lpSns (c : Bytes) : Nat := u8 c 1
def lpDrv (c : Bytes) : Option Nat := if bitAt (u8 c 2) 7 then some (u8 c 2 % 8) else none
def lpM (c : Bytes) : Nat := 2 ^ (u8 c 3 % 8)
def lpGen (c : Bytes) : Nat := u8 c 4
def lpSrc (c : Bytes) : Nat := u8 c 5
def lpArg (c : Bytes) : Nat := u8 c 6
def lpGate (c : Bytes) : Option Nat := if bitAt (u8 c 7) 7 then some (u8 c 7 % 16) else none
def lpPark (c : Bytes) : Option Nat := if bitAt (u8 c 8) 7 then some (u8 c 8 % 4) else none
def lpParkCode (c : Bytes) : Nat := u16 c 0xA
def lpRmin (c : Bytes) : Int := i32 c 0x18
def lpRmax (c : Bytes) : Int := i32 c 0x1C
def lpBias (c : Bytes) : Int := i32 c 0x44
def lpIlim (c : Bytes) : Int := (u32 c 0x48 : Nat)
def lpUmin (c : Bytes) : Int := (u16 c 0x4C : Nat)
def lpUmax (c : Bytes) : Int := (u16 c 0x4E : Nat)
def lpDumax (c : Bytes) : Int := (u16 c 0x50 : Nat)
def lpTuned (c : Bytes) : Int := (u16 c 0x52 : Nat)
def lpTeps (c : Bytes) : Int := i32 c 0x54

def loopAt (s : State) (l : Nat) : Loop := lget s.srv.loops l {}

def modLoop (s : State) (l : Nat) (f : Loop → Loop) : State :=
  { s with srv := { s.srv with loops := lmod s.srv.loops l f } }

/-- A loop with SERVO words in a set. -/
def loopIn (s : State) (set l : Nat) : Bool :=
  lpEn (loopB (srvB s) l) && (slotWords (secB s Ty.sched set)).any fun w => swKind w == 5 && swUnit w == 0x11 + l

/-! ### Sampling (10 R272; 18 Table 18-5) -/

/-- The slot of sample point `j` of `m` (02 R44). -/
def samplePoint (s : State) (m j : Nat) : Nat := if m = 0 then 0 else j * nSlot s / m

/-- A scheduled sample of the running tick by its channel (sense channels 0 to 11, 100 + n for LEN[n], 200 + e for the park of
engine e) and its sample point, in sixteenths of the tick. -/
def sampAt (s : State) (ch j16 : Nat) : Option (Int × Bool) :=
  (s.srv.samp.find? fun x => x.1 == ch && x.2.1 == j16).map fun x => x.2.2

def putSamp (s : State) (ch j16 : Nat) (v : Int) (fb : Bool) : State :=
  if (sampAt s ch j16).isSome then s else { s with srv := { s.srv with samp := s.srv.samp ++ [(ch, j16, v, fb)] } }

/-- The park of an engine at a cycle of the running tick. -/
def parkAt (s : State) (e c : Nat) : Bool :=
  s.srv.parkEv.foldl (fun v x => if x.1 = e ∧ x.2.1 ≤ c then x.2.2 else v) (bitAt s.srv.park0 e)

/-- The LEN and park samples of loop `l` at sample point `j16`, which its sense sample brings with it. -/
def gateSamples (s : State) (l j16 : Nat) : State :=
  let c := loopB (srvB s) l
  let cyc := 256 * samplePoint s 16 j16
  let s := match lpGate c with
    | some n =>
      let v : Int := b2n (lenHigh s.lse.len0 s.lse.lenEv n cyc)
      let (s, v, fb) := sampleSrc s 0x0A n v true false
      putSamp s (100 + n) j16 v fb
    | none => s
  match lpPark c with
  | some e =>
    let (s, v, fb) := sampleSrc s 0x0C e (b2n (parkAt s e cyc)) true false
    putSamp s (200 + e) j16 v fb
  | none => s

/-- The active loops that sample channel `ch` at sample point `j16`. -/
def samplers (s : State) (ch j16 : Nat) : List Nat :=
  idxWhere 16 fun l =>
    let c := loopB (srvB s) l
    (loopIn s s.tsq.set l || s.boot.fallback) && lpEn c && lpSns c == ch && j16 * lpM c % 16 == 0

/-- 10 R272: the sample of channel `ch` at sample point `j16`, ready now. `raws` are the raw conversions, `ok` says they succeeded.
In the shadow role it shows in SRV_SNSn and enters no loop (R277). -/
def snsSample (s : State) (ch j16 : Nat) (raws : List Nat) (ok : Bool) : State :=
  let ls := samplers s ch j16
  let n := 2 ^ snsOsr s ch
  if ls.isEmpty ∨ !snsEn s ch ∨ (sampAt s ch j16).isSome ∧ !shadowRun s then s
  else
    let x := ((raws.take n).map (trim s ch)).foldl (· + ·) 0 / n
    let good := ok && raws.length == n && domOn s (snsDom ch)
    let (s, v, fb) := sampleSrc s 5 ch x good (snsHeld s ch)
    let s := { s with srv := { s.srv with sns := lmod s.srv.sns ch fun _ => (pat 16 v, fb) } }
    if shadowRun s then s
    else ls.foldl (fun s l => gateSamples s l j16) (putSamp s ch j16 v fb)

/-! ### The set-point source and the generator (10 R281 to R283) -/

/-- 10 R281: R of loop `l` at cycle `cyc` of sample point. The fallback display takes SRC as CONST (18 R485). -/
def sourceR (s : State) (c : Bytes) (cyc : Nat) : Int :=
  match if s.boot.fallback then 0 else lpSrc c with
  | 0 => i32 c 0x14
  | 1 => sgn 32 (alook s.tsq.params (lpArg c))
  | 2 => if pcEng s (lpArg c) then pcDumpY s (lpArg c) else setPointAt (lseAt s (lpArg c)) (1024 * (cyc : Int))
  | _ => calSetPoint s (lpArg c) (intensityAt s (lpArg c) cyc)

/-- 10 R282: the step of SLEW. -/
def slewStep (c : Bytes) (r v R : Int) : Int :=
  let d := R - r
  let vmax := i32 c 0x20
  let amax := i32 c 0x24
  if amax = 0 then d.sign * min vmax d.natAbs
  else
    let sb := d.sign * min vmax (isqrt (2 * amax.natAbs * d.natAbs) : Nat)
    let t := v + clampI (-amax) amax (sb - v)
    if t.sign = d.sign ∧ t.natAbs > d.natAbs then d else t

/-- 10 R282, R283: r, v and SOFT after one update. -/
def generate (c : Bytes) (x : Loop) (R : Int) : Loop :=
  let lim := clampI (lpRmin c) (lpRmax c)
  if lpGen c = 0 then
    let r := lim R
    { x with v := r - x.r, r := r }
  else if x.soft then
    let d := R - x.r
    let r := lim (x.r + d.sign * min (i32 c 0x28) d.natAbs)
    if r = R then { x with v := 0, r := r, soft := false } else { x with v := r - x.r, r := r }
  else
    let r := lim (x.r + slewStep c x.r x.v R)
    { x with v := if r = R then 0 else r - x.r, r := r }

/-! ### The control law (10 R278 to R280) -/

/-- 10 R279: RHO_j and INVRHO_j. -/
def rhoOf (s : State) (m j : Nat) : Int × Int :=
  if j + 1 < m ∨ m = 0 ∨ fTick s = 0 then (65536, 65536)
  else
    let h : Int := (nSlot s * 256 / m : Nat)
    let g : Int := ((1000000000 / fTick s : Nat) : Int) - (nSlot s * 256 : Nat)
    let rho := rndI (65536 * (h + g)) h
    (rho, rndI 4294967296 rho)

/-- 10 R280: one biquad with coefficients at `o` of the record. -/
def biquad (c : Bytes) (o : Nat) (st : List Int) (w : Int) : Int × List Int :=
  let k (i : Nat) : Int := i32 c (o + 4 * i)
  let x (i : Nat) : Int := lget st i 0
  let out := sat32i (asr (k 0 * w + k 1 * x 0 + k 2 * x 1 - k 3 * x 2 - k 4 * x 3) 29)
  (out, [w, x 0, out, x 2])

/-- Both biquads, each only when NEN enables it. -/
def notches (c : Bytes) (bq : List Int) (w : Int) : Int × List Int :=
  let nen := u8 c 0x80
  let a := if bitAt nen 0 then biquad c 0x58 (bq.take 4) w else (w, bq.take 4)
  let b := if bitAt nen 1 then biquad c 0x6C (bq.drop 4) a.1 else (a.1, bq.drop 4)
  (b.1, a.2 ++ b.2)

/-- The proportional term and the feed-forward of R278. -/
def propFf (c : Bytes) (r v e : Int) : Int × Int :=
  (sat32i (asr (i32 c 0x2C * e) 16), sat32i (asr (i32 c 0x3C * r) 16 + asr (i32 c 0x40 * v) 16))

/-- 10 R278 after the generator. `rate` is false in the update that enables the loop. -/
def controlLaw (c : Bytes) (x : Loop) (y rho inv : Int) (rate : Bool) : Loop :=
  let e := sat32i (x.r - y)
  let (p, ff) := propFf c x.r x.v e
  let dr := sat32i (asr (sat32i (asr (i32 c 0x34 * (x.y - y)) 16) * inv) 16)
  let da : Int := (u16 c 0x38 : Nat)
  let d := if da = 0 then dr else sat32i (x.d + asr ((dr - x.d) * da) 16)
  let il := lpIlim c * 65536
  let ic := clampI (-il) il (x.i + asr (i32 c 0x30 * e * rho) 16)
  let w0 := sat32i (lpBias c + ff + p + asr ic 16 + d)
  let (w, bq) := notches c x.bq w0
  let u1 := if rate ∧ 0 < lpDumax c then clampI (x.u - lpDumax c) (x.u + lpDumax c) w else w
  let u := clampI (lpUmin c) (lpUmax c) u1
  let keep := decide (u ≠ w) && decide ((ic - x.i).sign = (w - u).sign)
  let satR := decide (u1 ≠ w)
  let satO := decide (u ≠ u1)
  { x with i := if keep then x.i else ic, u := u, y := y, d := d, e := e, bq := bq, satOut := satO, satRate := satR,
           ihold := keep, rates := if satR then sat16 x.rates else x.rates, outs := if satO then sat16 x.outs else x.outs }

/-- 10 R284, steps 1 to 4: the state from which an enabled loop starts, with u_h as its last output. -/
def enableState (c : Bytes) (x : Loop) (y R uh : Int) : Loop :=
  let lim := clampI (lpRmin c) (lpRmax c)
  let r := if lpGen c = 0 then lim R else lim y
  let (p, ff) := propFf c r 0 (sat32i (r - y))
  let il := lpIlim c * 65536
  let i := clampI (-il) il ((uh - lpBias c - ff - p) * 65536)
  { x with y := y, d := 0, r := r, v := 0, soft := lpGen c == 2, bq := List.replicate 8 uh, i := i, u := uh, need := false, uh := none }

/-- 10 R284: the loop is enabled with u_h. -/
def enableLoop (c : Bytes) (x : Loop) (y R rho inv uh : Int) : Loop := controlLaw c (enableState c x y R uh) y rho inv false

/-! ### The relay tune (10 R287 to R289) -/

/-- The tune ends with a state and a cause; the next update enables the loop. -/
def tuneEnd (x : Loop) (st cause : Nat) : Loop := { x with tst := st, tcause := cause, need := true, uh := none }

def tuneAbort (x : Loop) (cause : Nat) : Loop := if x.tst = 1 then tuneEnd x 3 cause else x

/-- 10 R288: the results at the end of a tune. -/
def tuneDone (c : Bytes) (n : Nat) (x : Loop) : Loop :=
  let amp := (x.thi - x.tlo).toNat
  { tuneEnd x 2 0 with
    tu := 256 * (x.tn - x.tn3) / n
    amp2 := amp
    ku := if amp = 0 then 0 else min 0xFFFFFFFF (1367130551 * (lpTuned c).toNat / (amp * 8192)) }

/-- 10 R288: one update of a running tune. -/
def tuneStep (c : Bytes) (n tmax : Nat) (x : Loop) (y : Int) : Loop :=
  let e := x.trc - y
  let rise := !x.tpos && decide (e > lpTeps c)
  let k := if rise then x.tk + 1 else x.tk
  let pos := if rise then true else if x.tpos ∧ e < - lpTeps c then false else x.tpos
  let tn := x.tn + 1
  let fresh := rise && k == 3
  let track := decide (3 ≤ k ∧ k < 3 + n)
  let x := { x with
    tn := tn, tk := k, tpos := pos, tn3 := if fresh then tn else x.tn3
    tlo := if fresh then y else if track then min x.tlo y else x.tlo
    thi := if fresh then y else if track then max x.thi y else x.thi
    u := x.tu0 + (if pos then lpTuned c else - lpTuned c)
    y := y, e := e, satOut := false, satRate := false, ihold := false }
  if k = 3 + n then tuneDone c n x else if tmax ≤ tn then tuneEnd x 3 1 else x

/-- 10 R288: the start of a tune. -/
def tuneStart (x : Loop) (y : Int) : Loop :=
  { x with tst := 1, tcause := 0, tu0 := x.u, trc := x.r, tpos := decide (0 ≤ x.r - y), tn := 0, tk := 0, tn3 := 0, tlo := 0, thi := 0 }

/-! ### COMPUTE (10 R274, R276) -/

/-- The update of a loop that is not held: a tune, an enable, or the law. `bit` is its bit of TUNEPARAM. -/
def updateLoop (s : State) (c : Bytes) (x : Loop) (y R : Int) (j : Nat) (bit : Bool) : Loop :=
  let (rho, inv) := rhoOf s (lpM c) j
  let rise := bit && !x.tbit
  let x := { x with tbit := bit, held := false, parkHeld := false, j := j }
  let x := if x.tst = 1 ∧ !bit then tuneEnd x 3 6 else if rise ∧ x.tst ≠ 1 then
      tuneStart (if x.need then enableState c x y R (x.uh.getD x.u) else x) y else x
  let x := if x.tst = 1 ∧ (x.tu0 + lpTuned c > lpUmax c ∨ x.tu0 - lpTuned c < lpUmin c) then tuneEnd x 3 2 else x
  if x.tst = 1 then tuneStep c (srvTuneN s) (srvTuneMax s) x y
  else if x.need then enableLoop c x y R rho inv (x.uh.getD x.u)
  else controlLaw c (generate c x R) y rho inv true

/-- 12 R332, R334: what a PCURVE run takes of an update of its channel's loop. -/
def pcurveTake (s : State) (c : Bytes) (y : Int) (fb held : Bool) : State :=
  let r := s.cal.run
  if (pcRun s).isSome ∧ lpSrc c = 3 ∧ lpGate c = pcRun s then
    if fb then { s with cal := { s.cal with run := { r with fbHit := true } } }
    else if !r.inTick ∨ held ∨ r.active % 4 < 2 then s
    else { s with cal := { s.cal with run := { r with
            sums := lmod r.sums (r.active / 4) (· + y), counts := lmod r.counts (r.active / 4) (· + 1) } } }
  else s

/-- 10 R276, R289: a held sample: `fb` a fallback value, `gate` a closed gate, `pk` a park. -/
def holdLoop (c : Bytes) (fb gate pk : Bool) (x : Loop) : Loop :=
  let x1 := if fb && !gate then tuneAbort x 3 else x
  let x2 := if pk then tuneAbort x1 4 else x1
  { x2 with need := x2.need || pk, uh := if pk then some (lpParkCode c : Nat) else x2.uh, held := true, parkHeld := pk,
            fbHolds := if fb then sat16 x2.fbHolds else x2.fbHolds, gateHolds := if gate then sat16 x2.gateHolds else x2.gateHolds }

/-- 10 R274, R276: the update of loop `l` at sample `j`, or its hold. -/
def computeLoop (s : State) (l j : Nat) : State :=
  let c := loopB (srvB s) l
  let m := lpM c
  let j16 := 16 / m * j
  let cyc := 256 * samplePoint s m j
  let s := match lpSrc c with | 2 => lightNow s (lpArg c) | _ => s
  let s := match lpGate c with | some n => lightNow s (n / 4) | none => s
  let (xv, fb) := (sampAt s (lpSns c) j16).getD (0, true)
  let gate := match lpGate c with
    | some n => intensityAt s n cyc == 0 || ((sampAt s (100 + n) j16).getD (0, true)).1 == 0
    | none => false
  let pk := match lpPark c with
    | some e => ((sampAt s (200 + e) j16).getD (0, true)).1 != 0
    | none => false
  let drvCal := match lpDrv c with | some d => drvHeld s d | none => false
  let R := sourceR s c cyc
  let s := if lpSrc c = 2 then modLse s (lpArg c) fun x => { x with sp := R } else s
  let y := sat32i (asr ((xv - (u16 c 0xC : Nat)) * i32 c 0x10) 12)
  let held := fb || gate || pk || drvCal
  let s := pcurveTake s c y fb held
  if held then
    modLoop s l (holdLoop c fb gate pk)
  else
    let bit := bitAt (alook s.tsq.params (srvTuneParam s)) l
    modLoop s l fun x => updateLoop s c x y R j bit

/-! ### Drive channels (10 R274, R275, R285, R286) -/

/-- Whether the drive writes of the running tick are suppressed now (10 R286). -/
def drvBlanked (s : State) : Bool := match s.tsq.blank with | some b => decide (b ≤ s.clk.cyc) | none => false

/-- A code is written to drive channel `d` at this cycle. A channel parked by its engine keeps PARKCODE until a write after the
release; a channel that DRVCAL holds keeps its code (12 R331). -/
def putDrv (s : State) (d : Nat) (code : Nat) (engineParked : Bool) : State :=
  if drvBlanked s ∨ !domOn s (drvDom d) ∨ drvHeld s d then s
  else
    let s := { s with srv := { s.srv with
        drv := lmod s.srv.drv d fun _ => code
        parked := if engineParked then s.srv.parked else lmod s.srv.parked d fun _ => none } }
    digLog s 2 s.clk.cyc d (leBytes 1 d ++ leBytes 3 s.clk.cyc ++ leBytes 2 code)

/-- Whether the engine that parks loop `c` is parked now. -/
def loopParked (s : State) (c : Bytes) : Bool := match lpPark c with | some e => (lget s.saf.eng e {}).park | none => false

/-- 10 R274, R275: at the FINISH of loop `l`'s COMPUTE word its output is written, on a shared channel only while it owns it. -/
def drvWrite (s : State) (l : Nat) : State :=
  let c := loopB (srvB s) l
  match lpDrv c with
  | none => s
  | some d =>
    if lpEn c ∧ ((drvShare s d).isNone ∨ lget s.srv.owner d none = some l) then
      putDrv s d (pat 16 (loopAt s l).u) (loopParked s c)
    else s

/-- 10 R275: a FIELD word of engine `e` on channel `n` hands each shared channel of the engine to the loop gated on `n`. -/
def sharedWrite (s : State) (e n : Nat) : State :=
  (List.range 8).foldl (fun s d =>
    if drvShare s d = some e then
      let l := firstIdx 16 fun l =>
        let c := loopB (srvB s) l
        lpEn c && lpGate c == some n && lpDrv c == some d
      let s := { s with srv := { s.srv with owner := lmod s.srv.owner d fun _ => l } }
      match l with
      | some l => putDrv s d (pat 16 (loopAt s l).u) (loopParked s (loopB (srvB s) l))
      | none => s
    else s) s

/-- 10 R291: a drive channel whose converter is on drives a code of its own from the apply point on; before, and off, it drives code 0. -/
def drvLive (s : State) (d : Nat) : Bool := (s.tsq.run || s.boot.fallback) && domOn s (drvDom d)

/-- 10 R285: what a change of engine `e`'s park does to loop `l`. -/
def parkLoop (e : Nat) (level : Bool) (s : State) (l : Nat) : State :=
  let c := loopB (srvB s) l
  if lpEn c ∧ lpPark c = some e then
    if level then
      match lpDrv c with
      | some d => if drvLive s d then { s with srv := { s.srv with parked := lmod s.srv.parked d fun _ => some (lpParkCode c) } } else s
      | none => s
    else if shadowRun s then s
    else modLoop s l fun x => { x with need := true, uh := some (lpParkCode c : Nat) }
  else s

/-- 10 R285: Aperture parks engine `e`, or releases it. -/
def parkChange (s : State) (e : Nat) (level : Bool) : State :=
  if (lget s.saf.eng e {}).park = level then s
  else
    let s := { s with saf := { s.saf with eng := lmod s.saf.eng e fun x => { x with park := level } },
                      srv := { s.srv with parkEv := s.srv.parkEv ++ [(e, s.clk.cyc, level)] } }
    (List.range 16).foldl (parkLoop e level) (srcEvent s 0x0B e (b2n level))

/-- The requested code that a drive channel drives. -/
def drvCode (s : State) (d : Nat) : Nat := (lget s.srv.parked d none).getD (lget s.srv.drv d 0)

/-- The code at the ball (12 R328); a converter whose domain is off drives the code-0 level (17 R455). -/
def drvBall (s : State) (d : Nat) : Nat := if domOn s (drvDom d) then trim s (12 + d) (drvCode s d) else 0

/-! ### The apply point, replacement, set changes, domains (10 R284, R291) -/

/-- The INIT of a loop's drive channel. -/
def loopInit (b : Bytes) (l : Nat) : Int := match lpDrv (loopB b l) with | some d => (drvInitB b d : Nat) | none => 0

/-- A loop that its next update enables with INIT. -/
def freshLoop (b : Bytes) (l : Nat) : Loop := { u := loopInit b l, need := true, uh := some (loopInit b l) }

/-- 10 R285: the PARKCODE of the parked engine that a loop on drive channel `d` parks with. -/
def parkCodeOf (s : State) (d : Nat) : Option Nat :=
  ((List.range 16).find? fun l => let c := loopB (srvB s) l; lpEn c && lpDrv c == some d && loopParked s c).map fun l =>
    lpParkCode (loopB (srvB s) l)

/-- 10 R284, R285, R291: the apply point. -/
def srvApplyPoint (s : State) : State :=
  let b := srvB s
  { s with srv := { s.srv with
      loops := (List.range 16).map (freshLoop b), owner := List.replicate 8 none
      parked := (List.range 8).map (fun d => if domOn s (drvDom d) then parkCodeOf s d else none), parkEv := []
      park0 := maskOf (idxWhere 4 fun e => engKind s e == 2 && (lget s.saf.eng e {}).park)
      drv := (List.range 8).map fun d => if domOn s (drvDom d) then drvInitB b d else 0 } }

/-- 10 R284: a loop after SERVO changed from body `old` to `b`. -/
def replaceLoop (old b : Bytes) (x : Loop) (l : Nat) : Loop :=
  let c := loopB b l
  let o := loopB old l
  if lpEn c && !lpEn o then freshLoop b l
  else if !lpEn c && lpEn o then tuneAbort x 5
  else if [1, 2, 3, 4, 5, 6].any (fun k => u8 c k != u8 o k) then { x with need := true } else x

/-- 10 R284: SERVO is replaced; `old` is the body that was in force. A channel whose loop is parked takes the new PARKCODE (R285). -/
def srvReplace (s : State) (old : Bytes) : State :=
  { s with srv := { s.srv with
      loops := s.srv.loops.zipIdx.map fun p => replaceLoop old (srvB s) p.1 p.2
      parked := s.srv.parked.zipIdx.map fun p => if drvLive s p.2 then (parkCodeOf s p.2).or p.1 else p.1 } }

/-- 10 R284, R289: the set changes; loops become active or idle. -/
def srvSetChange (s : State) (from_ to_ : Nat) : State :=
  (List.range 16).foldl (fun s l =>
    let before := loopIn s from_ l
    let after := loopIn s to_ l
    if after && !before then modLoop s l fun x => { x with need := true }
    else if before && !after then modLoop s l fun x => tuneAbort x 5
    else s) s

/-- 17 R452: a servo slice powers up with its loops as at the apply point. -/
def srvSliceUp (s : State) (d : Nat) : State :=
  (List.range 4).foldl (fun s i => modLoop s (4 * (d - 40) + i) fun _ => freshLoop (srvB s) (4 * (d - 40) + i)) s

/-- 10 R285, R291: drive converters power up after the apply point: a channel drives its INIT, or PARKCODE while its loop is parked. -/
def srvConvUp (s : State) (d : Nat) : State :=
  (List.range 4).foldl (fun s i =>
    let ch := 4 * (d - 62) + i
    if drvLive s ch then
      { s with srv := { s.srv with drv := lmod s.srv.drv ch fun _ => drvInitB (srvB s) ch, parked := lmod s.srv.parked ch fun _ => parkCodeOf s ch } }
    else s) s

/-- 17 R455: drive converters go off: their channels are at code 0, and parked no longer. -/
def srvConvDown (s : State) (d : Nat) : State :=
  (List.range 4).foldl (fun s i =>
    let ch := 4 * (d - 62) + i
    { s with srv := { s.srv with drv := lmod s.srv.drv ch fun _ => 0, parked := lmod s.srv.parked ch fun _ => none } }) s

/-- A new tick: its samples and parks start afresh. -/
def srvTick (s : State) : State :=
  { s with srv := { s.srv with
      samp := [], parkEv := []
      park0 := maskOf (idxWhere 4 fun e => s.srv.parkEv.foldl (fun v x => if x.1 = e then x.2.2 else v) (bitAt s.srv.park0 e)) } }

/-! ### SRV registers (10 R290) -/

/-- 10 R290: what SRV_CTL.SNAP copies. -/
def srvSnap (s : State) : State :=
  let x := lget s.shown.srv.loops (bits (rwGet s Base.srv 0) 11 8) {}
  let tc := s.tsq.tc - 1
  { s with srv := { s.srv with sn :=
      [pat 32 x.r, pat 32 x.y, pat 32 x.e, pat 16 x.u, pat 32 (asr x.i 16), pat 32 x.v,
       x.j * 2 ^ 28 + b2n x.soft * 2 ^ 27 + b2n x.satOut * 2 ^ 26 + b2n x.satRate * 2 ^ 25 + b2n x.ihold * 2 ^ 24 + b2n x.held * 2 ^ 23,
       tc % 2 ^ 32, tc / 2 ^ 32 % 2 ^ 32, x.tst * 2 ^ 28 + x.tcause * 2 ^ 24, x.tu, x.amp2, x.ku] } }

def srvRead (s : State) (off : Nat) : Nat :=
  let z := s.shown
  let active (l : Nat) : Bool := s.tsq.run && loopIn s s.tsq.set l
  if off = 4 then maskOf (idxWhere 16 active)
  else if off = 8 then maskOf (idxWhere 16 fun l =>
      let c := loopB (srvB s) l
      lpEn c && (match lpDrv c with | some d => (lget s.srv.parked d none).isSome | none => false))
  else if off = 0xC then maskOf (idxWhere 16 fun l => (lget z.srv.loops l {}).tst == 1)
  else if 0x10 ≤ off ∧ off < 0x44 then lget s.srv.sn ((off - 0x10) / 4) 0
  else if 0x80 ≤ off ∧ off < 0xA0 then
    let d := (off - 0x80) / 4
    b2n (lget s.srv.parked d none).isSome * 2 ^ 31 + b2n (drvShare s d).isSome * 2 ^ 30 + drvCode s d
  else if 0xA0 ≤ off ∧ off < 0xD0 then
    let x := lget z.srv.sns ((off - 0xA0) / 4) (0, false)
    b2n x.2 * 2 ^ 31 + x.1
  else if 0x100 ≤ off ∧ off < 0x200 then
    let l := (off - 0x100) / 16
    let c := loopB (srvB s) l
    let x := lget z.srv.loops l {}
    match off % 16 with
    | 0 => if !lpEn c then 0 else
        2 ^ 31 + lpGen c % 4 * 2 ^ 29 + u8 c 3 % 8 * 2 ^ 26 + lpSns c % 16 * 2 ^ 22 + u8 c 2 / 128 * 2 ^ 21 + u8 c 2 % 8 * 2 ^ 18
          + lpSrc c % 4 * 2 ^ 16 + lpArg c * 2 ^ 8 + u8 c 7 / 128 * 2 ^ 7 + u8 c 7 % 16 * 2 ^ 3 + u8 c 8 / 128 * 4
    | 4 => b2n (active l) * 2 ^ 31 + b2n x.soft * 2 ^ 30 + b2n x.parkHeld * 2 ^ 29 + b2n (x.tst == 1) * 2 ^ 28 + pat 16 x.u
    | 8 => x.fbHolds * 65536 + x.gateHolds
    | _ => x.rates * 65536 + x.outs
  else 0

end Sys2Proof.Machine
end

