-- ==== Sys2Proof/Machine/Loupe.lean ====
section
/-! DEFINITION. Loupe: receivers and stripes, exposure groups, the pipeline and its outputs, contrast records and the presence map (13
R339 to R364). -/

namespace Sys2Proof.Machine

/-! ### The LOUPE section (13 Tables 13-3 to 13-6) -/

def lpeB (s : State) : Bytes := secB s Ty.loupe 0
def rxEn (b : Bytes) (r : Nat) : Bool := u8 b (0x40 + 32 * r) == 1
def cx (c : Nat) : Nat := 0x400 + 0x280 * c
def cxEn (b : Bytes) (c : Nat) : Bool := u8 b (cx c) == 1
def cxRx (b : Bytes) (c : Nat) : Nat := u8 b (cx c + 1)
def cxVc (b : Bytes) (c : Nat) : Nat := u8 b (cx c + 2)
def cxDt (b : Bytes) (c : Nat) : Nat := u8 b (cx c + 3)
def cxW (b : Bytes) (c : Nat) : Nat := u16 b (cx c + 4)
def cxH (b : Bytes) (c : Nat) : Nat := u16 b (cx c + 6)
def cxCfa (b : Bytes) (c : Nat) : Nat := u8 b (cx c + 8)
def cxRole (b : Bytes) (c : Nat) : Nat := u8 b (cx c + 9)
def cxExpn (b : Bytes) (c : Nat) : Nat := u16 b (cx c + 0xA)
def cxShReg (b : Bytes) (c : Nat) : Nat := u8 b (cx c + 0x16)
def cxVbin (b : Bytes) (c : Nat) : Nat := u8 b (cx c + 0x90)
def cxVoff (b : Bytes) (c : Nat) : Nat := u32 b (cx c + 0x9C)
def cxVw (b : Bytes) (c : Nat) : Nat := cxW b c / 2 ^ cxVbin b c
def cxVh (b : Bytes) (c : Nat) : Nat := cxH b c / 2 ^ cxVbin b c
def ox (c k : Nat) : Nat := cx c + 0x100 + 32 * k
def outEn (b : Bytes) (c k : Nat) : Bool := u8 b (ox c k) == 1
def outFixed (b : Bytes) (c k : Nat) : Bool := u8 b (ox c k + 1) == 1
def outMode (b : Bytes) (c k : Nat) : Nat := u8 b (ox c k + 3)
def outBase (b : Bytes) (c k : Nat) : Nat := u64 b (ox c k + 4)
def outStride (b : Bytes) (c k : Nat) : Nat := u32 b (ox c k + 0xC)
def outSize (b : Bytes) (c k : Nat) : Nat := u32 b (ox c k + 0x10)
def outNbuf (b : Bytes) (c k : Nat) : Nat := u8 b (ox c k + 0x16)

def rxAt (s : State) (r : Nat) : CsiRx := lget s.lpe.rx r {}
def modRx (s : State) (r : Nat) (f : CsiRx → CsiRx) : State := { s with lpe := { s.lpe with rx := lmod s.lpe.rx r f } }
def ctxAt (s : State) (c : Nat) : LpeCtx := lget s.lpe.ctx c {}
def modCtx (s : State) (c : Nat) (f : LpeCtx → LpeCtx) : State := { s with lpe := { s.lpe with ctx := lmod s.lpe.ctx c f } }

/-- The context of a receiver and virtual channel. -/
def ctxOf (s : State) (r vc : Nat) : Option Nat :=
  let b := lpeB s
  firstIdx 8 fun c => cxEn b c && cxRx b c == r && cxVc b c == vc

/-! ### Exposure (13 R344, R346) -/

/-- A pulse of context `c` counts toward its open group. -/
def countPulse (s : State) (c : Nat) : State :=
  let n := cxExpn (lpeB s) c
  modCtx s c fun x =>
    let tc := if x.pulses = 0 then s.tsq.tc else x.openTc
    if n ≤ x.pulses + 1 then { x with pulses := 0, openTc := tc, groups := x.groups ++ [tc] }
    else { x with pulses := x.pulses + 1, openTc := tc }

/-- Pulses that have ended by cycle `upTo` count, in order of their ends. -/
def pulsesTo (s : State) (upTo : Nat) : State :=
  let due := (s.lpe.pulses.filter fun p => p.2 ≤ upTo).mergeSort fun x y => decide (x.2 ≤ y.2)
  let s := { s with lpe := { s.lpe with pulses := s.lpe.pulses.filter fun p => !(p.2 ≤ upTo) } }
  due.foldl (fun s p => countPulse s p.1) s

/-- The inner window in cycles (02 R47). -/
def innerWindow (s : State) : Nat × Nat := ((darkStart s + 1) * 256, (darkStart s + darkLen s - 1) * 256)

/-- 13 R344: an EXPOSE word's pulses. A trigger stays low outside the inner window; its pulse counts all the same. -/
def exposeWord (s : State) (d : Disp) : State :=
  let p := d.payload
  let a := 256 * d.slot + bits p 51 37
  let one (s : State) (v : Bool) (r c n : Nat) : State :=
    if v then
      let w := innerWindow s
      let x := max a w.1
      let y := min (a + n) w.2
      { s with lpe := { s.lpe with
          trig := if x < y then s.lpe.trig ++ [(r, x, y)] else s.lpe.trig
          pulses := s.lpe.pulses ++ [(c, a + n)] } }
    else s
  one (one s (bitAt p 59) 0 (bits p 58 56) (bits p 36 22)) (bitAt p 55) 1 (bits p 54 52) (bits p 21 7)

/-- The level of the trigger of receiver `r` at a cycle; the ball that carries it follows its owner (18 Table 18-2). -/
def trigAt (s : State) (r c : Nat) : Bool := s.lpe.trig.any fun t => t.1 == r && t.2.1 ≤ c && c < t.2.2

/-! ### Receiving (13 R341, R346 to R348) -/

/-- 13 R347: the places of a receiver's stripe store. -/
def storePlaces (s : State) (r : Nat) : Nat :=
  let b := lpeB s
  let w := (List.range 8).foldl (fun m c => if cxEn b c && cxRx b c == r then max m (cxW b c) else m) 0
  if w = 0 then 0 else 16384 / w

/-- The places in use now. -/
def storeUsed (s : State) (r : Nat) : Nat :=
  let x := rxAt s r
  let held := ((s.lpe.ready ++ s.lpe.stripes).filter fun t => t.rx == r && t.place).length
  held + (x.frames.filter fun f => !f.cur.isEmpty && !f.lost).length + (x.free.filter fun c => s.clk.cyc < c).length

/-- A stripe is ready: its event is stamped, within the MAXEV of its input (13 R347; 18 R478). -/
def stripeReady (s : State) (t : Stripe) : State :=
  match inputIdx s 0x0D t.rx with
  | some i =>
    if (lget s.pins.ins i {}).count < inMaxEv (inputsB s) i then
      let s := stampEv s i t.k
      { s with lpe := { s.lpe with ready := s.lpe.ready ++ [t] } }
    else stampEv s i t.k
  | none => { s with lpe := { s.lpe with ready := s.lpe.ready ++ [t] } }

/-- The stripe of a frame that is being received, from its present lines. -/
def mkStripe (s : State) (r : Nat) (f : RxFrame) (k : Nat) (lines : List (List Nat)) (place : Bool) : Stripe :=
  { rx := r, ctx := f.ctx, frame := f.frame, k := k, etc := f.etc, damaged := f.damaged, unsync := f.unsync, full := f.full,
    lines := lines, stamp := s.clk.cyc, place := place }

/-- The frame of context `c` that receiver `r` is receiving. -/
def rxFrame (s : State) (r c : Nat) : Option RxFrame := (rxAt s r).frames.find? fun f => f.ctx == c

/-- The open frames with `f` as its context's. -/
def putFrame (x : CsiRx) (f : RxFrame) : CsiRx := { x with frames := f :: x.frames.filter fun g => g.ctx != f.ctx }

/-- 13 R341: the open frame of context `c` closes: missing lines are zero, and every remaining stripe is ready now. -/
def closeFrame (s : State) (r c : Nat) : State :=
  match rxFrame s r c with
  | none => s
  | some f =>
    let b := lpeB s
    let h := cxH b f.ctx
    let zero := List.replicate (cxW b f.ctx) 0
    let s := modRx s r fun x => { x with frames := x.frames.filter fun g => g.ctx != c }
    if h ≤ f.got then s
    else
      let f := { f with damaged := true }
      let k0 := f.got / 64
      (List.range ((h + 63) / 64 - k0)).foldl (fun s i =>
        let n := min 64 (h - 64 * (k0 + i))
        let have_ := if i = 0 ∧ !f.lost then f.cur else []
        stripeReady s (mkStripe s r f (k0 + i) (have_ ++ List.replicate (n - have_.length) zero) (i == 0 && !have_.isEmpty))) s

/-- 13 R346: a frame start on a context. -/
def frameStart (s : State) (r c : Nat) : State :=
  let s := closeFrame (pulsesTo s s.clk.cyc) r c
  let x := ctxAt s c
  let f : RxFrame := { ctx := c, frame := x.next, etc := x.groups.headD 0, unsync := x.groups.isEmpty, damaged := false, full := false,
                       got := 0, cur := [], lost := false, emb := 0 }
  modRx (modCtx s c fun x => { x with next := (x.next + 1) % 2 ^ 32, groups := x.groups.drop 1 }) r fun y => putFrame y f

/-- 13 R347, R348: a line of the open frame, with its pixels as 16-bit containers. -/
def lineIn (s : State) (r : Nat) (f : RxFrame) (px : List Nat) (bad : Bool) : State :=
  let b := lpeB s
  let h := cxH b f.ctx
  let zero := List.replicate (cxW b f.ctx) 0
  let first := f.got % 64 == 0
  let lost := if first then decide (storePlaces s r ≤ storeUsed s r) else f.lost
  let s := if first && lost then modRx s r fun x => { x with drops := satAdd 255 x.drops 1 } else s
  let f := { f with damaged := f.damaged || bad || lost, full := f.full || lost, lost := lost, got := f.got + 1,
                    cur := f.cur ++ [if lost then zero else px] }
  if f.got % 64 = 0 ∨ f.got = h then
    let s := modRx s r fun x => putFrame x { f with cur := [] }
    stripeReady s (mkStripe s r f ((f.got - 1) / 64) f.cur (!lost))
  else modRx s r fun x => putFrame x f

/-- 13 R355: embedded data of the open frame. -/
def embedded (s : State) (r : Nat) (f : RxFrame) (data : Bytes) : State :=
  let b := lpeB s
  let base := u64 b (cx f.ctx + 0xA0)
  let room := u32 b (cx f.ctx + 0xA8) - f.emb
  let data := data.take room
  let s := if base = 0 then s else unitWrite s 18 (u8 b (cx f.ctx + 0xAC)) (base + f.emb) data .none
  modRx s r fun x => putFrame x { f with emb := f.emb + data.length }

/-- A discard counted in OTHER. -/
def otherDiscard (s : State) (r : Nat) : State := modRx s r fun x => { x with other := satAdd 255 x.other 1 }

/-- 13 R339, R341: a packet; line start and line end packets are ignored. A receiver whose domain is not fully on receives nothing. In the shadow role the chip's own receivers enter no
computation (R362), and only their counters move. -/
def csiPacket (s : State) (r : Nat) (p : CsiPacket) : State :=
  if 2 ≤ r ∨ !domOn s (44 + r) ∨ !rxEn (lpeB s) r then s
  else
    let s := modRx s r fun x => { x with up := true }
    if p.hdr = 2 then modRx s r fun x => { x with eccBad := satAdd 255 x.eccBad 1 }
    else
      let s := if p.hdr = 1 then modRx s r fun x => { x with eccCor := satAdd 255 x.eccCor 1 } else s
      if p.sotBad then otherDiscard s r
      else if p.kind = 4 ∧ (p.dt = 2 ∨ p.dt = 3) then s
      else
        match ctxOf s r p.vc with
        | none => otherDiscard s r
        | some c =>
          if shadowRun s then s
          else if p.kind = 0 then frameStart s r c
          else if p.kind = 1 then closeFrame s r c
          else if p.kind = 2 then
            let b := lpeB s
            let s := if p.crcBad then modRx s r fun x => { x with crc := satAdd 255 x.crc 1 } else s
            match rxFrame s r c with
            | some f =>
              if p.dt ≠ cxDt b c ∨ p.pixels.length ≠ cxW b c ∨ cxH b c ≤ f.got then otherDiscard s r
              else lineIn s r f (p.pixels.map fun v => if p.dt = 0x2B then v % 1024 * 4 else v % 4096) p.crcBad
            | none => otherDiscard s r
          else if p.kind = 3 ∧ p.dt = 0x12 then
            let s := if p.crcBad then modRx s r fun x => { x with crc := satAdd 255 x.crc 1 } else s
            match rxFrame s r c with
            | some f => embedded s r f p.bytes
            | none => otherDiscard s r
          else otherDiscard s r

/-- 13 R347: the stripes stamped in the tick that ends are delivered, oldest first. -/
def stripesDeliver (s : State) (l : List Stripe) : State :=
  { s with lpe := { s.lpe with
      stripes := s.lpe.stripes ++ l
      ready := (s.lpe.ready.filter fun x => decide (s.clk.len ≤ x.stamp)).map fun x => { x with stamp := x.stamp - s.clk.len } } }

/-- 13 R362: a shadow follows the lead's frame numbers and pulse matches, which its stripes carry. -/
def stripesFollow (s : State) (l : List Stripe) : State :=
  l.foldl (fun s t =>
    modCtx s t.ctx fun x =>
      if x.next = (t.frame + 1) % 2 ^ 32 then x
      else { x with next := (t.frame + 1) % 2 ^ 32, groups := if t.unsync then x.groups else x.groups.erase t.etc }) s

/-! ### The pipeline stages (13 R349, R350) -/

/-- The phase of a pixel. -/
def cfaPhase (x y : Nat) : Nat := 2 * (y % 2) + x % 2

/-- The colour (0 red, 1 green, 2 blue) of a phase in a CFA. -/
def cfaColour (cfa ph : Nat) : Nat :=
  lget (match cfa with | 0 => [0, 1, 1, 2] | 1 => [1, 0, 2, 1] | 2 => [1, 2, 0, 1] | _ => [2, 1, 1, 0]) ph 0

/-- The shading grid of a context: the front buffer of SHADREG, by a fixed read of the pipeline. -/
def shadeGrid (s : State) (c : Nat) (word : Option Nat) : State × Bytes :=
  let b := lpeB s
  if cxShReg b c = 0xFF then (s, [])
  else
    let (s, g, _) := fixedGet s 0x21 word (regBase (inputsB s) (cxShReg b c)) (8 * u8 b (cx c + 0x19) * u8 b (cx c + 0x1A))
    (s, g)

/-- The gain at a pixel from the shading grid's knots around it. -/
def shadeGain (b grid : Bytes) (c x y : Nat) : Nat :=
  let sx := u8 b (cx c + 0x17)
  let sy := u8 b (cx c + 0x18)
  let gx := u8 b (cx c + 0x19)
  let g (i j : Nat) : Nat := u16 grid (8 * (gx * j + i) + 2 * cfaPhase x y)
  let i := x / 2 ^ sx
  let j := y / 2 ^ sy
  let u := x % 2 ^ sx
  let v := y % 2 ^ sy
  let i1 := if u = 0 then i else i + 1
  let j1 := if v = 0 then j else j + 1
  ((2 ^ sx - u) * (2 ^ sy - v) * g i j + u * (2 ^ sy - v) * g i1 j + (2 ^ sx - u) * v * g i j1 + u * v * g i1 j1) / 2 ^ (sx + sy)

/-- Stages 1 to 3 on line `y`. -/
def stages123 (b grid : Bytes) (c y : Nat) (px : List Nat) : PLine :=
  let p1 := px.zipIdx.map fun (p, x) =>
    (clampI 0 4095 (asr (((p : Int) - (u16 b (cx c + 0xC + 2 * cfaPhase x y) : Nat)) * (u16 b (cx c + 0x14) : Nat)) 12)).toNat
  let p2 := if cxShReg b c = 0xFF then p1 else p1.zipIdx.map fun (p, x) => min 4095 (p * shadeGain b grid c x y / 16384)
  { p0 := px, p1 := p1, p2 := p2 }

/-- Stage 4: R, G and B of pixel (x, y) of the lines held. A missing colour is the floor mean of the same-colour pixels among the
eight neighbours; outside the frame the border pixel stands. -/
def demosaic (cfa w h : Nat) (l : List PLine) (x y : Nat) : Nat × Nat × Nat :=
  let at_ (x y : Nat) : Nat := lget (lget l y { p0 := [], p1 := [], p2 := [] }).p2 x 0
  let own := at_ x y
  if cfa = 4 then (own, own, own)
  else
    let xs := [x - 1, x, min (x + 1) (w - 1)]
    let ys := [y - 1, y, min (y + 1) (h - 1)]
    let near := (ys.zipIdx.flatMap fun (v, j) => xs.zipIdx.map fun (u, i) => (u, v, i == 1 && j == 1)).filter fun t => !t.2.2
    let col (k : Nat) : Nat :=
      if cfaColour cfa (cfaPhase x y) = k then own
      else
        let same := near.filter fun t => cfaColour cfa (cfaPhase t.1 t.2.1) == k
        if same.isEmpty then 0 else (same.foldl (fun a t => a + at_ t.1 t.2.1) 0) / same.length
    (col 0, col 1, col 2)

/-- Stage 5: the colour matrix and the tone curve, then Y, Cb and Cr. -/
def colourStage (b : Bytes) (c : Nat) (p : Nat × Nat × Nat) : Nat × Nat × Nat :=
  let m (i j : Nat) : Int := i16 b (cx c + 0x20 + 2 * (3 * i + j))
  let row (i : Nat) : Nat := (clampI 0 4095 (asr (m i 0 * p.1 + m i 1 * p.2.1 + m i 2 * p.2.2 + 2048) 12)).toNat
  let tone (x : Nat) : Int :=
    let k := x / 128
    let t (k : Nat) : Int := (u16 b (cx c + 0x40 + 2 * k) : Nat)
    t k + asr ((t (k + 1) - t k) * ((x - 128 * k : Nat) : Int)) 7
  let r := tone (row 0)
  let g := tone (row 1)
  let bl := tone (row 2)
  let cl (v : Int) : Nat := (clampI 0 255 v).toNat
  (cl (asr (77 * r + 150 * g + 29 * bl + 128) 8), cl (asr (-43 * r - 85 * g + 128 * bl + 128) 8 + 128),
   cl (asr (128 * r - 107 * g - 21 * bl + 128) 8 + 128))

/-- 13 R350: the vision luma of a pixel. -/
def visLuma (p : Nat × Nat × Nat) : Nat := (77 * p.1 + 150 * p.2.1 + 29 * p.2.2) / 256

/-- The floor mean of `f` over the block of side 2^k at (x, y). -/
def boxMean (k x y : Nat) (f : Nat → Nat → Nat) : Nat :=
  let n := 2 ^ k
  ((List.range n).foldl (fun a j => (List.range n).foldl (fun a i => a + f (x * n + i) (y * n + j)) a) 0) / (n * n)

/-! ### Outputs (13 R353 to R355) -/

/-- A row of an output: its byte offset in the buffer, and its bytes. -/
abbrev OutRow := Nat × Bytes

/-- The rows of an output that become complete when source lines [m0, m1) are emitted. -/
def outRows (s : State) (c k : Nat) (l : List PLine) (m0 m1 : Nat) : List OutRow :=
  let b := lpeB s
  let w := cxW b c
  let h := cxH b c
  let st := outStride b c k
  let mode := outMode b c k
  let line (y : Nat) : PLine := lget l y { p0 := [], p1 := [], p2 := [] }
  let ycc (x y : Nat) : Nat × Nat × Nat := colourStage b c (demosaic (cxCfa b c) w h l x y)
  let pix (ds x y i : Nat) : Nat := boxMean ds x y fun x y => let p := ycc x y; if i = 0 then p.1 else if i = 1 then p.2.1 else p.2.2
  let rows (ds : Nat) : List Nat := (List.range (m1 / 2 ^ ds)).drop (m0 / 2 ^ ds)
  if k = 0 then
    let ds := mode % 4
    let wo := w / 2 ^ ds
    (rows ds).map fun y => (y * st, (List.range ((wo + 1) / 2)).flatMap fun i =>
      let a := 2 * i
      let z := min (a + 1) (wo - 1)
      leBytes 1 (pix ds a y 0) ++ leBytes 1 ((pix ds a y 1 + pix ds z y 1) / 2) ++ leBytes 1 (pix ds z y 0) ++
        leBytes 1 ((pix ds a y 2 + pix ds z y 2) / 2))
  else if k = 1 then
    let ds := bits mode 5 4
    let wo := w / 2 ^ ds
    let ho := h / 2 ^ ds
    let mean4 (x y i : Nat) : Nat :=
      let x1 := min (2 * x + 1) (wo - 1)
      let y1 := min (2 * y + 1) (ho - 1)
      (pix ds (2 * x) (2 * y) i + pix ds x1 (2 * y) i + pix ds (2 * x) y1 i + pix ds x1 y1 i) / 4
    if mode % 16 = 3 then
      (rows ds).flatMap fun y =>
        (y * st, (List.range wo).flatMap fun x => leBytes 1 (pix ds x y 0)) ::
          (if y % 2 = 1 ∨ y + 1 = ho then
            [(st * ho + y / 2 * st, (List.range ((wo + 1) / 2)).flatMap fun x =>
              leBytes 1 (mean4 x (y / 2) 1) ++ leBytes 1 (mean4 x (y / 2) 2))]
           else [])
    else []
  else
    (rows 0).map fun y =>
      let p := line y
      (y * st,
       match k with
       | 2 => p.p0.flatMap (leBytes 2)
       | 3 => p.p1.flatMap (leBytes 2)
       | 4 => p.p2.flatMap (leBytes 2)
       | _ => (List.range w).flatMap fun x =>
           let q := demosaic (cxCfa b c) w h l x y
           leBytes 2 q.1 ++ leBytes 2 q.2.1 ++ leBytes 2 q.2.2 ++ leBytes 2 0)

/-- PRESUMED (ISO/IEC 10918-1 Annex K). The typical Huffman tables: class and identifier, counts by length, and values. -/
def dhtTables : List (Nat × List Nat × List Nat) :=
  [(0x00, [0, 1, 5, 1, 1, 1, 1, 1, 1, 0, 0, 0, 0, 0, 0, 0], [0, 1, 2, 3, 4, 5, 6, 7, 8, 9, 10, 11]),
   (0x10, [0, 2, 1, 3, 3, 2, 4, 3, 5, 5, 4, 4, 0, 0, 1, 0x7D],
    [0x01, 0x02, 0x03, 0x00, 0x04, 0x11, 0x05, 0x12, 0x21, 0x31, 0x41, 0x06, 0x13, 0x51, 0x61, 0x07, 0x22, 0x71, 0x14, 0x32, 0x81, 0x91,
     0xA1, 0x08, 0x23, 0x42, 0xB1, 0xC1, 0x15, 0x52, 0xD1, 0xF0, 0x24, 0x33, 0x62, 0x72, 0x82] ++
    [0x09, 0x0A, 0x16, 0x17, 0x18, 0x19, 0x1A, 0x25, 0x26, 0x27, 0x28, 0x29, 0x2A, 0x34, 0x35, 0x36, 0x37, 0x38, 0x39, 0x3A, 0x43, 0x44,
     0x45, 0x46, 0x47, 0x48, 0x49, 0x4A, 0x53, 0x54, 0x55, 0x56, 0x57, 0x58, 0x59, 0x5A, 0x63, 0x64, 0x65, 0x66, 0x67, 0x68, 0x69, 0x6A] ++
    [0x73, 0x74, 0x75, 0x76, 0x77, 0x78, 0x79, 0x7A, 0x83, 0x84, 0x85, 0x86, 0x87, 0x88, 0x89, 0x8A, 0x92, 0x93, 0x94, 0x95, 0x96, 0x97,
     0x98, 0x99, 0x9A, 0xA2, 0xA3, 0xA4, 0xA5, 0xA6, 0xA7, 0xA8, 0xA9, 0xAA, 0xB2, 0xB3, 0xB4, 0xB5, 0xB6, 0xB7, 0xB8, 0xB9, 0xBA] ++
    [0xC2, 0xC3, 0xC4, 0xC5, 0xC6, 0xC7, 0xC8, 0xC9, 0xCA, 0xD2, 0xD3, 0xD4, 0xD5, 0xD6, 0xD7, 0xD8, 0xD9, 0xDA, 0xE1, 0xE2, 0xE3, 0xE4,
     0xE5, 0xE6, 0xE7, 0xE8, 0xE9, 0xEA, 0xF1, 0xF2, 0xF3, 0xF4, 0xF5, 0xF6, 0xF7, 0xF8, 0xF9, 0xFA]),
   (0x01, [0, 3, 1, 1, 1, 1, 1, 1, 1, 1, 1, 0, 0, 0, 0, 0], [0, 1, 2, 3, 4, 5, 6, 7, 8, 9, 10, 11]),
   (0x11, [0, 2, 1, 2, 4, 4, 3, 4, 7, 5, 4, 4, 0, 1, 2, 0x77],
    [0x00, 0x01, 0x02, 0x03, 0x11, 0x04, 0x05, 0x21, 0x31, 0x06, 0x12, 0x41, 0x51, 0x07, 0x61, 0x71, 0x13, 0x22, 0x32, 0x81, 0x08, 0x14,
     0x42, 0x91, 0xA1, 0xB1, 0xC1, 0x09, 0x23, 0x33, 0x52, 0xF0, 0x15, 0x62, 0x72, 0xD1, 0x0A, 0x16, 0x24, 0x34, 0xE1, 0x25, 0xF1] ++
    [0x17, 0x18, 0x19, 0x1A, 0x26, 0x27, 0x28, 0x29, 0x2A, 0x35, 0x36, 0x37, 0x38, 0x39, 0x3A, 0x43, 0x44, 0x45, 0x46, 0x47, 0x48, 0x49,
     0x4A, 0x53, 0x54, 0x55, 0x56, 0x57, 0x58, 0x59, 0x5A, 0x63, 0x64, 0x65, 0x66, 0x67, 0x68, 0x69, 0x6A, 0x73, 0x74, 0x75, 0x76, 0x77] ++
    [0x78, 0x79, 0x7A, 0x82, 0x83, 0x84, 0x85, 0x86, 0x87, 0x88, 0x89, 0x8A, 0x92, 0x93, 0x94, 0x95, 0x96, 0x97, 0x98, 0x99, 0x9A, 0xA2,
     0xA3, 0xA4, 0xA5, 0xA6, 0xA7, 0xA8, 0xA9, 0xAA, 0xB2, 0xB3, 0xB4, 0xB5, 0xB6, 0xB7, 0xB8, 0xB9, 0xBA, 0xC2, 0xC3, 0xC4, 0xC5, 0xC6] ++
    [0xC7, 0xC8, 0xC9, 0xCA, 0xD2, 0xD3, 0xD4, 0xD5, 0xD6, 0xD7, 0xD8, 0xD9, 0xDA, 0xE2, 0xE3, 0xE4, 0xE5, 0xE6, 0xE7, 0xE8, 0xE9, 0xEA,
     0xF2, 0xF3, 0xF4, 0xF5, 0xF6, 0xF7, 0xF8, 0xF9, 0xFA])]

/-- 13 R354: the marker segments before the entropy-coded data: SOI, two DQT, SOF0, four DHT, DRI, SOS (layouts PRESUMED from ISO/IEC
10918-1). -/
def jpegHead (b : Bytes) (c : Nat) : Bytes :=
  let mode := outMode b c 1
  let ds := bits mode 5 4
  let n := if mode % 16 = 2 then 1 else 3
  let hv := if mode % 16 = 0 then 0x22 else if mode % 16 = 1 then 0x21 else 0x11
  let dqt (i : Nat) : Bytes := beBytes 2 0xFFDB ++ beBytes 2 67 ++ leBytes 1 i ++ ((b.drop (0x80 + 64 * i)).take 64)
  let dht := dhtTables.flatMap fun t =>
    beBytes 2 0xFFC4 ++ beBytes 2 (19 + t.2.2.length) ++ leBytes 1 t.1 ++ (t.2.1 ++ t.2.2).flatMap (leBytes 1)
  let sof := beBytes 2 0xFFC0 ++ beBytes 2 (8 + 3 * n) ++ leBytes 1 8 ++ beBytes 2 (cxH b c / 2 ^ ds) ++ beBytes 2 (cxW b c / 2 ^ ds) ++
    leBytes 1 n ++ (List.range n).flatMap fun i => leBytes 1 (i + 1) ++ leBytes 1 (if i = 0 then hv else 0x11) ++ leBytes 1 (min i 1)
  let rst := u16 b (ox c 1 + 0x14)
  let dri := if rst = 0 then [] else beBytes 2 0xFFDD ++ beBytes 2 4 ++ beBytes 2 rst
  let sos := beBytes 2 0xFFDA ++ beBytes 2 (6 + 2 * n) ++ leBytes 1 n ++
    ((List.range n).flatMap fun i => leBytes 1 (i + 1) ++ leBytes 1 (if i = 0 then 0 else 0x11)) ++ [0, 63, 0]
  beBytes 2 0xFFD8 ++ dqt 0 ++ dqt 1 ++ sof ++ dht ++ dri ++ sos

/-- The bytes that stripe `k` adds to the JPEG stream of a frame: the head with the first stripe, entropy-coded data whose length and
bytes are free values, and EOI with the last. `done` entropy-coded bytes came before. -/
def jpegPart (b : Bytes) (c frame k : Nat) (done : Nat) (last : Bool) : Bytes :=
  let head := if k = 0 then jpegHead b c else []
  let at_ := if k = 0 then 0 else done - (jpegHead b c).length
  head ++ ((List.range (Config.jpegLength c frame k)).map fun i => Config.jpegByte c frame (at_ + i)) ++ (if last then beBytes 2 0xFFD9 else [])

/-- Rows of output `k` of a frame go to memory or to the output's stream, where they count as produced at the word's FINISH `fin`; what
lies beyond SIZE is discarded. The answer says whether anything was. -/
def putRows (s : State) (c frame k buf fin : Nat) (rows : List OutRow) : State × Bool :=
  let b := lpeB s
  let size := outSize b c k
  rows.foldl (fun (a : State × Bool) r =>
    let data := r.2.take (size - r.1)
    let cut := a.2 || data.length < r.2.length
    if data.isEmpty then (a.1, cut)
    else if outFixed b c k then (modCtx a.1 c fun x => { x with q := x.q ++ [(frame, k, 256 * fin, data)] }, cut)
    else (unitWrite a.1 18 (u8 b (ox c k + 2)) (outBase b c k + buf * size + r.1) data (.out c frame), cut)) (s, false)

/-! ### PROCESS (13 R351) -/

/-- The stripe that a PROCESS word takes, by its place among the delivered ones. -/
def pickStripe (s : State) (p : Nat) : Option Nat :=
  let l := s.lpe.stripes
  let idx (f : Stripe → Bool) : Option Nat := firstIdx l.length fun i => match l[i]? with | some t => f t | none => false
  if bitAt p 59 then
    let r := bits p 56 56
    match (rxAt s r).last with
    | some (c, f) => idx fun t => t.rx == r && t.ctx == c && t.frame == f
    | none => idx fun t => t.rx == r
  else idx fun t => t.ctx == bits p 58 56

/-- 13 R350: the vision rows that become complete when source lines [m0, m1) are emitted. -/
def visRows (s : State) (c vbuf : Nat) (l : List PLine) (m0 m1 : Nat) : State :=
  let b := lpeB s
  let k := cxVbin b c
  let vw := cxVw b c
  let size := vw * cxVh b c * 2
  ((List.range (m1 / 2 ^ k)).drop (m0 / 2 ^ k)).foldl (fun s y =>
    let row := (List.range vw).flatMap fun x =>
      leBytes 2 (boxMean k x y fun x y => visLuma (demosaic (cxCfa b c) (cxW b c) (cxH b c) l x y))
    visPut s (cxVoff b c + vbuf * size + 2 * vw * y) row) s

/-- The frame of a stripe in the pipeline. -/
def frameFor (s : State) (t : Stripe) : PFrame :=
  let x := ctxAt s t.ctx
  match x.cur with
  | some f => if t.k = 0 then { f with frame := t.frame, etc := t.etc, damaged := t.damaged, unsync := t.unsync, full := t.full, trunc := false,
                                       buf := x.buf, vbuf := x.vbuf, k := 0, lines := [], jpeg := 0 }
              else { f with damaged := f.damaged || t.damaged, full := f.full || t.full }
  | none => { frame := t.frame, etc := t.etc, damaged := t.damaged, unsync := t.unsync, full := t.full, trunc := false,
              buf := x.buf, vbuf := x.vbuf, k := 0, lines := [], jpeg := 0 }

/-- The output buffer of a frame: alternating where the output has two. -/
def bufOf (b : Bytes) (c k buf : Nat) : Nat := if outNbuf b c k = 2 then buf else 0

/-- 13 R349 to R355: one stripe goes through the pipeline; its word is `word` and its FINISH `fin`. -/
def processStripe (s : State) (t : Stripe) (word : Option Nat) (fin : Nat) : State :=
  let b := lpeB s
  let c := t.ctx
  let (s, grid) := shadeGrid s c word
  let f0 := frameFor s t
  let n0 := f0.lines.length
  let lines := f0.lines ++ t.lines.zipIdx.map fun (px, i) => stages123 b grid c (n0 + i) px
  let last := decide (cxH b c ≤ lines.length)
  let m0 := n0 - 1
  let m1 := if last then cxH b c else lines.length - 1
  let s := if cxRole b c = 0 then s else visRows s c f0.vbuf lines m0 m1
  let (s, trunc) := (List.range 6).foldl (fun (a : State × Bool) k =>
    if !outEn b c k then a
    else
      let rows := if k = 1 ∧ outMode b c 1 % 16 < 3 then [(f0.jpeg, jpegPart b c f0.frame t.k f0.jpeg last)]
                  else outRows a.1 c k lines m0 m1
      let r := putRows a.1 c f0.frame k (bufOf b c k f0.buf) fin rows
      (r.1, a.2 || r.2)) (s, f0.trunc)
  let jn := if outEn b c 1 ∧ outMode b c 1 % 16 < 3 then f0.jpeg + (jpegPart b c f0.frame t.k f0.jpeg last).length else f0.jpeg
  let f := { f0 with lines := lines, k := t.k + 1, trunc := trunc, jpeg := jn }
  let s := modRx s t.rx fun x => { x with
    free := if t.place then x.free ++ [256 * fin] else x.free
    last := if last then none else some (c, f.frame) }
  let s := { s with lpe := { s.lpe with ctxLast := some c } }
  if last then
    modCtx s c fun x => { x with
      cur := none, buf := 1 - x.buf, vbuf := if cxRole b c = 0 then x.vbuf else 1 - x.vbuf
      vis := if cxRole b c = 0 then x.vis
             else ({ vbuf := f.vbuf, etc := f.etc, bad := f.damaged || f.unsync, tc := s.tsq.tc, fin := fin, used := false } :: x.vis).take 2
      fin := x.fin ++ [{ f with lines := [] }]
      unsync := if f.unsync then sat16 x.unsync else x.unsync
      damaged := if f.damaged then sat16 x.damaged else x.damaged
      trunc := if f.trunc then sat16 x.trunc else x.trunc }
  else modCtx s c fun x => { x with cur := some f }

/-- 13 R351: the cycles that a stripe of context `c` takes, a change of context included (assumption log entry 153). -/
def processCost (s : State) (c : Nat) : Nat :=
  (match s.lpe.ctxLast with | some o => if o = c then 0 else 2048 | none => 0) + 64 * (cdiv (cxW (lpeB s) c) 2 + 16)

/-- 13 R351: a PROCESS word at place `i` of the walk; it is complete once its stripe is through, or in the next cycle where it finds none. -/
def processWord (s : State) (i : Nat) (d : Disp) : State :=
  match (pickStripe s d.payload).bind fun k => (s.lpe.stripes[k]?).map fun t => (k, t) with
  | none => doneDispAt s i (s.clk.cyc + 1)
  | some (k, t) =>
    processStripe { doneDispAt s i (s.clk.cyc + processCost s t.ctx) with lpe := { s.lpe with stripes := s.lpe.stripes.eraseIdx k } } t
      (some d.word) d.finish

/-- 13 R356: every write of a frame's streams has completed: the elastic ones are answered, and the fixed ones taken by WRITE words. -/
def frameWritten (s : State) (c frame : Nat) : Bool :=
  !((ctxAt s c).q.any fun p => p.1 == frame) && !(s.fab.xfers.any fun x => x.job == .out c frame)

/-- 13 R356: the oldest finished frame whose streams are written gets its record. -/
def frameDoneNow (s : State) (c : Nat) : State :=
  match (ctxAt s c).fin with
  | [] => s
  | f :: r =>
    if !frameWritten s c f.frame then s
    else
      let b := lpeB s
      let flags := b2n f.damaged + 2 * b2n f.unsync + 4 * b2n f.full + 8 * b2n f.trunc
      let two := (List.range 6).any fun k => outEn b c k && outNbuf b c k == 2
      let jb := if outEn b c 1 then min f.jpeg (outSize b c 1) else 0
      modCtx s c fun x => { x with
        fin := r, count := sat32 x.count
        done := [f.frame, flags * 2 ^ 28 + (if two then f.buf else 0) * 2 ^ 24, jb, 0, f.etc % 2 ^ 32, f.etc / 2 ^ 32 % 2 ^ 32,
                 s.tsq.tc % 2 ^ 32, s.tsq.tc / 2 ^ 32 % 2 ^ 32] }

/-! ### METRIC (13 R357, R358) -/

/-- A pixel of vision frame `buf` of context `c`. -/
def visPix (s : State) (c buf x y : Nat) : Nat :=
  let b := lpeB s
  let a := cxVoff b c + buf * (cxVw b c * cxVh b c * 2) + 2 * (y * cxVw b c + x)
  (visByte s a).toNat + 256 * (visByte s (a + 1)).toNat

/-- The newest vision frame that was complete before slot `slot` of the running tick. -/
def visNewest (s : State) (c slot : Nat) : Option VFrame :=
  (ctxAt s c).vis.find? fun v => decide (v.tc < s.tsq.tc ∨ (v.tc = s.tsq.tc ∧ v.fin < slot))

/-- The newest map handed to Aperture before slot `slot` of the running tick. -/
def mapBefore (s : State) (slot : Nat) : Option PMap :=
  let ok (m : PMap) : Bool := decide (m.tc < s.tsq.tc ∨ m.cyc < 256 * slot)
  match s.lpe.map with
  | some m => if ok m then some m else s.lpe.mapWas.filter ok
  | none => none

/-- A rectangle of the segment table: X0, Y0, X1, Y1. -/
def segRect (t : Bytes) (o : Nat) : List Nat := (List.range 4).map fun i => u16 t (o + 2 * i)
def rectArea (r : List Nat) : Nat := (lget r 2 0 - lget r 0 0) * (lget r 3 0 - lget r 1 0)
def rectIn (r : List Nat) (w h : Nat) : Bool := rectArea r != 0 && decide (lget r 2 0 ≤ w) && decide (lget r 3 0 ≤ h)
def rectPix (s : State) (c buf : Nat) (r : List Nat) : List Nat :=
  (List.range (lget r 3 0 - lget r 1 0)).flatMap fun j => (List.range (lget r 2 0 - lget r 0 0)).map fun i =>
    visPix s c buf (lget r 0 0 + i) (lget r 1 0 + j)
def meanOf (l : List Nat) : Nat := if l.isEmpty then 0 else l.foldl (· + ·) 0 / l.length

/-- 13 R358: the record of one entry. The contrast of a rectangle that is empty or leaves the frame is a free value; its record is not
valid. -/
def metricEntry (s : State) (c slot : Nat) (v : VFrame) (t : Bytes) : Contrast :=
  let b := lpeB s
  let wr := segRect t 8
  let gr := segRect t 0x10
  let inside := rectIn wr (cxVw b c) (cxVh b c) && rectIn gr (cxVw b c) (cxVh b c)
  let zone := u16 t 2
  let blocked := match mapBefore s slot with
    | some m => !m.valid || (bitAt zone 15 && bitAt (lget m.occ (bits zone 10 9) 0) (bits zone 8 0))
    | none => true
  if !inside then { seg := u16 t 0, c := Config.openContrast t v.etc % 65536, valid := false, blocked := blocked, tc := v.etc }
  else
    let wp := rectPix s c v.vbuf wr
    let gp := rectPix s c v.vbuf gr
    let ls := meanOf wp
    let lr := meanOf gp
    let con := if lr ≤ ls then 0 else min 65535 (65536 * (lr - ls) / lr)
    let sat := (wp ++ gp).any fun p => u16 b (cx c + 0x9A) ≤ p
    let ok := !blocked && !v.bad && decide (u16 b (cx c + 0x98) ≤ lr) && !sat
    { seg := u16 t 0, c := con, valid := ok, blocked := blocked, tc := v.etc }

/-- Entries one after another, `t` being the cycle at which the next one starts; the answer says when the last one ends. -/
def metricRun (c slot finish : Nat) (v : VFrame) : Nat → List Bytes → State → State × Nat
  | t, [], s => (s, t)
  | t, e :: r, s =>
    let t' := t + 32 + cdiv (rectArea (segRect e 8) + rectArea (segRect e 0x10)) 4
    if 256 * finish < t' then ({ s with lpe := { s.lpe with skipped := satAdd 65535 s.lpe.skipped (r.length + 1) } }, t)
    else
      let k := metricEntry s c slot v e
      let s := { s with lpe := { s.lpe with recs := s.lpe.recs ++ [k], records := sat16 s.lpe.records } }
      let s := digLog s 7 t' 0 (leBytes 2 k.seg ++ leBytes 2 k.c ++ leBytes 1 (b2n k.valid + 2 * b2n k.blocked) ++ leBytes 8 k.tc)
      metricRun c slot finish v t' r s

/-- 13 R357, R358: the entries of the segment table that a METRIC word takes, by fixed reads of the vision unit. -/
def segEntries (s : State) (d : Disp) : State × List Bytes :=
  let p := d.payload
  let base := regBase (inputsB s) (u8 (lpeB s) (cx (bits p 58 56) + 0x92))
  let (s, h, _) := fixedGet s 0x22 (some d.word) base 16
  let first := bits p 55 44
  let n := min (first + bits p 43 31) (u16 h 0) - first
  if n = 0 then (s, [])
  else
    let (s, t, _) := fixedGet s 0x22 (some d.word) (base + 16 + 32 * first) (32 * n)
    (s, (List.range n).map fun i => (t.drop (32 * i)).take 32)

/-- 13 R358: a METRIC word at place `i` of the walk; it is complete where its last entry ends. With no vision frame it has no effect (assumption
log entry 153). -/
def metricWord (s : State) (i : Nat) (d : Disp) : State :=
  let c := bits d.payload 58 56
  match visNewest s c d.slot with
  | none => doneDispAt s i (s.clk.cyc + 1)
  | some v =>
    let (s, l) := segEntries s d
    let (s, t) := metricRun c d.slot d.finish v (max (256 * d.slot) s.clk.cyc) l s
    doneDispAt s i t

/-! ### PRESENCE (13 R360, R361) -/

/-- The engines and zones that an entry of the zone map names, as 512 * engine + zone. -/
def zonesOf (t : Bytes) : List Nat :=
  (List.range 4).filterMap fun e => let v := u16 t (2 * e); if bitAt v 15 then some (512 * e + bits v 8 0) else none

/-- The vision pixels of block `i`, as x and y. -/
def blockPix (vw vh i : Nat) : List (Nat × Nat) :=
  let bw := (vw + 7) / 8
  let x0 := i % bw * 8
  let y0 := i / bw * 8
  (List.range (min 8 (vh - y0))).flatMap fun j => (List.range (min 8 (vw - x0))).map fun k => (x0 + k, y0 + j)

/-- 13 R360: how many blocks of 8 x 8 vision pixels a context has. -/
def nBlocks (b : Bytes) (c : Nat) : Nat := (cxVw b c + 7) / 8 * ((cxVh b c + 7) / 8)

/-- 13 R360: the cycles that a PRESENCE word of context `c` takes. -/
def presenceCost (b : Bytes) (c : Nat) : Nat := cdiv (cxVw b c * cxVh b c) 4 + cdiv (nBlocks b c) 2 + 64

/-- 13 R360: a PRESENCE word at place `i` of the walk. The map waits for the word's FINISH. -/
def presenceWord (s : State) (i : Nat) (d : Disp) : State :=
  let c := bits d.payload 58 56
  match visNewest s c d.slot with
  | none => doneDispAt s i (s.clk.cyc + 1)
  | some v =>
    if v.used then doneDispAt s i (s.clk.cyc + 1)
    else
      let s := doneDispAt s i (s.clk.cyc + presenceCost (lpeB s) c)
      let (s, zmap, _) := fixedGet s 0x22 (some d.word) (regBase (inputsB s) (u8 (lpeB s) (cx c + 0x91))) (8 * nBlocks (lpeB s) c)
      let b := lpeB s
      let vw := cxVw b c
      let vh := cxVh b c
      let first := !(ctxAt s c).bg
      let blocks := (List.range (nBlocks b c)).map fun i => (zonesOf ((zmap.drop (8 * i)).take 8), blockPix vw vh i)
      let pix (x y : Nat) : Nat := visPix s c v.vbuf x y
      let bg (x y : Nat) : Nat := if first then pix x y else visPix s c 2 x y
      let diff (x y : Nat) : Nat := ((pix x y : Int) - bg x y).natAbs
      let thr := u16 b (cx c + 0x94)
      let counts := blocks.foldl (fun (m : Amap) p =>
        let n := (p.2.filter fun q => thr ≤ diff q.1 q.2).length
        p.1.foldl (fun m z => aset m z (alook m z + n)) m) []
      let occupied (z : Nat) : Bool := !ahas counts z || decide (u16 b (cx c + 0x96) ≤ alook counts z)
      let occ := (List.range 4).map fun e => maskOf (idxWhere 512 fun z => occupied (512 * e + z))
      let shift := u8 b (cx c + 0x93)
      let new := blocks.foldl (fun s p =>
        if first ∨ p.1.all (fun z => !occupied z) then
          p.2.foldl (fun s q =>
            let o : Int := bg q.1 q.2
            let n := o + asr ((pix q.1 q.2 : Int) - o) shift
            visPut s (cxVoff b c + 2 * (vw * vh * 2) + 2 * (q.2 * vw + q.1)) (leBytes 2 (if first then pix q.1 q.2 else n.toNat))) s
        else s) s
      let m : PMap := { ctx := c, etc := v.etc, valid := !first && !v.bad, occ := occ, tc := s.tsq.tc, cyc := 256 * d.finish }
      let s := modCtx new c fun x => { x with bg := true, vis := x.vis.map fun w => if w = v then { w with used := true } else w }
      let s := { s with lpe := { s.lpe with mapNext := some m } }
      (List.range 4).foldl (fun s e =>
        digLog s 7 (256 * d.finish) (1 + e) (leBytes 1 e ++ leBytes 8 m.etc ++ leBytes 64 (lget m.occ e 0))) s

/-- 13 R361: the map is handed to Aperture at the PRESENCE word's FINISH. Aperture never takes one that is not valid as fresh and so keeps the newest valid one (14
R371, R372). -/
def mapHandoverNow (s : State) : State :=
  match s.lpe.mapNext with
  | none => s
  | some m =>
    { s with lpe := { s.lpe with mapNext := none, mapWas := s.lpe.map, map := some m }
             saf := { s.saf with eng := if m.valid then s.saf.eng.zipIdx.map fun (x, e) => { x with mapOk := true, mapEtc := m.etc, mapOcc := lget m.occ e 0 }
                                        else s.saf.eng } }

/-! ### Boundary, apply point, domains -/

/-- A new tick: places freed in the tick that ends are free, its streams are produced. -/
def lpeTick (s : State) : State :=
  { s with lpe := { s.lpe with
      trig := [], recs := []
      rx := s.lpe.rx.map fun x => { x with free := [] }
      ctx := s.lpe.ctx.map fun x => { x with q := x.q.map fun p => (p.1, p.2.1, 0, p.2.2.2) } } }

/-- The apply point: the background is to be set anew (13 R360). -/
def lpeApplyPoint (s : State) : State :=
  { s with lpe := { s.lpe with ctx := s.lpe.ctx.map fun x => { x with bg := false } } }

/-! ### Registers (13 R363) -/

/-- What LPE_CTL.SNAP copies: the last frame-done record, which is no schedule-produced result (R356), and the newest map of the last boundary (00
R14). -/
def lpeSnap (s : State) : State :=
  let ctl := rwGet s Base.lpe 0
  let x := ctxAt s (bits ctl 10 8)
  match s.shown.lpe.map with
  | some m =>
    let occ := lget m.occ (bits ctl 17 16) 0
    { s with lpe := { s.lpe with
        frSn := x.done
        pmInfo := [b2n m.valid * 2 ^ 31 + m.ctx, m.etc % 2 ^ 32, m.etc / 2 ^ 32 % 2 ^ 32]
        pmSn := (List.range 16).map fun i => bits occ (32 * i + 31) (32 * i) } }
  | none => { s with lpe := { s.lpe with frSn := x.done, pmInfo := [0, 0, 0], pmSn := List.replicate 16 0 } }

def lpeRead (s : State) (off : Nat) : Nat :=
  let b := lpeB s
  let z := s.shown.lpe
  if off = 4 then (match z.ctxLast with | some c => 8 + c | none => 0)
  else if off = 0x10 ∨ off = 0x14 then 
    let r := (off - 0x10) / 4
    b2n (rxAt s r).up * 2 ^ 31 + Config.csiLanes r s.clk.mclk % 2 ^ u8 b (0x41 + 32 * r)
  else if off = 0x18 ∨ off = 0x1C then
    let x := rxAt s ((off - 0x18) / 4)
    x.eccCor * 2 ^ 24 + x.eccBad * 2 ^ 16 + x.crc * 2 ^ 8 + x.other
  else if off = 0x20 ∨ off = 0x24 then
    let r := (off - 0x20) / 4
    (rxAt s r).drops * 2 ^ 16 + storePlaces s r % 256 * 2 ^ 8 + storeUsed s r % 256
  else if 0x40 ≤ off ∧ off < 0x60 then lget s.lpe.frSn ((off - 0x40) / 4) 0
  else if 0x80 ≤ off ∧ off < 0x8C then lget s.lpe.pmInfo ((off - 0x80) / 4) 0
  else if off = 0x90 then z.records * 65536 + z.skipped
  else if 0xC0 ≤ off ∧ off < 0x100 then lget s.lpe.pmSn ((off - 0xC0) / 4) 0
  else if 0x100 ≤ off ∧ off < 0x200 then
    let c := (off - 0x100) / 0x20
    let x := lget z.ctx c {}
    let y := ctxAt s c
    match off % 0x20 with
    | 0x00 => if !cxEn b c then 0 else
        2 ^ 31 + cxRx b c % 2 * 2 ^ 30 + cxVc b c % 4 * 2 ^ 28 + cxRole b c % 4 * 2 ^ 26 + cxH b c % 2 ^ 13 * 2 ^ 13 + cxW b c % 2 ^ 13
    | 0x04 => x.pulses % 2 ^ 11 * 2 ^ 21 + x.groups.length % 32 * 2 ^ 16 +
        (z.stripes.filter fun t => t.ctx == c).length % 256 * 2 ^ 8 + (match x.cur with | some f => f.k % 256 | none => 0)
    | 0x08 => y.count
    | 0x0C => x.unsync * 65536 + x.damaged
    | 0x10 => y.trunc * 65536 + y.zfill
    | _ => 0
  else 0

end Sys2Proof.Machine
end

