-- ==== Sys2Proof/Machine/Saf.lean ====
section
/-! DEFINITION. Aperture: ceilings and the SAFETY section, permission and the laser enables, triggers and Dark, re-arm, registers (14
R365 to R388). -/

namespace Sys2Proof.Machine

/-! ### SAFETY (14 R368) and the caps in force (14 R376) -/

/-- The SAFETY values that Aperture works by: the configuration's; after a reset other than PORST_N, until an image is applied, those it keeps
(14 R388, 18 R481). -/
def safB (s : State) : Bytes := (secIn s.fld.secs Ty.safety 0).getD s.saf.kept
/-- ROLE of a channel. -/
def sfRole (b : Bytes) (n : Nat) : Nat := u8 b (0x40 + 512 * (n / 4) + 8 * (n % 4))
def sfMapAge (b : Bytes) : Nat := u16 b 0
def sfHold (b : Bytes) : Nat := u16 b 4
/-- Where the entry of channel `n` and that of engine `e` start. -/
def sfChAt (n : Nat) : Nat := 0x40 + 512 * (n / 4) + 8 * (n % 4)
def sfAt (e : Nat) : Nat := 0x40 + 512 * e
def sfOpenOk (b : Bytes) (n : Nat) : Bool := bitAt (u8 b (sfChAt n + 2)) 0
/-- MON, the sense input of the channel's monitor photodiode; 0xFF means none. -/
def sfMon (b : Bytes) (n : Nat) : Nat := u8 b (sfChAt n + 1)
def sfOpenCap (b : Bytes) (n : Nat) : Nat := u16 b (sfChAt n + 4)
def sfClearCap (b : Bytes) (n : Nat) : Nat := u16 b (sfChAt n + 6)
def sfScanOk (b : Bytes) (e : Nat) : Nat := u8 b (sfAt e + 0x22)
def sfMargin (b : Bytes) (e : Nat) : Nat := u8 b (sfAt e + 0x23)
def sfScanTo (b : Bytes) (e : Nat) : Nat := u16 b (sfAt e + 0x24)
def sfRowb (b : Bytes) (e i : Nat) : Nat := u16 b (sfAt e + 0x40 + 2 * i)
def sfColb (b : Bytes) (e i : Nat) : Int := i16 b (sfAt e + 0x80 + 2 * i)

/-- 14 R376: the live BENCH_N is low. -/
def benchNow (s : State) : Bool := !s.boot.benchLive

/-- 14 R376: a cap as bench mode scales it; every cap in force is 0 while CEILOK is 0 (12 R318). -/
def capNow (s : State) (c : Nat) : Nat := if !ceilOk s then 0 else if benchNow s then c * ceil16 s 0x4A / 65536 else c

def openCap (s : State) (n : Nat) : Nat := capNow s (sfOpenCap (safB s) n)
def clearCap (s : State) (n : Nat) : Nat := capNow s (sfClearCap (safB s) n)

/-! ### Zones (14 R371 to R374) -/

def safEng (s : State) (e : Nat) : SafEng := lget s.saf.eng e {}
def modSafEng (s : State) (e : Nat) (f : SafEng → SafEng) : State := { s with saf := { s.saf with eng := lmod s.saf.eng e f } }

/-- 14 R371, R372: the newest map of engine `e` is fresh. -/
def mapFresh (s : State) (e : Nat) : Bool :=
  let x := safEng s e
  x.mapOk && decide (x.mapEtc ≤ s.saf.ltc) && decide (s.saf.ltc - x.mapEtc ≤ sfMapAge (safB s)) && !(safB s).isEmpty

/-- 14 R372: the zones of engine `e` that are clear. -/
def clearZones (s : State) (e : Nat) : Nat := if mapFresh s e then clrMask (2 ^ 512 - 1) (safEng s e).mapOcc else 0

/-- 14 R372: every map is discarded. -/
def mapsDrop (s : State) : State :=
  { s with saf := { s.saf with eng := s.saf.eng.map fun x => { x with mapOk := false } } }

/-- 14 R373: the row of the beam. -/
def beamRow (s : State) (e : Nat) : Option Nat :=
  let b := safB s
  let v := (safEng s e).slow
  firstIdx 16 fun r => sfRowb b e r ≤ v && v < sfRowb b e (r + 1)

/-- 14 R373: the column at phase φ. -/
def colOf (b : Bytes) (e f : Nat) : Option Nat :=
  let p : Int := if f < 16384 then f else if f < 49152 then 32768 - (f : Int) else (f : Int) - 65536
  firstIdx 32 fun c => sfColb b e c ≤ p && p < sfColb b e (c + 1)

/-- The zone of the beam of engine `e` at `t` ACLK cycles after the last rising crossing; none outside the grid, past one period
and while no period has been measured. -/
def zoneAt (s : State) (e t : Nat) : Option Nat :=
  let x := safEng s e
  if x.pa = 0 ∨ x.pa ≤ t then none
  else match beamRow s e, colOf (safB s) e (65536 * t / x.pa) with
    | some r, some c => some (32 * r + c)
    | _, _ => none

/-- 14 R373: whether the level of a scanner is CLEAR now: its zone is clear, and so is every zone within MARGIN. -/
def scanClear (s : State) (e : Nat) : Bool :=
  let x := safEng s e
  match x.lastRise with
  | none => false
  | some r =>
    let t := s.clk.aclk - r
    let z := clearZones s e
    let m := sfMargin (safB s) e
    (match zoneAt s e t with | some i => bitAt z i | none => false) &&
      (List.range (2 * m + 1)).all fun k => match zoneAt s e ((t + x.pa + k - m) % x.pa) with | some i => bitAt z i | none => true

/-- 14 R374: whether the level of an engine is CLEAR now (R376 grants none under an untrusted image). -/
def engClear (s : State) (e : Nat) : Bool :=
  !s.fld.untrusted && (if engKind s e = 2 then scanClear s e else engKind s e == 1 && clearZones s e == 2 ^ 512 - 1)

/-! ### Permission (14 R370) -/

/-- 16 Table 16-8: SYS_STATE.ROLE is solo or lead. -/
def mayEmit (s : State) : Bool := s.twn.st == 0 || isLead s

/-- 14 R370: the enable of channel `n` that Aperture drives now, and whether its level is CLEAR. -/
def lenLevel (s : State) (n : Nat) : Bool × Bool :=
  let e := n / 4
  let clear := engClear s e && !s.boot.fallback
  (!s.saf.dark && mayEmit s && bitAt s.saf.ena n && engKind s e != 0 && chanRole s n != 0 && ceilOk s && trimOk s &&
     roleEmits s e (chanRole s n) && (engKind s e != 2 || ((safEng s e).qual && !(safEng s e).park)) &&
     (clear || sfOpenOk (safB s) n), clear)

/-- One enable driven as R370 says; a change is an event that the guard stamps (08 R233, 18 Table 18-5). -/
def lenDrive (s : State) (n : Nat) : State :=
  let (hi, clear) := lenLevel s n
  let was := bitAt s.saf.drive n
  let s := { s with saf := { s.saf with
      drive := setBit s.saf.drive n hi, clear := setBit s.saf.clear n (hi && clear)
      clearAt := if bitAt s.saf.clear n && !(hi && clear) then lmod s.saf.clearAt n fun _ => some s.clk.aclk else s.saf.clearAt } }
  if was = hi then s
  else srcEvent { s with lse := { s.lse with lenEv := s.lse.lenEv ++ [(n, s.clk.cyc, hi)] } } 0x09 n (b2n hi)

/-- 14 R377: the zones in which engine `e` emits under CLEAR now: on a scanner every clear zone of its row, as a sweep takes far less
than a tick; on an array engine one account stands for all (assumption log entry 20). -/
def litNow (s : State) (e : Nat) : List Nat :=
  if (List.range 4).any fun c => bitAt s.saf.clear (4 * e + c) then
    if engKind s e = 2 then
      match beamRow s e with
      | some r => (idxWhere 32 fun c => bitAt (clearZones s e) (32 * r + c)).map (32 * r + ·)
      | none => []
    else [0]
  else []

/-- The zones that engine `e` lights are noted with the tick. -/
def noteLit (s : State) (e : Nat) : State :=
  modSafEng s e fun x => { x with lit := (litNow s e).foldl (fun m z => aset m z s.saf.ltc) x.lit }

/-- Every enable driven as R370 says, and the zones that they light noted. -/
def lenStep (s : State) : State := (List.range 4).foldl noteLit ((List.range 16).foldl lenDrive s)

/-! ### Triggers (14 R377 to R380) -/

/-- 14 R383: REARMHOLD in ACLK cycles, and whether it has yet to pass. -/
def holdCycles (s : State) : Nat := sfHold (safB s) * 20000
def holding (s : State) : Bool :=
  match s.saf.lastTrig with | some t => decide (s.clk.aclk < t + holdCycles s) | none => false

/-- Aperture parks, or releases, every scanner engine. -/
def parkAll (s : State) (level : Bool) : State :=
  (List.range 4).foldl (fun s e => if engKind s e = 2 then parkChange s e level else s) s

/-- 14 R384: no engine is qualified. -/
def unqualify (s : State) : State :=
  { s with saf := { s.saf with eng := s.saf.eng.map fun x => { x with qual := false, good := 0 } } }

/-- The apply of a base image: every scanner engine is unqualified (14 R384), and parked while Dark stands (01 Table 1-2). -/
def safApply (s : State) : State :=
  let s := { s with saf := { s.saf with kept := safB s, scanners := maskOf (idxWhere 4 fun e => engKind s e == 2) } }
  parkAll (unqualify s) s.saf.dark

/-- A log entry (14 R380, R387). -/
def safLog (s : State) (code tcode chan zone : Nat) : State :=
  let v := s.clk.on && !bitAt s.saf.cond 7
  let l : SafLog := { code := code, tcode := tcode, chan := chan, stampv := v, wasdark := s.saf.dark, zone := zone,
                      cycle := if v then s.clk.cyc else 0, tc := if v then s.saf.ltc else 0, aclk := s.clk.aclk }
  { s with saf := { s.saf with log := (l :: s.saf.log).take 16, logTotal := (s.saf.logTotal + 1) % 2 ^ 32 } }

/-- 14 R378, R379: a trigger. -/
def fire (s : State) (code tcode chan zone : Nat) : State :=
  let s := safLog s code tcode chan zone
  let s := { s with saf := { s.saf with
      cause := if s.saf.dark then s.saf.cause else code
      dark := true, cnt := lmod s.saf.cnt code sat32, lastTrig := some s.clk.aclk } }
  parkAll (unqualify s) true

/-- A trigger condition of Table 14-3 appears or ends. -/
def setCond (s : State) (code : Nat) (b : Bool) : State := { s with saf := { s.saf with cond := setBit s.saf.cond code b } }

/-- 14 R383: the interlock is recognised closed. -/
def interlockClosedNow (s : State) : State :=
  let s := setCond (setCond s 1 false) 2 false
  { s with saf := { s.saf with
      a := true, b := false, ist := 0
      closedAt := some (s.saf.closedAt.getD s.clk.aclk)
      intFault := s.saf.intFault && !s.saf.opened, opened := false } }

/-- Code 1: the interlock is recognised open. -/
def intlkOpenNow (s : State) : State :=
  let s := setCond (setCond s 2 false) 1 true
  fire { s with saf := { s.saf with a := false, b := true, ist := 1, closedAt := none, opened := true } } 1 0 0 0

/-- Code 2: the interlock has been discrepant for DISCREP; `lvl` is the level of both inputs. -/
def intlkDiscNow (s : State) (lvl : Bool) : State :=
  let s := setCond (setCond s 1 false) 2 true
  fire { s with saf := { s.saf with a := lvl, b := lvl, ist := 2, closedAt := none, intFault := true, opened := false } } 2 0 0 0

/-- Whether an enable of engine `e` is high. -/
def engLit (s : State) (e : Nat) : Bool := (List.range 4).any fun c => bitAt s.saf.drive (4 * e + c)

/-- Code 3: a scanner is lost, which counts only while one of its enables is high. -/
def scanlossNow (s : State) (e : Nat) : State :=
  if engKind s e = 2 ∧ engLit s e then fire s 3 0 (4 * e) 0 else s

/-- Code 10: BENCH_N is recognised at a level. -/
def strapNow (s : State) (level : Bool) : State :=
  let s := { s with boot := { s.boot with benchLive := level } }
  let differs := level != bitAt s.boot.straps 3
  let s := setCond s 10 differs
  if differs then fire s 10 0 0 0 else s

/-- Code 11: a LEN ball reads back a level for 20 Aperture cycles. -/
def lenfaultNow (s : State) (n : Nat) (ball : Bool) : State :=
  let bad := ball != bitAt s.saf.drive n
  let s := { s with saf := { s.saf with stuck := setBit s.saf.stuck n bad } }
  let s := setCond s 11 (s.saf.stuck != 0)
  if bad then fire { s with saf := { s.saf with lenFlt := true } } 11 0 n 0 else s

/-- 14 R375: the cap that the monitor of channel `n` is compared with: CLEARCAP while the enable is, or within the last 40 Aperture cycles was,
high under CLEAR. -/
def monCap (s : State) (n : Nat) : Nat :=
  let recent : Bool := match lget s.saf.clearAt n none with | some t => decide (s.clk.aclk ≤ t + 40) | none => false
  if bitAt s.saf.clear n ∨ recent then clearCap s n else openCap s n

/-- Code 4: the monitor of channel `n` has stood at `lvl` for 20 Aperture cycles; code k is the threshold k / 1024 of full scale (14 R367). A
channel without a role, or without a monitor, is not compared. The condition stands until a level within the cap is reported. -/
def overpowerNow (s : State) (n lvl : Nat) : State :=
  let high := decide (n < 16 ∧ sfRole (safB s) n ≠ 0 ∧ sfMon (safB s) n ≠ 0xFF ∧ 64 * monCap s n < lvl)
  let s := if n < 16 then { s with saf := { s.saf with above := setBit s.saf.above n high } } else s
  if high then fire s 4 0 n 0 else s

/-- Codes 6 and 7: the timebase is lost; the condition stands until the next boundary pulse. -/
def clockLoss (s : State) (code : Nat) : State := fire (setCond s code true) code 0 0 0

/-- 14 R377: the zone for which PRESENCE holds on engine `e`: a fresh map shows it occupied, and `e` emitted under CLEAR in it
at or after the map's ETC. On an array engine any zone counts. -/
def presenceZone (s : State) (e : Nat) : Option Nat :=
  let x := safEng s e
  let hit (z : Nat) : Bool := x.lit.any fun p => p.1 == z && decide (x.mapEtc ≤ p.2)
  if mapFresh s e then
    if engKind s e = 2 then firstIdx 512 fun z => bitAt x.mapOcc z && hit z
    else if engKind s e = 1 ∧ hit 0 then firstIdx 512 fun z => bitAt x.mapOcc z
    else none
  else none

/-- Code 5: PRESENCE on every engine for which it holds, at the handover of a map. -/
def presenceFire (s : State) : State :=
  (List.range 4).foldl (fun s e => match presenceZone s e with | some z => fire s 5 0 (4 * e) z | none => s) s

/-- 14 R385: an injected trigger, logged as TEST. -/
def testFire (s : State) (code lat : Nat) : State :=
  if 1 ≤ code ∧ code ≤ 12 then
    let s := fire s 13 code 0 0
    { s with saf := { s.saf with testLat := min 65535 lat } }
  else s

/-- 14 R377 code 9, R372: a reset of the core other than PORST_N. -/
def coreReset (s : State) : State := mapsDrop (fire s 9 0 0 0)

/-- 14 R365, R382: Aperture arms at PORST_N, with CAUSE BOOT, or TRIM while TRIMOK is 0. -/
def safArm (s : State) : State :=
  if trimOk s then s else safLog { s with saf := { s.saf with cause := 14 } } 14 0 0 0

/-! ### Re-arm (14 R383, R384) -/

/-- The conditions of Table 14-3 that are present, by code (SAF_PEND). DEBUGHALT is present from the request until the sequencer
resumes, the steps included (19 R504). -/
def safPend (s : State) : Nat :=
  let dbg := s.dbg.pend || s.dbg.halted || s.dbg.stepping
  let c := setBit (setBit s.saf.cond 10 (s.boot.benchLive != bitAt s.boot.straps 3)) 8 dbg
  setBit (setBit c 4 (s.saf.above != 0)) 5 ((List.range 4).any fun e => (presenceZone s e).isSome)

/-- 14 R383: REARMERR of a request evaluated now; 0 lets it pass. Of several the order NOTDARK, LATCHED, CONDITION, HOLD, INTERLOCK
decides (assumption log entry 21). -/
def rearmErr (s : State) : Nat :=
  if !s.saf.dark then 5
  else if !trimOk s ∨ s.saf.lenFlt ∨ s.saf.intFault then 4
  else if safPend s ≠ 0 then 1
  else if holding s then 2
  else match s.saf.closedAt with
    | some t => if s.clk.aclk < t + 2000000 then 3 else 0
    | none => 3

/-- A requested re-arm at a boundary. The first one after the apply point is step 12 of the boot flow (18 R482; assumption log entry 154). -/
def rearmNow (s : State) : State :=
  if s.saf.rearmReq then
    let k := rearmErr s
    let s := { s with saf := { s.saf with rearmReq := false, rearmErr := k } }
    if k = 0 then
      let s := unqualify { s with
        saf := { s.saf with dark := false, eng := s.saf.eng.map fun x => { x with cross := 0 } }
        boot := { s.boot with step := if s.boot.step = 11 then 12 else s.boot.step } }
      parkAll s false
    else s
  else s

/-- The boundary pulse, which carries the LTC of the tick it starts (14 R372). `drop` says that the maps are discarded there. -/
def safBoundary (s : State) (ltc : Nat) (drop : Bool) : State :=
  let s := setCond (setCond s 6 false) 7 false
  let s := { s with saf := { s.saf with ltc := ltc } }
  rearmNow (if drop then mapsDrop s else s)

/-! ### Crossings (14 R373, R384) -/

/-- A crossing on the zero-crossing ball of engine `e`, with the envelope and the slow-axis sample at it. Both edges count toward
SCANOK, the first one included (assumption log entry 22). -/
def crossing (s : State) (e : Nat) (rising envOk : Bool) (slow : Nat) : State :=
  let b := safB s
  modSafEng s e fun x =>
    let near : Bool := match x.lastX with | some t => decide (s.clk.aclk - t ≤ 2 * sfScanTo b e) | none => false
    let good := if !envOk then 0 else if x.good = 0 ∨ near then min 255 (x.good + 1) else 1
    { x with
      env := envOk, slow := slow % 4096, lastX := some s.clk.aclk, good := good, cross := satAdd 16383 x.cross 1
      qual := x.qual || (decide (0 < sfScanOk b e) && decide (sfScanOk b e ≤ good))
      lastRise := if rising then some s.clk.aclk else x.lastRise
      pa := if rising then (match x.lastRise with | some t => s.clk.aclk - t | none => x.pa) else x.pa }

/-! ### Registers (14 R387, R388) -/

/-- A SAF_LOG entry as its six words. -/
def safLogWords (l : Option SafLog) : List Nat :=
  match l with
  | none => [0, 0, 0, 0, 0, 0]
  | some l =>
    [l.code * 2 ^ 28 + l.tcode * 2 ^ 24 + l.chan * 2 ^ 20 + b2n l.stampv * 2 ^ 15 + b2n l.wasdark * 2 ^ 14 + l.zone, l.cycle,
     l.tc % 2 ^ 32, l.tc / 2 ^ 32 % 2 ^ 32, l.aclk % 2 ^ 32, l.aclk / 2 ^ 32 % 2 ^ 32]

/-- A write of SAF_ZONESEL takes the snapshot of an engine's clear zones, one of SAF_LOGSEL that of a log entry. -/
def zoneSel (s : State) (v : Nat) : State :=
  let z := clearZones s (v % 4)
  { rwPut s (Base.saf + 0x2C) (v % 4) with saf := { s.saf with zsn := (List.range 16).map fun i => z / 2 ^ (32 * i) % 2 ^ 32 } }

def logSel (s : State) (v : Nat) : State :=
  { rwPut s (Base.saf + 0x30) (v % 16) with saf := { s.saf with logSn := safLogWords (ringAt s.saf.log s.saf.logTotal 16 (v % 16)) } }

/-- SAF_STAT. -/
def safStat (s : State) : Nat :=
  b2n s.saf.dark * 2 ^ 31 + b2n (holding s) * 2 ^ 30 + b2n s.saf.intFault * 2 ^ 29 + b2n s.saf.lenFlt * 2 ^ 28 +
    b2n (ceilOk s) * 2 ^ 27 + b2n (trimOk s) * 2 ^ 26 + b2n (benchNow s) * 2 ^ 25 + b2n s.fld.untrusted * 2 ^ 24 +
    s.saf.cause * 2 ^ 20 + s.saf.rearmErr * 2 ^ 16

/-- The balls' levels: the driven ones but for those that read back unlike them. -/
def lenBalls (s : State) : Nat := s.saf.drive ^^^ s.saf.stuck

def safRead (s : State) (off : Nat) : Nat :=
  let cap := rwGet s (Base.saf + 0x70) 0
  if 0x40 ≤ off ∧ off < 0x58 then lget s.saf.logSn ((off - 0x40) / 4) 0
  else if 0x80 ≤ off ∧ off < 0xC0 then lget s.saf.zsn ((off - 0x80) / 4) 0
  else if 0x60 ≤ off ∧ off < 0x70 then
    let x := safEng s ((off - 0x60) / 4)
    b2n x.qual * 2 ^ 31 + x.cross * 2 ^ 16 + min 65535 (16 * x.pa)
  else match off with
  | 0x00 => safStat s
  | 0x04 => safPend s
  | 0x14 => lenBalls s * 65536 + s.saf.drive
  | 0x18 =>
    maskOf (idxWhere 4 fun e => (safEng s e).qual) * 2 ^ 24 +
      maskOf (idxWhere 4 fun e => bitAt s.saf.scanners e && (safEng s e).park) * 2 ^ 20 + s.saf.clear
  | 0x1C =>
    let ms := match s.saf.closedAt with | some t => min 65535 ((s.clk.aclk - t) / 20000) | none => 0
    b2n s.saf.a * 2 ^ 31 + b2n s.saf.b * 2 ^ 30 + s.saf.ist * 2 ^ 28 + ms
  | 0x24 => s.saf.testLat
  | 0x28 => maskOf (idxWhere 4 (mapFresh s))
  | 0x34 => s.saf.logTotal
  | 0x3C => lget s.saf.cnt (rwGet s (Base.saf + 0x38) 0) 0
  | 0x58 => s.clk.aclk % 2 ^ 32
  | 0x5C => s.clk.aclk / 2 ^ 32 % 2 ^ 32
  | 0x74 => clearCap s cap * 65536 + openCap s cap
  | 0x78 => clearCeil s cap * 65536 + openCeil s cap
  | _ => 0

end Sys2Proof.Machine
end

