-- ==== Sys2Proof/Machine/Dbg.lean ====
section
/-! DEFINITION. The watchdog up to its bite, the halts of the HKP and of the tick sequencer, and the frames of the serial debug port
(19 R488 to R507). -/

namespace Sys2Proof.Machine

/-! ### The watchdog (19 R488 to R494) -/

/-- 19 R490: the staged values enter the running configuration, or are refused. -/
def wdgLoad (s : State) : State :=
  let t := rwGet s (Base.wdg + 0x10) 0xFFFFFFFF
  let w := rwGet s (Base.wdg + 0x14) 0
  let n := rwGet s (Base.wdg + 0x18) 0
  if 1048576 ≤ t ∧ w < t ∧ n ≤ t - w then { s with wdg := { s.wdg with timeout := t, window := w, warn := n } }
  else { s with wdg := { s.wdg with cfgErr := true } }

/-- CLREV. -/
def wdgClrev (s : State) : State :=
  { s with wdg := { s.wdg with evCount := 0, pcv := false, evCause := 0, evPc := 0, evTc := 0, evCyc := 0, evSvTc := 0, evSv := 0 } }

/-- LOADCFG: honoured once after each reset while WDGHW is blown. -/
def wdgLoadcfg (s : State) : State :=
  if wdgHw s then
    if s.wdg.cfgUsed then s else wdgLoad { s with wdg := { s.wdg with cfgUsed := true } }
  else wdgLoad s

/-- START of a stopped watchdog. -/
def wdgStart (s : State) : State :=
  if s.wdg.run ∨ wdgHw s then s
  else let s := wdgLoad s; { s with wdg := { s.wdg with run := true } }

/-- STOP. -/
def wdgStop (s : State) : State := if wdgHw s then s else { s with wdg := { s.wdg with run := false, key := none } }

/-- 19 R489: a write of WDG_CTL. -/
def wdgCtl (s : State) (v : Nat) : State :=
  if bits v 31 16 = 0xD06A then
    let s := if bitAt v 3 then wdgClrev s else s
    let s := if bitAt v 2 then wdgLoadcfg s else s
    let s := if bitAt v 0 then wdgStart s else s
    if bitAt v 1 then wdgStop s else s
  else s

/-- 19 R491: a first key with no second key within 256 cycles is forgotten. -/
def wdgForget (s : State) : State :=
  match s.wdg.key with
  | some t => if t + 256 < s.clk.mclk then { s with wdg := { s.wdg with key := none } } else s
  | none => s

/-- 19 R491: a write of WDG_SERVICE by the HKP, and the cause of the bite that it brings (0 none). A stopped watchdog takes no key. -/
def wdgKey (s : State) (v : Nat) : State × Nat :=
  if !s.wdg.run then (s, 0)
  else
    let s := wdgForget s
    match s.wdg.key with
    | none => if v = 0xC35A then ({ s with wdg := { s.wdg with key := some s.clk.mclk } }, 0) else (s, 3)
    | some _ =>
      if v ≠ 0x5AC3 then (s, 3)
      else if s.wdg.timeout ≤ s.wdg.count then (s, 1)
      else if s.wdg.count < s.wdg.window then (s, 2)
      else ({ s with wdg := { s.wdg with count := 0, key := none, svTc := tcReg s, svCyc := s.clk.cyc } }, 0)

/-- 19 R492: WARN sets. -/
def wdgWarnNow (s : State) : State :=
  if s.wdg.run ∧ 0 < s.wdg.warn ∧ s.wdg.timeout - s.wdg.warn ≤ s.wdg.count then { s with wdg := { s.wdg with warned := true } } else s

/-- 19 R493, R496: the evidence of a bite. A bite on CLKLOSS leaves what AON alone holds: the last boundary. -/
def wdgEvidence (s : State) (cause pc : Nat) : State :=
  let lost := cause == 4
  { s with wdg := { s.wdg with
      evCount := satAdd 255 s.wdg.evCount 1, evCause := cause, pcv := !lost, evPc := if lost then 0 else pc
      evTc := tcReg s, evCyc := if lost then 0 else s.clk.cyc
      evSvTc := if lost then tcReg s else s.wdg.svTc, evSv := if lost then 0 else s.wdg.svCyc
      outAt := some s.clk.aon } }

/-- 19 R493: WDOUT_N is released once boot step 5 is complete and 1 ms has passed. -/
def wdoutRelease (s : State) : State :=
  match s.wdg.outAt with
  | some t => if 6 ≤ s.boot.step ∧ t + 1000 ≤ s.clk.aon then { s with wdg := { s.wdg with outAt := none } } else s
  | none => s

/-- The WDG registers (19 R510). -/
def wdgRead (s : State) (off : Nat) : Nat :=
  let w := s.wdg
  match off with
  | 0x08 =>
    b2n w.run * 2 ^ 31 + b2n (wdgHw s) * 2 ^ 30 + b2n w.warned * 2 ^ 29 + b2n s.dbg.hkpHalt * 2 ^ 28 + b2n w.cfgUsed * 2 ^ 27 +
      b2n w.cfgErr * 2 ^ 26 + b2n (wdgForget s).wdg.key.isSome
  | 0x0C => w.count % 2 ^ 32
  | 0x20 => w.evCount * 2 ^ 24 + b2n w.pcv * 2 ^ 8 + w.evCause
  | 0x24 => w.evPc
  | 0x28 => w.evTc % 2 ^ 32
  | 0x2C => w.evTc / 2 ^ 32
  | 0x30 => w.evCyc
  | 0x34 => w.evSvTc % 2 ^ 32
  | 0x38 => w.evSvTc / 2 ^ 32
  | 0x3C => w.evSv
  | _ => 0

/-! ### Halting the HKP (19 R501) -/

/-- The HKP stops and shows its registers. -/
def hkpStop (s : State) (cause : Nat) (view : List Nat) : State :=
  { s with dbg := { s.dbg with hkpHalt := true, hkpStep := 0, cause := cause, hkp := view } }

/-- What a view of the HKP holds: x0 to x31, then the PC; x0 is 0. -/
def hkpView (h : HkpView) : List Nat :=
  (List.range 32).map (fun i => if i = 0 then 0 else ((h.regs.getD i 0).toNat)) ++ [h.pc.toNat]

/-- OP 2: the HKP resumes. -/
def hkpResume (s : State) : State := { s with dbg := { s.dbg with hkpHalt := false, hkpStep := 0 } }

/-- OP 3: the halted HKP runs COUNT instructions; the watchdog counts meanwhile. -/
def hkpStepStart (s : State) (n : Nat) : State :=
  if s.dbg.hkpHalt ∧ 0 < n then { s with dbg := { s.dbg with hkpHalt := false, hkpStep := n } } else s

/-- Whether an enabled PC breakpoint names an address. -/
def bpMatch (s : State) (pc : Nat) : Bool :=
  (List.range 4).any fun n =>
    let v := rwGet s (Base.dbg + 0x10 + 4 * n) 0
    bitAt v 0 && v / 2 == pc / 2

/-! ### Halting the tick sequencer (19 R502 to R506) -/

/-- 19 R502: a halt is asked for. -/
def haltRequest (s : State) (cause : Nat) : State :=
  let s := fire s 8 0 0 0
  if s.dbg.pend ∨ s.dbg.halted then s else { s with dbg := { s.dbg with pend := true, cause := cause } }

/-- OP 6: a halted sequencer is to walk COUNT ticks. -/
def tstepNow (s : State) (n : Nat) : State :=
  if s.dbg.halted ∧ 0 < n then fire { s with dbg := { s.dbg with left := n } } 8 0 0 0 else s

/-- OP 5: the sequencer resumes. -/
def tsqResume (s : State) : State := { s with dbg := { s.dbg with halted := false, pend := false, left := 0, stepping := false } }

/-- 19 R502: the tick-slot breakpoint matches in this cycle's slot. -/
def bpSlotHit (s : State) : Bool :=
  let v := rwGet s (Base.dbg + 0x28) 0
  let tc := rwGet s (Base.dbg + 0x20) 0 + 2 ^ 32 * rwGet s (Base.dbg + 0x24) 0
  bitAt v 31 && bits v 12 0 == nowSlot s && (bitAt v 30 || tc == tcReg s)

/-- 19 R502 to R504: what the boundary that starts register tick `tc` makes of halts and steps. The answer says whether a halt takes
effect here. A halt and a step wait until every LEN ball reads low (14 R381). -/
def haltBoundary (s : State) (tc : Nat) : State × Bool :=
  let s := if s.dbg.stepping ∧ s.dbg.left = 0 then
      fire { s with dbg := { s.dbg with stepping := false, pend := true, cause := 4 } } 8 0 0 0 else s
  if s.dbg.pend ∧ lenBalls s = 0 then
    ({ s with dbg := { s.dbg with halted := true, pend := false, haltTc := tc, stepping := false, left := 0 } }, true)
  else if 0 < s.dbg.left ∧ (s.dbg.halted ∨ s.dbg.stepping) ∧ lenBalls s = 0 then
    ({ s with dbg := { s.dbg with halted := false, stepping := true, left := s.dbg.left - 1 } }, false)
  else if s.dbg.stepping then ({ s with dbg := { s.dbg with halted := true, haltTc := tc, stepping := false } }, true)
  else (s, false)

/-- A write of DBG_CMD (19 R501 to R506), with what the HKP shows if it stops. -/
def dbgCmd (s : State) (v : Nat) (view : List Nat) : State :=
  match bits v 3 0 with
  | 1 => if s.dbg.hkpHalt then s else hkpStop s 1 view
  | 2 => hkpResume s
  | 3 => hkpStepStart s (bits v 31 16)
  | 4 => haltRequest s 1
  | 5 => tsqResume s
  | 6 => tstepNow s (bits v 31 16)
  | _ => s

/-- The DBG registers (19 R511, R512). -/
def dbgRead (s : State) (off : Nat) : Nat :=
  let d := s.dbg
  let z := s.shown.dbg
  match off with
  | 0x04 => b2n d.hkpHalt * 2 ^ 31 + b2n z.halted * 2 ^ 30 + b2n d.pend * 2 ^ 29 + d.cause * 2 ^ 24 + z.left
  | 0x34 => if d.hkpHalt then lget d.hkp (rwGet s (Base.dbg + 0x30) 0) 0 else 0
  | 0x38 => z.haltTc % 2 ^ 32
  | 0x3C => z.haltTc / 2 ^ 32
  | _ => 0

/-- A write of DBG_HKPDATA. -/
def hkpPoke (s : State) (v : Nat) : State :=
  let i := rwGet s (Base.dbg + 0x30) 0
  if s.dbg.hkpHalt ∧ i ≠ 0 then { s with dbg := { s.dbg with hkp := lmod s.dbg.hkp i fun _ => v } } else s

/-! ### Frames of the serial debug port (19 R497, Tables 19-1 to 19-3) -/

/-- The reply that the port sends. -/
def sdpReply (s : State) (result fstat fidx : Nat) (data : Bytes) : State :=
  let b := leBytes 1 result ++ leBytes 1 fstat ++ leBytes 1 fidx ++ [0] ++ data
  { s with dbg := { s.dbg with reply := b ++ leBytes 4 (crc32 b) } }

/-- The connection ends: on DISCONNECT, a line reset, any reset, and when domain 59 powers down (19 R499). -/
def dbgEnd (s : State) : State := { s with dbg := { s.dbg with conn := false, connWait := false } }

/-- 19 R506: every breakpoint is cleared. -/
def bpClear (s : State) : State :=
  { s with rw := [0x10, 0x14, 0x18, 0x1C, 0x20, 0x24, 0x28].foldl (fun m o => adel m (Base.dbg + o)) s.rw }

/-- IDENT's state word. -/
def identWord (s : State) : Nat :=
  b2n s.dbg.conn + 2 * b2n (dbgLock s) + 4 * b2n s.dbg.hkpHalt + 8 * b2n s.dbg.halted

/-- What a request meets before its command is looked at: a bad CRC, then the lock (19 R508), then a CNT or ARG out of
range. -/
def sdpCheck (s : State) (q : SdpReq) (mem : Bool) : Option Nat :=
  let inRange := if mem then decide (1 ≤ q.cnt ∧ q.cnt ≤ 64 ∧ q.arg < 2 ^ 36 ∧ q.arg % 4 = 0) else q.cnt == 0 && q.arg == 0
  if !q.crcOk then some 2 else if dbgLock s then some 4 else if !inRange then some 3 else none

end Sys2Proof.Machine
end

