-- ==== Sys2Proof/Machine/Cal.lean ====
section
/-! DEFINITION. OTP programming, trim records, loading, converter trims, calibration runs and the CAL registers (12 R314 to R338). -/

namespace Sys2Proof.Machine

/-! ### CALPTR (12 Table 12-8) -/

def cptrB (s : State) : Bytes := secB s Ty.calptr 0
def calParam (s : State) : Nat := u8 (cptrB s) 0
def calDieIn (s : State) : Nat := u16 (cptrB s) 2
def calOfsMax (s : State) : Int := (u16 (cptrB s) 0xC : Nat)
def calGlo (s : State) : Int := (u16 (cptrB s) 0xE : Nat)
def calGhi (s : State) : Int := (u16 (cptrB s) 0x10 : Nat)
def calPclo (s : State) : Nat := u32 (cptrB s) 0x14
def calPchi (s : State) : Nat := u32 (cptrB s) 0x18

/-! ### Record copies in the NVM (12 R319 to R322) -/

/-- The NVM address of slot `j` (0 F, 1 A, 2 B) of kind `k` (1 COLOUR, 2 CONVERTER, 3 REGISTRATION). -/
def slotAddr (k j : Nat) : Nat :=
  4096 * (if k = 1 then 4 * j else if k = 2 then 12 + j else 15 + 2 * j)

/-- The largest LENGTH of a kind. -/
def recMax (k : Nat) : Nat := if k = 1 then 16348 else if k = 2 then 4060 else if k = 3 then 8156 else 0

/-- Whether every byte of a body outside the listed ranges is 0. -/
def restZero (b : Bytes) (listed : List (Nat × Nat)) : Bool :=
  b.zipIdx.all fun p => p.1 == 0 || listed.any fun r => r.1 ≤ p.2 && p.2 < r.1 + r.2

/-- Whether the sets' temperatures rise strictly. -/
def tsetsRise (b : Bytes) (at_ k : Nat) : Bool :=
  (List.range (k - 1)).all fun t => decide (i16 b (at_ + 2 * t) < i16 b (at_ + 2 * t + 2))

/-- 12 R320: whether a body meets the layout of its kind. -/
def bodyOk (k : Nat) (b : Bytes) : Bool :=
  let n := u8 b 0
  match k with
  | 1 =>
    let sets := decide (1 ≤ n ∧ n ≤ 8) && b.length == 128 + 1536 * n && tsetsRise b 0x4C n
    let vals := decide (u8 b 2 ≤ 252) && ((List.range 4).all fun e => u16 b (4 + 2 * e) == 0xFFFF || u16 b (4 + 2 * e) < 512) &&
      (List.range 16).all fun c => u16 b (0x2C + 2 * c) ≤ 32768
    let ents := (List.range (16 * n)).map fun i => (0x82 + 96 * i, 78)
    sets && vals && restZero b ([(0, 1), (2, 1), (4, 8), (0xC, 64), (0x4C, 2 * n)] ++ ents)
  | 2 => decide (1 ≤ n ∧ n ≤ 8) && b.length == 32 + 80 * n && tsetsRise b 0x10 n && restZero b [(0, 1), (0x10, 2 * n), (0x20, 80 * n)]
  | 3 => b.length == 256 && restZero b ((List.range 4).map fun e => (64 * e, 38))
  | _ => false

/-- The header fields of a copy (12 Table 12-5). -/
def recMagic : Nat := 0x4E465452
def recLen (c : Bytes) : Nat := u32 c 0xC
def recGen (c : Bytes) : Nat := u32 c 8
def recBody (c : Bytes) : Bytes := (c.drop 32).take (recLen c)
def recCrcOk (c : Bytes) : Bool := crc32 (c.take (32 + recLen c)) == u32 c (32 + recLen c)

/-- The bytes of a slot, as far as its largest copy reaches. -/
def slotBytes (s : State) (k j : Nat) : Bytes := readRun (nvmByte s) (slotAddr k j) (36 + recMax k)

/-- 12 R320: whether the copy in a slot is valid. -/
def copyOk (k j : Nat) (c : Bytes) : Bool :=
  u32 c 0 == recMagic && u8 c 4 == k && u8 c 5 == j && u16 c 6 == 1 && decide (recLen c ≤ recMax k) && recCrcOk c &&
    u8 c 0x13 == 0 && u32 c 0x1C == 0 && bodyOk k (recBody c)

/-- 12 R321: the slot in use of a kind. -/
def copyInUse (s : State) (k : Nat) : Option Nat :=
  let ok (j : Nat) := copyOk k j (slotBytes s k j)
  if ok 1 ∧ ok 2 then (if recGen (slotBytes s k 1) < recGen (slotBytes s k 2) then some 2 else some 1)
  else if ok 1 then some 1 else if ok 2 then some 2 else if ok 0 then some 0 else none

/-- A framed copy (12 R320). -/
def frameRec (k j gen : Nat) (temp : Int) (run tc : Nat) (body : Bytes) : Bytes :=
  let h := leBytes 4 recMagic ++ leBytes 1 k ++ leBytes 1 j ++ leBytes 2 1 ++ leBytes 4 gen ++ leBytes 4 body.length ++
    leBytes 2 (pat 16 temp) ++ leBytes 1 run ++ leBytes 1 0 ++ leBytes 8 tc ++ leBytes 4 0
  h ++ body ++ leBytes 4 (crc32 (h ++ body))

/-- 12 R337: what CAL_RECSTAT shows of the copies in the NVM; its registers follow at the next boundary (R338). -/
def recStatus (s : State) : State :=
  let use := [1, 2, 3].map (copyInUse s)
  { s with cal := { s.cal with
      src := use.map fun u => match u with | some j => j + 1 | none => 0
      gen := [1, 2, 3].map fun k => match copyInUse s k with | some j => recGen (slotBytes s k j) | none => 0
      valid := [1, 2, 3].map fun k => maskOf (idxWhere 3 fun j => copyOk k j (slotBytes s k j)) } }

/-- 12 R322, R323: the slot that a copy is written to: F, or the one of A and B that is not in use. -/
def newSlot (s : State) (w : RecWrite) : Nat := if w.f then 0 else if copyInUse s w.kind = some 1 then 2 else 1

/-- 12 R322: its generation: one higher than that of the copy in use, or 1 when that is F or there is none; 0 in slot F. -/
def newGen (s : State) (w : RecWrite) : Nat :=
  if w.f then 0
  else match copyInUse s w.kind with
    | some 0 => 1
    | some j => (recGen (slotBytes s w.kind j) + 1) % 2 ^ 32
    | none => 1

/-- The write of the first waiting copy starts: its slot is erased. -/
def nvmStart (s : State) : State :=
  match s.cal.wr with
  | w :: _ =>
    let j := newSlot s w
    let a := slotAddr w.kind j
    recStatus { s with mem := { s.mem with nvm := memClear s.mem.nvm a (a + (if w.kind = 1 then 16384 else if w.kind = 2 then 4096 else 8192)) },
                       cal := { s.cal with nvmSt := 1, nvmKind := w.kind, nvmSlot := j } }
  | [] => s

/-- A copy is queued for writing. -/
def nvmQueue (s : State) (w : RecWrite) : State :=
  let first := s.cal.wr.isEmpty
  let s := { s with cal := { s.cal with wr := s.cal.wr ++ [w] } }
  if first then nvmStart s else s

/-- 12 R322, R335: NVM_RECORD_WRITE_DONE. A write that fails leaves its slot erased, which holds no valid copy. -/
def nvmDone (s : State) (ok : Bool) : State :=
  match s.cal.wr with
  | [] => s
  | w :: r =>
    let j := s.cal.nvmSlot
    let s := if ok then nvmPut s (slotAddr w.kind j) (frameRec w.kind j (newGen s w) w.temp w.run w.tc w.body) else s
    let s := recStatus { s with cal := { s.cal with
        wr := r, nvmSt := if ok then 2 else 3
        impSt := if w.imp then (if ok then 2 else 3) else s.cal.impSt
        impCode := if w.imp then (if ok then 0 else 7) else s.cal.impCode } }
    if r.isEmpty then s else nvmStart s

/-! ### Imports (12 R323) -/

/-- IMPORT starts an import, unless one is under way: the record's header is read through port 11 (assumption log entry 8 for the CLASS). -/
def importStart (s : State) : State :=
  if s.cal.impSt = 1 then s
  else unitRead { s with cal := { s.cal with impSt := 1, impCode := 0, impBuf := none } } 11 0 (rwGet s (Base.cal + 4) 0) 32 .impHead

/-- The header is read: what LENGTH promises follows, unless the header alone is refused. -/
def impHeadDone (s : State) (h : Bytes) : State :=
  if s.cal.impSt ≠ 1 then s
  else if u32 h 0 ≠ recMagic ∨ 16348 < recLen h then { s with cal := { s.cal with impBuf := some h } }
  else unitRead s 11 0 (rwGet s (Base.cal + 4) 0) (36 + recLen h) .impBody

/-- The record is read. -/
def impBodyDone (s : State) (b : Bytes) : State := if s.cal.impSt ≠ 1 then s else { s with cal := { s.cal with impBuf := some b } }

/-- The code that rejects an imported copy, in the order of the codes; 0 accepts it. SLOT 0 asks for slot F. -/
def importCode (s : State) (c : Bytes) : Nat :=
  let k := u8 c 4
  if u32 c 0 ≠ recMagic then 1
  else if 16348 < recLen c then 4
  else if !recCrcOk c then 2
  else if k = 0 ∨ 3 < k then 3
  else if recMax k < recLen c then 4
  else if u16 c 6 ≠ 1 ∨ u8 c 0x13 ≠ 0 ∨ u32 c 0x1C ≠ 0 ∨ !bodyOk k (recBody c) then 5
  else if u8 c 5 = 0 ∧ (!benchLow s ∨ copyOk k 0 (slotBytes s k 0)) then 6
  else 0

/-- The record has been read from SRAM: it is rejected, or its write begins. -/
def importDoneNow (s : State) : State :=
  match s.cal.impBuf with
  | none => s
  | some c =>
    let k := u8 c 4
    let code := importCode s c
    let s := { s with cal := { s.cal with impBuf := none, impKind := k % 16 } }
    if s.cal.impSt ≠ 1 then s
    else if code ≠ 0 then { s with cal := { s.cal with impSt := 3, impCode := code } }
    else nvmQueue s { kind := k, f := u8 c 5 == 0, run := 0, tc := 0, temp := i16 c 0x10, body := recBody c, imp := true }

/-! ### Loading (12 R325, R326) -/

/-- 12 R325: the copies in use, framed, by kind; what a bundle carries as CALREC. -/
def loadedRecs (s : State) : List (Nat × Bytes) :=
  [1, 2, 3].filterMap fun k => (copyInUse s k).map fun j =>
    let c := slotBytes s k j
    (k, c.take (36 + recLen c))

/-- The body of the record of a kind among those loaded; empty where there is none. -/
def bodyFrom (recs : List (Nat × Bytes)) (k : Nat) : Bytes := ((recs.find? fun r => r.1 == k).map fun r => recBody r.2).getD []

/-- 12 R325: records are loaded into the live tables. -/
def calLoad (s : State) (recs : List (Nat × Bytes)) : State :=
  { s with cal := { s.cal with live := [1, 2, 3].map (bodyFrom recs) } }

/-! ### Converter trims (12 R327) -/

/-- 11 R293: the band of a temperature among `k` sets, and the weight in it. -/
def bandAt (k : Nat) (temp : Nat → Int) (v : Int) : Nat × Int :=
  if v < temp 0 then (0, 0)
  else if k = 0 ∨ temp (k - 1) ≤ v then (k - 1, 0)
  else
    let t := ((List.range (k - 1)).find? fun t => temp t ≤ v && v < temp (t + 1)).getD 0
    (t, fdivI (65536 * (v - temp t)) (temp (t + 1) - temp t))

/-- A value between two sets. -/
def mixI (x y w : Int) : Int := x + asr ((y - x) * w) 16

/-- 12 R326: the defaults from OTP; with a factory record that fails its check the trims are neutral (R315). -/
def trimDefault (s : State) (k : Nat) : Int × Nat :=
  if trimOk s then (i16 s.cal.otp (0x18 + 4 * k), u16 s.cal.otp (0x1A + 4 * k)) else (0, 0x8000)

/-- 12 R327: the trims of a converter body at a temperature. -/
def trimsOf (b : Bytes) (v : Int) : List (Int × Nat) :=
  let n := u8 b 0
  let bw := bandAt n (fun t => i16 b (0x10 + 2 * t)) v
  let at_ (t k : Nat) := 0x20 + 80 * t + 4 * k
  (List.range 20).map fun k =>
    let p := at_ bw.1 k
    let q := if bw.2 = 0 then p else at_ (bw.1 + 1) k
    (mixI (i16 b p) (i16 b q) bw.2, (mixI (u16 b (p + 2) : Nat) (u16 b (q + 2) : Nat) bw.2).toNat)

/-- 12 R326, R327: the trims at a boundary: the defaults where no record is loaded, whatever the temperature; else interpolated, unless the
temperature is a fallback value. -/
def calTrims (s : State) : State :=
  let x := lget s.pins.ins (calDieIn s) {}
  let b := lget s.cal.live 1 []
  let s := { s with cal := { s.cal with dieStale := x.fb, die := if x.fb then s.cal.die else x.val } }
  if b.isEmpty then
    let l := (List.range 20).map (trimDefault s)
    { s with cal := { s.cal with ofs := l.map (·.1), gain := l.map (·.2) } }
  else if x.fb then s
  else
    let l := trimsOf b x.val
    { s with cal := { s.cal with ofs := l.map (·.1), gain := l.map (·.2) } }

/-! ### Runs (12 R329 to R335) -/

/-- 12 Table 12-9: active ticks and TO of a run code. -/
def runActive (code : Nat) : Nat := match code with | 1 => 8 | 2 => 16 | 3 => 20 | _ => 68
def runTo (code : Nat) : Nat := match code with | 1 => 64 | 2 => 128 | 3 => 160 | _ => 1024

/-- 12 R329: TARGET names an enabled channel. -/
def targetOk (s : State) (code t : Nat) : Bool :=
  match code with
  | 1 => decide (t < 12) && snsEn s t
  | 2 => decide (t < 12) && snsEn s t
  | 3 => decide (t < 8) && drvEn s t
  | 4 => decide (t < 16) && chanRole s t != 0
  | _ => false

/-- 12 R329: PCURVE may emit on channel `n` in the running set. -/
def pcurveEmits (s : State) (n : Nat) : Bool :=
  let e := n / 4
  let loops := (List.range 16).any fun l =>
    let c := loopB (srvB s) l
    lpEn c && lpSrc c == 3 && lpGate c == some n
  engKind s e == 2 && loops && roleEmits s e (chanRole s n) &&
    (setHas s s.tsq.set 4 (0xD + e) 1 || setHas s s.tsq.set 4 (0xD + e) 2)

/-- A run fails. -/
def runFail (s : State) (cause : Nat) : State := { s with cal := { s.cal with run := { s.cal.run with st := 3, cause := cause, inTick := false } } }

/-- 12 R329: a request delivered at this boundary, judged against the set being entered. -/
def calRequest (s : State) (v : Nat) : State :=
  let code := bits v 7 0
  let t := bits v 15 8
  let req := bits v 31 16
  if s.cal.reqSeen ∧ req = s.cal.reqLast then s
  else
    let out (o : Nat) (s : State) : State := { s with cal := { s.cal with reqSeen := true, reqLast := req, reqOut := o } }
    if code = 0 then out 4 (if s.cal.run.st = 1 then runFail s 2 else s)
    else if s.cal.run.st = 1 then out 1 s
    else if !targetOk s code t then out 2 s
    else if code = 4 ∧ !pcurveEmits s t then out 3 s
    else
      let n := if code = 4 then 17 else 2
      let r : CalRun := { st := 1, code := code, req := req, target := t, set := s.tsq.set,
                          sums := List.replicate n 0, counts := List.replicate n 0 }
      out 0 { s with cal := { s.cal with run := r } }

/-- Whether the STEP word of the running tick converts for the run: in an active tick, but for the ticks in which DRVCAL settles. -/
def calConverts (s : State) : Bool :=
  let r := s.cal.run
  r.st == 1 && r.inTick && r.code != 4 && !(r.code == 3 && r.active % 10 < 2)

/-- 12 R332, R335: the conversions of an active tick's STEP word; a shadow takes the lead's. -/
def calStepNow (s : State) (raws : List Nat) : State :=
  let raws := if shadowRun s then s.cal.raws else raws
  let r := s.cal.run
  let sum : Int := (raws.take 16).foldl (fun (a : Int) x => a + (x : Nat)) 0
  let n := (raws.take 16).length
  let i := if r.code = 3 ∧ 10 ≤ r.active then 1 else 0
  if calConverts s then
    { s with cal := { s.cal with run := { r with sums := lmod r.sums i (· + sum), counts := lmod r.counts i (· + n) } } }
  else s

/-- A quotient rounded down; one by 0 is a free value. -/
def divFree (s : State) (a b : Int) : Int × State :=
  if b = 0 then let f := takeFree s; ((f.1 : Int), f.2) else (fdivI a b, s)

/-- The record of a converter run: the live one, or one set formed from the defaults in force where none is loaded. -/
def convBody (s : State) : Bytes :=
  let b := lget s.cal.live 1 []
  if b.isEmpty then
    leBytes 1 1 ++ List.replicate 31 0 ++ (List.range 20).flatMap fun k =>
      leBytes 2 (pat 16 (lget s.cal.ofs k 0)) ++ leBytes 2 (lget s.cal.gain k 0)
  else b

/-- Bytes of `v` put at offset `i` of a body. -/
def patch (b : Bytes) (i : Nat) (v : Bytes) : Bytes := b.take i ++ v ++ b.drop (i + v.length)

/-- OFS(θ) and GAIN(θ) of entry `k`: the record that is loaded now, at the temperature of the tick that ends. -/
def convTheta (s : State) (k : Nat) : Int × Nat := lget (trimsOf (convBody s) s.cal.die) k (0, 0)

/-- 12 R333: entry `k` of every set is corrected. -/
def convCorrect (s : State) (k : Nat) (ofs : Option Int) (gain : Option Int) : Bytes × State :=
  let b := convBody s
  let th := convTheta s k
  (List.range (u8 b 0)).foldl (fun (p : Bytes × State) t =>
    let a := 0x20 + 80 * t + 4 * k
    let b := match ofs with | some o => patch p.1 a (leBytes 2 (pat 16 (i16 p.1 a + (o - th.1)))) | none => p.1
    match gain with
    | some g => let (q, s) := divFree p.2 ((u16 b (a + 2) : Nat) * g) (th.2 : Nat); (patch b (a + 2) (leBytes 2 (pat 16 q)), s)
    | none => (b, p.2)) (b, s)

/-- 12 R333: the knots of channel `n` in every set. -/
def colCorrect (b : Bytes) (n : Nat) (ratios : List Int) : Bytes :=
  (List.range (colSets b)).foldl (fun b t =>
    (List.range 17).foldl (fun b k =>
      let a := colEntry b n t + 12 + 4 * k
      patch b a (leBytes 4 (pat 32 (fdivI ((u32 b a : Nat) * lget ratios k 0) 65536)))) b) b

/-- Whether the knots of channel `n` are non-decreasing in every set. -/
def colMono (b : Bytes) (n : Nat) : Bool :=
  (List.range (colSets b)).all fun t => (List.range 16).all fun k =>
    let a := colEntry b n t + 12 + 4 * k
    decide (u32 b a ≤ u32 b (a + 4))

/-- 12 R333, R335: a result is accepted: the live body changes and, in the lead or solo role, is written to the NVM. -/
def runAccept (s : State) (k tc : Nat) (body : Bytes) : State :=
  let s := { s with cal := { s.cal with live := lmod s.cal.live (k - 1) fun _ => body
                                        run := { s.cal.run with st := 2, cause := 0, inTick := false } } }
  if s.twn.st = 0 ∨ isLead s then
    nvmQueue s { kind := k, f := false, run := s.cal.run.code, tc := tc, temp := s.cal.die, body := body, imp := false }
  else s

/-- A converter result that lies in its range corrects entry `k`. -/
def convAccept (s : State) (tc k : Nat) (ofs gain : Option Int) : State := let (b, s) := convCorrect s k ofs gain; runAccept s 2 tc b

/-- 12 R332, R333: the end of a converter run. -/
def convRunEnd (s : State) (tc : Nat) : State :=
  let r := s.cal.run
  let s0 := lget r.sums 0 0
  let s1 := lget r.sums 1 0
  let n : Int := (lget r.counts 0 0 : Nat)
  if r.code = 1 then
    let (o, s) := divFree s (s0 - 32768 * n) n
    let s := { s with cal := { s.cal with resOfs := o } }
    if (o.natAbs : Int) ≤ calOfsMax s then convAccept s tc r.target (some o) none else runFail s 8
  else if r.code = 2 then
    let (a, s) := divFree s s0 n
    let (g, s) := divFree s (32768 * 24576) (a - 32768 - lget s.cal.ofs r.target 0)
    let s := { s with cal := { s.cal with resGain := pat 16 g } }
    if calGlo s ≤ g ∧ g < calGhi s then convAccept s tc r.target none (some g) else runFail s 8
  else
    let k := 12 + r.target
    let m : Int := (lget r.counts 1 0 : Nat)
    let (g, s) := divFree s ((lget s.cal.gain k 0 : Nat) * 49152 * n * m) (s1 * n - s0 * m)
    let (d, s) := divFree s ((s0 * m + s1 * n - 2 * n * m * 32768) * 32768) (2 * n * m * g)
    let o := lget s.cal.ofs k 0 + d
    let s := { s with cal := { s.cal with resGain := pat 16 g, resOfs := o } }
    if (o.natAbs : Int) ≤ calOfsMax s ∧ calGlo s ≤ g ∧ g < calGhi s then
      convAccept s tc k (some o) (some g) else runFail s 8

/-- PK_k(θ) of channel `n`: the record that is loaded now, at the temperature of the tick that ends. -/
def pkTheta (s : State) (n k : Nat) : Nat :=
  let b := colB s
  let bw := if u16 b (4 + 2 * (n / 4)) = 0xFFFF then (0, 0) else colBand b (lget s.lse.colStat (n / 4) (false, 0, 0)).2.2
  lget (colChan b n bw).pk k 0

/-- 12 R332: ratio_k of a PCURVE run, for k from 1. -/
def pcRatio (s : State) (n k : Nat) : Int × State :=
  let r := s.cal.run
  let c := lget s.lse.col n {}
  let (y, s) := divFree s (lget r.sums k 0) (lget r.counts k 0 : Nat)
  let (p, s) := divFree s (y * 65536) (c.gpd : Nat)
  divFree s (65536 * p) (pkTheta s n k : Nat)

/-- 12 R332, R333: the end of a PCURVE run. -/
def pcurveEnd (s : State) (tc : Nat) : State :=
  let n := s.cal.run.target
  let (l, s) := (List.range 16).foldl (fun (a : List Int × State) i =>
    let q := pcRatio a.2 n (i + 1)
    (a.1 ++ [q.1], q.2)) ([], s)
  let ratios := l.headD 0 :: l
  let s := { s with cal := { s.cal with ratios := ratios } }
  let b := colCorrect (colB s) n ratios
  if colSets (colB s) = 0 ∨ !ratios.all (fun q => decide ((calPclo s : Int) ≤ q ∧ q < calPchi s)) then runFail s 8
  else if !colMono b n then runFail s 9
  else runAccept s 1 tc b

/-- 12 R334: in the tick that ends, the enable of channel `n` was low at some cycle. -/
def lenWasLow (s : State) (n : Nat) : Bool :=
  !bitAt s.lse.len0 n || s.lse.lenEv.any fun x => x.1 == n && !x.2.2

/-- 12 R331, R333, R334: the boundary that starts tick `tc` closes a tick of the run. `change` says that the set changes there. -/
def runClose (s : State) (tc : Nat) (change degraded : Bool) : State :=
  let r := s.cal.run
  if r.st ≠ 1 then s
  else
    let active := if r.inTick then r.active + 1 else r.active
    let pc := r.code == 4
    let dark := pc && r.inTick && lenWasLow s r.target
    let empty := pc && r.inTick && active % 4 == 0 && lget r.counts (active / 4 - 1) 0 == 0
    let whole := active == runActive r.code
    let s := { s with cal := { s.cal with run := { r with ticks := sat16 r.ticks, active := active, fbHit := false } } }
    if change && !whole then runFail s 3
    else if dark then runFail s 4
    else if r.fbHit then runFail s 5
    else if degraded then runFail s 6
    else if empty then runFail s 7
    else if whole then (if pc then pcurveEnd s tc else convRunEnd s tc)
    else if runTo r.code ≤ r.ticks + 1 then runFail s 1
    else s

/-- 12 R331: RUN_TIMEOUT: the last tick before TO is passing and the run will not complete at its boundary. -/
def runTimeoutNow (s : State) : State :=
  let r := s.cal.run
  let active := if r.inTick then r.active + 1 else r.active
  if r.st = 1 ∧ runTo r.code ≤ r.ticks + 1 ∧ active ≠ runActive r.code then runFail s 1 else s

/-- 12 R330: whether the walk of the running tick dispatches a STEP word that allows the run. -/
def runTick (s : State) : State :=
  let r := s.cal.run
  let on := r.st == 1 && s.tsq.disp.any fun d =>
    d.kind == 8 && bits d.payload 63 60 == 0 && bitAt (bits d.payload 59 56) (r.code - 1)
  { s with cal := { s.cal with run := { r with inTick := on } } }

/-! ### OTP programming (12 R317) -/

/-- A word of the OTP array. -/
def otpWord (o : Bytes) (a : Nat) : Nat := u32 o a

/-- CAL_OTPPROG with its key. -/
def otpProg (s : State) (v : Nat) : State :=
  let a := bits (rwGet s (Base.cal + 0x18) 0) 8 2 * 4
  if bits v 31 16 ≠ 0x0F5E ∨ !bitAt v 0 ∨ s.cal.prog.isSome then s
  else if a < 0x80 ∨ a = 0xC8 ∨ a = 0xCC ∨ !benchLow s then { s with cal := { s.cal with progErr := true } }
  else { s with cal := { s.cal with prog := some (a, rwGet s (Base.cal + 0x1C) 0) } }

/-- Bits set in the OTP array. -/
def otpSet (s : State) (a v : Nat) : State :=
  { s with cal := { s.cal with array := patch s.cal.array a (leBytes 4 (otpWord s.cal.array a ||| v)) } }

/-- OTP_PROGRAM_DONE: the bits that read back are blown. -/
def otpProgDone (s : State) (readback : Nat) : State :=
  match s.cal.prog with
  | none => s
  | some (a, v) =>
    let s := otpSet s a (readback &&& v)
    { s with cal := { s.cal with prog := none, progErr := s.cal.progErr || (readback &&& v) != v } }

/-! ### CAL registers (12 R337) -/

/-- 12 R337: a read of CAL_NVMDATA advances CAL_NVMADDR. -/
def nvmNext (s : State) : State := { s with cal := { s.cal with nvmAddr := (s.cal.nvmAddr + 4) % 0x20000 } }

/-- 12 R337: a write of CAL_RATIOSEL. -/
def ratioSel (s : State) (v : Nat) : State :=
  let k := bits v 4 0
  let s := rwPut s (Base.cal + 0x50) k
  { s with cal := { s.cal with ratio := pat 32 (lget s.shown.cal.ratios k 0) } }

def calRead (s : State) (off : Nat) : Nat :=
  let c := s.cal
  let z := s.shown.cal
  match off with
  | 0x08 => c.impSt * 2 ^ 28 + c.impCode * 2 ^ 20 + c.impKind * 2 ^ 16
  | 0x0C => b2n (trimOk s) * 2 ^ 31 + b2n (ceilOk s) * 2 ^ 30 + b2n (wdgHw s) * 2 ^ 29 + b2n (dbgLock s) * 2 ^ 28 +
      b2n (factLock s) * 2 ^ 27 + b2n c.prog.isSome * 2 ^ 26 + b2n c.progErr * 2 ^ 25 + slotBits s
  | 0x10 => u32 c.otp 0
  | 0x14 => u32 c.otp 4
  | 0x1C => u32 c.otp (bits (rwGet s (Base.cal + 0x18) 0) 8 2 * 4)
  | 0x40 => z.run.st * 2 ^ 29 + z.run.cause * 2 ^ 24 + z.run.code * 2 ^ 20 + z.run.req
  | 0x44 => z.run.ticks * 2 ^ 16 + z.run.active * 2 ^ 8 + z.run.target
  | 0x48 => z.reqOut * 2 ^ 16 + z.reqLast
  | 0x4C => z.resGain * 2 ^ 16 + pat 16 z.resOfs
  | 0x54 => c.ratio
  | 0x60 =>
    let r := z.run
    if r.st ≠ 1 then 0
    else if r.code = 4 then 2 ^ 31 + r.target / 4 % 4 * 2 ^ 28
    else if r.code = 3 then 2 ^ (16 + r.target % 8)
    else 2 ^ (r.target % 12)
  | 0x70 => c.nvmSt * 2 ^ 30 + c.nvmKind * 2 ^ 27 + c.nvmSlot * 2 ^ 25
  | 0x74 => c.nvmAddr
  | 0x78 => leNat (readRun (nvmByte s) c.nvmAddr 4)
  | 0x80 => b2n z.dieStale * 2 ^ 31 + pat 16 z.die
  | _ =>
    if 0x30 ≤ off ∧ off < 0x3C then
      let k := (off - 0x30) / 4
      lget z.src k 0 * 2 ^ 30 + lget z.valid k 0 * 2 ^ 27 + lget z.gen k 0 % 2 ^ 24
    else 0

end Sys2Proof.Machine
end

