-- ==== Sys2Proof/Machine/Clock.lean ====
section
/-! DEFINITION. The timebase: the length of each tick, store time, references, selection and discipline (02 R39; 15 R404 to R411). -/

namespace Sys2Proof.Machine

/-! ### The CHAIN section (15 R391) -/

def chainB (s : State) : Bytes := secB s Ty.chain 0
def chMac (b : Bytes) : Bytes := (padTo 6 b)
def chPortEn (b : Bytes) (p : Nat) : Bool := bitAt (u8 b 6) p
def chPhy (b : Bytes) (p : Nat) : Nat := bits (u8 b 7) (2 * p + 1) (2 * p)
def chVid (b : Bytes) (i : Nat) : Nat := u16 b (8 + 2 * i)
def chAccUntag (b : Bytes) : Bool := bitAt (u8 b 0x10) 0
def chPcpClass (b : Bytes) (pcp : Nat) : Nat := bits (u16 b 0x12) (2 * pcp + 1) (2 * pcp)
def chMcast (b : Bytes) (i : Nat) : Bytes := (b.drop (0x14 + 6 * i)).take 6
def chDomain (b : Bytes) : Nat := u8 b 0x2C
def chDrShift (b : Bytes) : Nat := u8 b 0x2D
def chSyncAge (b : Bytes) : Nat := u16 b 0x2E
def chAsym (b : Bytes) (p : Nat) : Int := i16 b (0x30 + 2 * p)
def chRank (b : Bytes) (i : Nat) : Nat := u8 b (0x34 + i)
def chTrefMode (b : Bytes) : Nat := u8 b 0x38
def chKp (b : Bytes) : Nat := u8 b 0x39
def chKi (b : Bytes) : Nat := u8 b 0x3A
def chQual (b : Bytes) : Nat := u16 b 0x3C
def chTrackWin (b : Bytes) : Int := (u16 b 0x3E : Nat)
def chJump (b : Bytes) : Int := (u32 b 0x40 : Nat)

/-! ### Tick length and store time -/

/-- 02 R39: the length of a tick with no correction, and the fraction carried forward in units of 1/f_tick cycle. The mean is
10^9 / f_tick; the lengths at 2400 Hz run 416 667, 416 667, 416 666. -/
def nomLen (rate frac : Nat) : Nat × Nat :=
  let l := cdiv (1000000000 - frac) rate
  (l, l * rate - (1000000000 - frac))

/-- 15 R404: the store time of cycle `x` of the running tick, in ns. -/
def storeTime (s : State) (x : Nat) : Nat := 1000000000 * (s.clk.stk * s.clk.len + x) / (s.clk.len * s.clk.rate)

/-- Store time now. -/
def ltNow (s : State) : Nat := storeTime s s.clk.cyc

/-- 15 R410: CMAX. -/
def cMax (s : State) : Int := ((1000000000 / s.clk.rate / 1000 : Nat) : Int)

/-- The tick period in ns, rounded. -/
def tickNs (s : State) : Int := rndI 1000000000 s.clk.rate

/-! ### Measurements (15 R403, R406) -/

/-- Whether CLK_MPORT names a master to follow: CHN_PTPMPORT.EN. -/
def ptpEn (s : State) : Bool := bitAt (rwGet s (Base.chn + 0x38) 0) 31

/-- A phase measurement `e` of reference `i` reaches CLK; the next boundary takes it up. -/
def giveMeas (s : State) (i : Nat) (e : Int) : State :=
  { s with clk := { s.clk with meas := lmod s.clk.meas i fun _ => some e } }

/-- 15 R406: TREF_IN rises. In 1PPS mode the pulse is compared with the nearest second of store time; edges lie 10^9 within 10^5
cycles apart while the reference is good. -/
def trefRise (s : State) : State :=
  if chTrefMode (chainB s) = 2 then
    let ok := match s.clk.trefAt with
      | some t => decide (999900000 ≤ s.clk.mclk - t ∧ s.clk.mclk - t ≤ 1000100000)
      | none => false
    let lt := ltNow s % 1000000000
    let e : Int := if lt < 500000000 then (lt : Nat) else (lt : Nat) - 1000000000
    let s := { s with clk := { s.clk with trefAt := some s.clk.mclk, trefOk := ok } }
    giveMeas s 2 e
  else s

/-! ### The boundary -/

/-- 15 R410: a measurement is taken up: whether it agrees with its prediction within JUMP and, for PTP, implies a REFCLK error within
100 ppm (15 R406), and the phase it leaves. -/
def takeMeas (s : State) (i : Nat) : State :=
  match lget s.clk.meas i none with
  | none => s
  | some e =>
    let m := max 1 (lget s.clk.mAge i 0)
    let diff := match lget s.clk.phase i none with
      | some p => e - p
      | none => 0
    let freq := s.clk.y + Int.tdiv (diff * 65536) m
    let ok := decide (diff.natAbs ≤ (chJump (chainB s)).natAbs) &&
              (i != 0 || decide (freq.natAbs * 10000 ≤ 65536 * (1000000000 / s.clk.rate)))
    { s with clk := { s.clk with phase := lmod s.clk.phase i (fun _ => some e), agree := lmod s.clk.agree i (fun _ => ok) } }

/-- 15 R406: whether a reference is present at this boundary. `twinOffer` says that the link is up and the partner's bundle carries
its offer; `per` counts the TREF_IN periods of the ending tick. -/
def refPresent (s : State) (twinOffer : Bool) (per : Nat) (rate : Option Int) (i : Nat) : Bool :=
  let b := chainB s
  if !hasSec s Ty.chain 0 then false
  else if i = 0 then
    ptpEn s && (match s.chn.ptp.age with | some a => decide (a < chSyncAge b) | none => false) && lget s.clk.agree 0 false
  else if i = 1 then twinOffer
  else if chTrefMode b = 2 then
    s.clk.trefOk && lget s.clk.agree 2 false &&
      (match s.clk.trefAt with | some t => decide (s.clk.mclk - t ≤ 1000100000) | none => false)
  else if chTrefMode b = 1 then
    let n := s.tsq.lastLen
    decide (99 * n ≤ per * 10000 ∧ per * 10000 ≤ 101 * n) &&
      (match rate with | some r => decide ((s.clk.y + r).natAbs * 10000 ≤ 65536 * (1000000000 / s.clk.rate)) | none => true)
  else false

/-- 15 R408: the reference selected: the lowest rank among those that were eligible at the last boundary and still are. -/
def pickRef (s : State) (was now : List Bool) : Nat :=
  let b := chainB s
  match (List.range 4).find? fun i =>
      let r := chRank b i
      r ≥ 3 || (lget was r false && lget now r false) with
  | some i => min 3 (chRank b i)
  | none => 3

/-- 15 R405: the whole ticks by which STK is relabelled so that |e| falls below half a tick. -/
def relabelBy (s : State) (e : Int) : Int := rndI (e * s.clk.rate) 1000000000

/-- STK and a phase measurement shifted by `n` ticks. -/
def relabel (s : State) (i : Nat) (n : Int) : State :=
  { s with clk := { s.clk with
      stk := (((s.clk.stk : Int) - n).toNat),
      phase := lmod s.clk.phase i fun p => p.map (· - rndI (n * 1000000000) s.clk.rate) } }

/-- 15 R411: GLIDE to TRACK after 16 consecutive boundaries with |E| below TRACKWIN, and back at a measurement of twice that. -/
def glideTrack (s : State) (measured : Option Int) : State :=
  let w := chTrackWin (chainB s)
  let ae : Int := (s.clk.e.natAbs : Nat)
  let far : Bool := match measured with | some e => decide (2 * w ≤ (e.natAbs : Nat)) | none => false
  let n := if ae < w then min 16 (s.clk.inwin + 1) else 0
  let st := if s.clk.st = 2 ∧ 16 ≤ n then 3
            else if s.clk.st = 3 ∧ far then 2
            else s.clk.st
  { s with clk := { s.clk with inwin := n, st := st } }

/-- 15 R410: the discipline law at the boundary that starts a tick. `changed` says the selection changed here, `r` is a frequency
measurement delivered, `measured` and `m` a phase measurement of the selected reference and the ticks since the one before. -/
def discipline (s : State) (changed : Bool) (measured : Option Int) (m : Nat) (r : Option Int) : State :=
  let b := chainB s
  let k : Clk := s.clk
  let k : Clk :=
    if changed then
      let e := if k.sel = 3 then 0 else (lget k.phase k.sel none).getD 0
      if k.sel = 3 then
        if k.learned then { k with e := e, st := 1, hold := 0, inwin := 0 } else { k with e := e, st := 0, y := 0, inwin := 0 }
      else { k with e := e, inwin := 0, st := if k.sel = 2 ∧ chTrefMode b = 1 then 3 else 2 }
    else match measured with
      | some e => { k with y := k.y + asr (Int.tdiv ((e - k.e) * 65536) (max 1 m : Nat)) (chKi b), e := e, learned := true }
      | none => match r with
        | some f => { k with y := k.y + asr f (chKi b), learned := true }
        | none => k
  let acc := k.acc + k.y
  let yc := asr acc 16
  let pull := if k.sel = 3 then 0 else asr k.e (chKp b)
  let c := clampI (- cMax s) (cMax s) (yc + pull)
  let n := nomLen k.rate k.frac
  let d := c - yc
  let move : Option Int → Option Int := fun p => p.map (· - d)
  { s with clk := { k with acc := acc - yc * 65536, c := c, len := ((n.1 : Int) + c).toNat, frac := n.2,
                           e := if k.sel = 3 then k.e else k.e - d, phase := k.phase.map move,
                           hold := if k.st = 1 then satAdd 0xFFFFFFFF k.hold 1 else k.hold } }

/-- What CLK does at a boundary (15 R404 to R411): STK rises, references are judged and one is selected, and the length of the
tick that starts is set. `twin` carries the partner's STK while it offers itself. -/
def clkBoundary (s : State) (twin : Option Nat) (per : Nat) (rate : Option Int) : State :=
  let b := chainB s
  let s := { s with clk := { s.clk with stk := s.clk.stk + 1, mAge := s.clk.mAge.map (· + 1) } }
  let got := s.clk.meas
  let ages := s.clk.mAge
  let s := takeMeas (takeMeas (takeMeas s 0) 1) 2
  let pres := [0, 1, 2].map (refPresent s twin.isSome per rate)
  let q := List.zipWith (fun (p : Bool) (x : Nat) => if p then min 65535 (x + 1) else 0) pres s.clk.q
  let q := if s.clk.ptpClr then lmod q 0 (fun _ => 0) else q
  let elig := q.map fun x => hasSec s Ty.chain 0 && decide (chQual b ≤ x) && decide (0 < x)
  let sel := if hasSec s Ty.chain 0 then pickRef s s.clk.elig elig else 3
  let changed := sel != s.clk.sel
  let s := { s with clk := { s.clk with
                             present := pres, q := q, elig := elig, ptpClr := false, sel := sel,
                             switches := if changed then satAdd 0xFFFFFFFF s.clk.switches 1 else s.clk.switches,
                             meas := [none, none, none],
                             mAge := List.zipWith (fun (x : Option Int) a => if x.isSome then 0 else a) got ages } }
  -- 15 R405
  let ph := (lget s.clk.phase sel none).getD 0
  let half := Int.natAbs (tickNs s) / 2
  let s := if sel = 0 ∧ (changed ∨ (lget got 0 none).isSome ∧ half < ph.natAbs) then relabel s 0 (relabelBy s ph)
           else if sel = 2 ∧ changed ∧ chTrefMode b = 2 then relabel s 2 (relabelBy s ph)
           else if sel = 1 ∧ changed then { s with clk := { s.clk with stk := twin.getD s.clk.stk } }
           else s
  let meas := if sel < 3 then (lget got sel none).bind fun _ => lget s.clk.phase sel none else none
  let freq := if sel = 2 ∧ chTrefMode b = 1 then rate else none
  let s := discipline s changed meas (max 1 (lget ages sel 1)) freq
  if sel = 3 then s else glideTrack s meas

/-- The boundary at which the timebase takes the image's RATE (03 R88): the one change of nominal length. -/
def takeRate (s : State) : State :=
  if hasSec s Ty.tick 0 ∧ fTick s ≠ s.clk.rate then { s with clk := { s.clk with rate := fTick s, frac := 0 } } else s

/-- 15 R413: the CLK registers. -/
def clkRead (k live : Clk) (offer : Bool) (off : Nat) : Nat :=
  match off with
  | 0x00 => k.st * 2 ^ 30 + k.sel * 2 ^ 28 + b2n offer * 2 ^ 27 + b2n live.pll1 * 2 ^ 26 + b2n live.on * 2 ^ 25
  | 0x04 => pat 32 k.c
  | 0x08 => pat 32 (clampI (-2147483648) 2147483647 k.e)
  | 0x0C => pat 32 k.y
  | 0x20 => k.stk % 2 ^ 32
  | 0x24 => k.stk / 2 ^ 32 % 2 ^ 32
  | 0x28 => k.switches
  | 0x2C => k.hold
  | _ =>
    if off = 0x10 ∨ off = 0x14 ∨ off = 0x18 then
      let i := (off - 0x10) / 4
      b2n (lget k.elig i false) * 2 ^ 31 + b2n (lget k.present i false) * 2 ^ 30 + lget k.q i 0
    else 0

end Sys2Proof.Machine
end

