-- ==== Sys2Proof/Machine/Chain.lean ====
section
/-! DEFINITION. The chain ports: classification and forwarding, the frame rings, fixed words, chain boot and the PTP slave (15 R392 to
R403, R413). The layouts of Ethernet, VLAN and PTP headers are the standards' own: assumption log entry 6. -/

namespace Sys2Proof.Machine

def modPort (s : State) (p : Nat) (f : Port → Port) : State :=
  { s with chn := { s.chn with ports := lmod s.chn.ports p f } }

def portAt (s : State) (p : Nat) : Port := lget s.chn.ports p {}

/-- The link of a port is lost; DOWNS counts it (15 R413). -/
def portDown (s : State) (p : Nat) : State :=
  modPort s p fun x => { x with link := false, downs := if x.link then sat16 x.downs else x.downs }

/-- 15 R399: the derived address: 0x02 and UID bytes 4 to 0. -/
def derivedMac (s : State) : Bytes := 0x02 :: ((uid s).take 5).reverse

/-- 15 R413: the station address: CHAIN MAC, or the derived address before it is applied or while it is 0. -/
def stationMac (s : State) : Bytes :=
  let b := chainB s
  if !hasSec s Ty.chain 0 || leNat (chMac b) == 0 then derivedMac s else chMac b

/-- The EtherType of a frame, behind a VLAN tag if it has one; the tag's TCI; and where the payload starts. -/
structure EthHdr where
  tagged : Bool
  tci : Nat
  etype : Nat
  payload : Nat
  deriving DecidableEq, Repr

def ethHdr (f : Bytes) : EthHdr :=
  let t := beNat ((f.drop 12).take 2)
  if t = 0x8100 then
    { tagged := true, tci := beNat ((f.drop 14).take 2), etype := beNat ((f.drop 16).take 2), payload := 18 }
  else { tagged := false, tci := 0, etype := t, payload := 14 }

/-- 15 R392: whether the frame's VID is accepted. -/
def vidOk (b : Bytes) (h : EthHdr) : Bool :=
  let vid := h.tci % 4096
  if h.tagged && vid != 0 then (List.range 4).any fun i => chVid b i == 0x8000 + vid else chAccUntag b

/-- 15 R393: the fabric CLASS of a forwarded frame. -/
def fwdClass (s : State) (h : EthHdr) : Nat :=
  if h.etype = 0x88F7 then 3
  else if !hasSec s Ty.chain 0 then 0
  else chPcpClass (chainB s) (if h.tagged then h.tci / 8192 else 0)

/-- A frame with its FCS. -/
def addFcs (f : Bytes) : Bytes := f ++ leBytes 4 (crc32 f)

/-- A frame as sent: padded to 60 bytes, with its FCS. -/
def wireFrame (f : Bytes) : Bytes := addFcs (f ++ List.replicate (60 - f.length) 0)

/-- 15 R394: the wire time of a frame of `l` bytes, FCS included, in cycles. -/
def wireTime (l : Nat) : Nat := cdiv ((l + 20) * 8) 100

/-! ### PTP (15 R402, R403) -/

def ptpType (f : Bytes) (o : Nat) : Nat := u8 f o % 16
def ptpDom (f : Bytes) (o : Nat) : Nat := u8 f (o + 4)
def ptpTwoStep (f : Bytes) (o : Nat) : Bool := bitAt (u8 f (o + 6)) 1

/-- The correctionField in ns, its fraction dropped. -/
def ptpCorr (f : Bytes) (o : Nat) : Int := asr (sgn 64 (beNat ((f.drop (o + 8)).take 8))) 16

def ptpSrc (f : Bytes) (o : Nat) : Bytes := (f.drop (o + 20)).take 10
def ptpSeq (f : Bytes) (o : Nat) : Nat := beNat ((f.drop (o + 30)).take 2)

/-- The timestamp of a message body in ns. -/
def ptpTs (f : Bytes) (o : Nat) : Int :=
  ((beNat ((f.drop (o + 34)).take 6) * 1000000000 + beNat ((f.drop (o + 40)).take 4) : Nat) : Int)

/-- EUI-48 to EUI-64 and portNumber 1: this clock's port identity. -/
def ownPortId (s : State) : Bytes := let m := stationMac s; m.take 3 ++ [0xFF, 0xFE] ++ m.drop 3 ++ [0, 1]

/-- The port identity of the master that firmware named. -/
def masterId (s : State) : Bytes :=
  let w (a : Nat) := rwGet s (Base.chn + a) 0
  beBytes 4 (w 0x34) ++ beBytes 4 (w 0x30) ++ beBytes 2 (w 0x38 % 65536)

/-- A frame whose correctionField has grown by `ns`, with its FCS recomputed. -/
def ptpCorrect (f : Bytes) (o : Nat) (ns : Int) : Bytes :=
  let c := sgn 64 (beNat ((f.drop (o + 8)).take 8)) + ns * 65536
  let g := f.take (o + 8) ++ beBytes 8 (pat 64 c) ++ f.drop (o + 16)
  addFcs (g.take (g.length - 4))

/-- 15 R403: t2 - t1 of a Sync of the followed master is known; after the first exchange it gives a measurement. -/
def ptpMs (s : State) (ms : Int) : State :=
  let p := s.chn.ptp
  let s := { s with chn := { s.chn with ptp := { p with ms := some ms } } }
  if p.dvalid then
    let e := ms - p.d
    giveMeas { s with chn := { s.chn with ptp := { s.chn.ptp with
      ofs := clampI (-2147483648) 2147483647 e, age := some 0 } } } 0 e
  else s

/-- 15 R403: the PTP slave takes a message that arrived on port `p` with ingress stamp `ts`. -/
def ptpSlave (s : State) (p : Nat) (f : Bytes) (o : Nat) (ts : Int) : State :=
  let q := s.chn.ptp
  let b := chainB s
  if !(ptpEn s) || ptpDom f o != chDomain b || ptpSrc f o != masterId s then s
  else
    let put (q : Ptp) : State := { s with chn := { s.chn with ptp := q } }
    match ptpType f o with
    | 0 =>
      let t2 := ts - chAsym b p - ptpCorr f o
      if ptpTwoStep f o then put { q with mport := p, wait := some (ptpSeq f o, t2) }
      else ptpMs (put { q with mport := p, wait := none }) (t2 - ptpTs f o)
    | 8 =>
      match q.wait with
      | some (n, t2) =>
        if n = ptpSeq f o then ptpMs (put { q with wait := none }) (t2 - ptpTs f o - ptpCorr f o) else s
      | none => s
    | 9 =>
      match q.dreq, q.ms with
      | some (n, t3), some ms =>
        if n = ptpSeq f o ∧ (f.drop (o + 44)).take 10 = ownPortId s then
          let sm := ptpTs f o - ptpCorr f o - t3
          put { q with d := fdivI (ms + sm) 2, dvalid := true, dreq := none }
        else s
      | _, _ => s
    | _ => s

/-- 15 R403: a write to CHN_PTPMID or CHN_PTPMPORT discards d and clears the PTP qualification count at the next boundary. -/
def ptpForget (s : State) : State :=
  { s with chn := { s.chn with ptp := { s.chn.ptp with dvalid := false, d := 0, ms := none, wait := none, dreq := none, due := false } },
           clk := { s.clk with ptpClr := true } }

/-! ### The rings (15 R396, R397) -/

def rxEntries (s : State) : Nat := bits (rwGet s (Base.chn + 0x14) 0) 12 0
def rxBuf (s : State) : Nat := bits (rwGet s (Base.chn + 0x14) 0) 31 16
def txEntries (s : State) : Nat := bits (rwGet s (Base.chn + 0x24) 0) 12 0
def txBuf (s : State) : Nat := bits (rwGet s (Base.chn + 0x24) 0) 31 16
def rxTail (s : State) : Nat := rwGet s (Base.chn + 0x1C) 0
def txTail (s : State) : Nat := rwGet s (Base.chn + 0x2C) 0

/-- Where entry `i` of a ring lies. -/
def ringEntry (base entries buf i : Nat) : Nat := base + (if entries = 0 then 0 else i % entries) * (32 + buf)

/-- Entries of a ring that are being written: the head that firmware sees stands before the first of them. -/
def headBehind (s : State) (next : Nat) (entry : Job → Option Nat) : Nat :=
  ((s.fab.xfers.filterMap fun x => entry x.job).foldl (fun (a : Nat) i => max a ((next + 2 ^ 32 - i) % 2 ^ 32)) 0 |> fun k => (next + 2 ^ 32 - k) % 2 ^ 32)

/-- CHN_RXHEAD (15 R396): it passes an entry once both its writes have completed. -/
def rxHead (s : State) : Nat := headBehind s s.chn.rxHead fun j => match j with | .chnRx i => some i | _ => none

/-- 15 R396: the local copy of a frame is written into the receive ring, or dropped and counted. -/
def ringRx (s : State) (p : Nat) (f : Bytes) (h : EthHdr) (ts : Int) : State :=
  let n := rxEntries s
  let used := (s.chn.rxHead + 2 ^ 32 - rxTail s) % 2 ^ 32
  let body := f.take (f.length - 4)
  if n ≤ used ∨ rxBuf s < body.length then modPort s p fun x => { x with ring := satAdd 255 x.ring 1 }
  else
    let a := ringEntry (rwGet s (Base.chn + 0x10) 0) n (rxBuf s) s.chn.rxHead
    let desc := leBytes 2 body.length ++ leBytes 1 p ++ leBytes 1 (b2n h.tagged + 2 * b2n (h.etype == 0x88F7)) ++
      leBytes 4 h.tci ++ leBytes 8 (pat 64 ts) ++ leBytes 8 (tcReg s) ++ leBytes 8 0
    let s := unitWrite s (20 + p) 0 a (desc ++ body) (.chnRx s.chn.rxHead)
    { s with chn := { s.chn with rxHead := (s.chn.rxHead + 1) % 2 ^ 32 } }

/-- 15 R393: a frame is forwarded from port `p` to the other as one message. -/
def forwardFrame (s : State) (p : Nat) (f : Bytes) (h : EthHdr) : State :=
  if !(portAt s (1 - p)).link then modPort s p fun x => { x with nolink := satAdd 255 x.nolink 1 }
  else
    let s := if h.etype = 0x88F7 ∧ (ptpType f h.payload = 2 ∨ ptpType f h.payload = 3 ∨ ptpType f h.payload = 0xA) then
        { s with chn := { s.chn with ptp := { s.chn.ptp with pdelay := sat16 s.chn.ptp.pdelay } } } else s
    unitMsg s (20 + p) (fwdClass s h) (21 - p) f (.fwd s.clk.mclk)

/-- The entry of the transmit ring at CHN_TXHEAD. -/
def txAt (s : State) : Nat := ringEntry (rwGet s (Base.chn + 0x20) 0) (txEntries s) (txBuf s) s.chn.txHead

/-- The entry at CHN_TXHEAD is on its way. -/
def txBusy (s : State) : Bool :=
  s.fab.xfers.any fun x => match x.job with | .txDesc | .txBody _ | .txMsg _ | .txBack => true | _ => false

/-- 15 R397: the entry at CHN_TXHEAD is taken up: its descriptor is read. -/
def txPump (s : State) : State :=
  if txBusy s || txEntries s == 0 || s.chn.txHead == txTail s then s else unitRead s 20 0 (txAt s) 32 .txDesc

/-- 15 R397: STATUS `code` and, where the descriptor `d` asks for it, the egress stamp are written back. -/
def txWriteBack (s : State) (d : Bytes) (ts : Option Int) (code : Nat) : State :=
  let st := leBytes 8 (u64 d 16 / 256 * 256 + code)
  match ts with
  | some t => if bitAt (u8 d 3) 0 then unitWrite s 20 0 (txAt s + 8) (leBytes 8 (pat 64 t) ++ st) .txBack else unitWrite s 20 0 (txAt s + 16) st .txBack
  | none => unitWrite s 20 0 (txAt s + 16) st .txBack

/-- 15 R397: the descriptor has been read: a bad one is answered at once, of a good one the frame is read. -/
def txDescDone (s : State) (d : Bytes) : State :=
  let len := u16 d 0
  let port := u8 d 2
  if len < 14 ∨ 9212 < len then txWriteBack s d none 3
  else if 1 < port ∨ !(portAt s port).link then txWriteBack s d none 2
  else unitRead s 20 0 (txAt s + 32) len (.txBody d)

/-- The frame has been read: it goes to its port's egress, padded and with its FCS. -/
def txBodyDone (s : State) (d f : Bytes) : State := unitMsg s 20 (bits (u32 d 4) 1 0) (20 + u8 d 2) (wireFrame f) (.txMsg d)

/-- The entry is done with, and the next one is taken up. -/
def txBackDone (s : State) : State := txPump { s with chn := { s.chn with txHead := (s.chn.txHead + 1) % 2 ^ 32 } }

/-! ### Starting a frame (15 R394, R398) -/

/-- Whether a fixed LINK word holds port `q` at some cycle of [c, c + n): one of the running tick, or, where the cycles run past its
end, one of the running set in the next tick. -/
def wireHeld (s : State) (q c n : Nat) : Bool :=
  s.tsq.disp.any (fun d => d.kind == 7 && d.unit == 0x23 + q && decide (d.slot * 256 < c + n) && decide (c < (d.slot + d.span) * 256)) ||
  (s.tsq.run && decide (s.clk.len < c + n) && (slotWords (secB s Ty.sched s.tsq.set)).any fun v =>
    swKind v == 7 && swUnit v == 0x23 + q && decide (s.clk.len + swSlot v * 256 < c + n))

/-- 15 R401, R402: what a forwarded Sync or Delay_Req gains in its correctionField, in ns: its residence time in MCLK cycles (1 ns each), which
the path asymmetry of the port enters as IEEE 1588 adds delayAsymmetry to a Sync at its ingress and takes it from a Delay_Req at its egress. -/
def residence (s : State) (p q came type : Nat) : Int :=
  ((s.clk.mclk - came : Nat) : Int) + if type = 0 then chAsym (chainB s) p else - chAsym (chainB s) q

/-- 15 R394: a frame of `l` bytes may start on port `q` at this cycle. -/
def canStart (s : State) (q l : Nat) : Bool :=
  let p := portAt s q
  p.link && decide (p.busyTo ≤ s.clk.mclk) && !(s.chn.ptp.due && s.chn.ptp.mport == q) && !(wireHeld s q s.clk.cyc (wireTime l))

/-- A frame goes on the wire of port `q`, behind one that is still on it, and is counted. -/
def putWire (s : State) (q : Nat) (f : Bytes) : State :=
  modPort s q fun x => { x with txfr := x.txfr + 1, wire := f, busyTo := max x.busyTo s.clk.mclk + wireTime f.length }

/-- 05 R137: the link layer of port `q` can start a packet's frame. -/
def chnReady (s : State) (q : Nat) (p : Pkt) : Bool := !(s.fab.handed.any fun x => x.req.dst == 20 + q) && canStart s q p.req.flen

/-- 05 R137: the egress of port `q` hands over a packet when its link layer can start the frame. -/
def chnEgress (s : State) (q : Nat) : State := egressTake s (4 + q) (chnReady s q)

/-- The job behind a packet. -/
def pktJob (s : State) (p : Pkt) : Job :=
  ((xferOf s p.req.src p.req.tag).bind fun i => (s.fab.xfers[i]?).map (·.job)).getD .none

/-- 15 R394, R402: the message that the egress of port `q` picks starts on the wire at store time `ts`, the stamp of a transmit-ring frame. -/
def txStart (s : State) (q : Nat) (ts : Int) : State :=
  let s := chnEgress s q
  match s.fab.handed.find? fun p => p.req.dst == 20 + q with
  | none => s
  | some p =>
    if !canStart s q p.req.flen then s
    else
      let h := ethHdr p.req.data
      let t := ptpType p.req.data h.payload
      let s' := answerHanded s p
      match pktJob s p with
      | .fwd came =>
        let corrects := h.etype = 0x88F7 ∧ (t = 0 ∨ t = 1) ∧ ptpDom p.req.data h.payload = chDomain (chainB s)
        putWire s' q (if corrects then ptpCorrect p.req.data h.payload (residence s (p.req.src - 20) q came t) else p.req.data)
      | .txMsg d => txWriteBack (putWire s' q p.req.data) d (some ts) 1
      | _ => putWire s' q p.req.data

/-- 15 R398: dispatch `i`, a SEND, is complete when its frame has left the wire, and at once where nothing is sent. -/
def sendEnd (s : State) (i q : Nat) : State := doneDispAt s i (s.clk.cyc + ((portAt s q).busyTo - s.clk.mclk))

/-- 15 R398: SEND puts the frame of the front buffer on the wire, or counts a bad length. The reads are fixed ones of the word's unit. -/
def linkSend (s : State) (q : Nat) (word : Option Nat) (reg : Nat) : State :=
  let fa := regBase (inputsB s) reg
  let (s, n, _) := fixedGet s (0x23 + q) word fa 2
  let len := leNat n
  if len < 14 ∨ 9212 < len then modPort s q fun x => { x with badsend := satAdd 255 x.badsend 1 }
  else
    let (s, f, _) := fixedGet s (0x23 + q) word (fa + 2) len
    if (portAt s q).link then putWire s q (wireFrame f) else s

/-- 15 R403: the Delay_Req that is due goes out on the master port with egress stamp `ts`. -/
def delayReq (s : State) (ts : Int) : State :=
  let p := s.chn.ptp
  let m := p.mport
  if !(p.due && ptpEn s && (portAt s m).link && decide ((portAt s m).busyTo ≤ s.clk.mclk) && !wireHeld s m s.clk.cyc (wireTime 64)) then s
  else
    let hdr : Bytes := [0x01, 0x02] ++ beBytes 2 44 ++ [BitVec.ofNat 8 (chDomain (chainB s)), 0, 0, 0] ++ beBytes 8 0 ++ beBytes 4 0 ++
      ownPortId s ++ beBytes 2 p.dseq ++ [1, 0x7F] ++ beBytes 10 0
    let f := [0x01, 0x1B, 0x19, 0, 0, 0] ++ stationMac s ++ beBytes 2 0x88F7 ++ hdr
    let s := { s with chn := { s.chn with ptp := { p with
      due := false, dreq := some (p.dseq, ts - chAsym (chainB s) m), dseq := (p.dseq + 1) % 65536 } } }
    putWire s m (wireFrame f)

/-! ### Chain boot (15 R399) -/

/-- The half-open ranges of `l` with [a, b) added, merged and in order. -/
def rangeAdd (a b : Nat) : List (Nat × Nat) → List (Nat × Nat)
  | [] => [(a, b)]
  | (x, y) :: r =>
    if b < x then (a, b) :: (x, y) :: r
    else if y < a then (x, y) :: rangeAdd a b r
    else rangeAdd (min a x) (max b y) r

/-- The lowest byte that is still missing. -/
def lowestMissing (l : List (Nat × Nat)) : Nat :=
  match l with
  | (0, y) :: _ => y
  | _ => 0

/-- Every byte of [0, TOTAL) has arrived. -/
def bootComplete (s : State) : Bool :=
  match s.chn.total with
  | some t => decide (t ≤ lowestMissing s.chn.got)
  | none => false

/-- A boot frame of the chip, broadcast. -/
def bootFrame (s : State) (type off : Nat) (data : Bytes) : Bytes :=
  wireFrame (List.replicate 6 0xFF ++ stationMac s ++ beBytes 2 0x88B5 ++ leBytes 1 type ++ leBytes 1 1 ++ leBytes 2 0 ++ uid s ++
    leBytes 4 off ++ leBytes 4 (s.chn.total.getD 0) ++ leBytes 2 0 ++ leBytes 2 0 ++ data)

/-- A frame goes out on both ports. -/
def sendBoth (s : State) (f : Bytes) : State :=
  (List.range 2).foldl (fun s q => if (portAt s q).link then putWire s q f else s) s

/-- 15 R399: a BOOTREQ at once and then every second while bytes are missing. -/
def bootReq (s : State) : State :=
  let dueNow := match s.chn.reqAt with | some t => decide (t + 1000000 ≤ s.clk.aon) | none => true
  if s.chn.boot && dueNow && !bootComplete s then
    let s := { s with chn := { s.chn with reqAt := some s.clk.aon } }
    sendBoth s (bootFrame s 1 (lowestMissing s.chn.got) (leBytes 4 0x4E462460 ++ leBytes 4 0xB0))
  else s

/-- 15 R399: BOOTDONE with the reject code, or 0. -/
def bootDone (s : State) : State :=
  match s.chn.doneDue with
  | some c => sendBoth { s with chn := { s.chn with doneDue := none } } (bootFrame s 3 c [])
  | none => s

/-- Whether chain boot consumes a frame: BOOTDATA addressed to the chip with its own UID. -/
def isBootData (s : State) (f : Bytes) (h : EthHdr) : Bool :=
  s.chn.boot && h.etype == 0x88B5 && f.take 6 == stationMac s && u8 f h.payload == 2 && (f.drop (h.payload + 4)).take 8 == uid s

/-- 15 R399: BOOTDATA is written into SRAM from 0x1010_0000 + OFFSET, as far as the 7 340 032 bytes from there go. -/
def bootData (s : State) (f : Bytes) (h : EthHdr) : State :=
  let o := h.payload
  let off := u32 f (o + 0x0C)
  let total := u32 f (o + 0x10)
  let n := u16 f (o + 0x14)
  let same := match s.chn.total with | some t => t == total | none => true
  if 7340032 < total ∨ !same ∨ n = 0 ∨ 8192 < n then s
  else
    let data := (((f.take (f.length - 4)).drop (o + 0x18)).take n).take (7340032 - off)
    let s := { sramPut s (0x100000 + off) data with chn := { s.chn with total := some total } }
    if data.isEmpty then s else { s with chn := { s.chn with got := rangeAdd off (off + data.length) s.chn.got } }

/-! ### Reception (15 R392) -/

/-- 15 R391: ports whose PORTEN or PHY changed lose their links and retrain. -/
def chainRetrain (s : State) (old new : Bytes) : State :=
  (List.range 2).foldl (fun s p =>
    if chPortEn old p = chPortEn new p ∧ chPhy old p = chPhy new p then s else portDown s p) s

/-- 15 R391: whether the link of port `p` can be up: its SerDes and its link layer are powered, and the CHAIN section in force uses it. -/
def portUsed (s : State) (p : Nat) : Bool :=
  decide (p < 2) && domOn s (50 + p) && domOn s (52 + p) && (!hasSec s Ty.chain 0 || chPortEn (chainB s) p)

/-- 15 Table 15-3: the first row that matches. -/
def chainReceive (s : State) (p : Nat) (r : ChainFrame) : State :=
  let f := r.bytes
  let h := ethHdr f
  let b := chainB s
  if !(portAt s p).link then s
  else
    let s := modPort s p fun x => { x with rxfr := x.rxfr + 1 }
    if !r.fcsOk ∨ f.length < 64 ∨ 9216 < f.length then modPort s p fun x => { x with fcs := satAdd 255 x.fcs 1 }
    else if h.etype = 0x8808 then modPort s p fun x => { x with ctrl := satAdd 255 x.ctrl 1 }
    else if h.etype = 0x88F7 then
      let t := ptpType f h.payload
      let s := ptpSlave s p f h.payload r.ts
      let s := if t = 0xB ∨ t = 0xC ∨ t = 0xD then ringRx s p f h r.ts else s
      forwardFrame s p f h
    else if isBootData s f h then bootData s f h
    else if h.etype = 0x88B5 then forwardFrame s p f h
    else if f.take 6 = stationMac s then
      if vidOk b h then ringRx s p f h r.ts else modPort s p fun x => { x with vid := satAdd 255 x.vid 1 }
    else
      let group := f.take 6 = List.replicate 6 0xFF ∨
        (List.range 4).any fun i => leNat (chMcast b i) != 0 && chMcast b i == f.take 6
      let s := if group ∧ vidOk b h then ringRx s p f h r.ts else s
      forwardFrame s p f h

/-- The boundary's part: a Delay_Req falls due, and the age of the last measurement grows (15 R403, R406). -/
def chainBoundary (s : State) : State :=
  let b := chainB s
  let p := s.chn.ptp
  let due := ptpEn s && (p.due || (hasSec s Ty.chain 0 && tcReg s % 2 ^ chDrShift b == 0))
  { s with chn := { s.chn with ptp := { p with due := due, age := p.age.map (· + 1) } } }

/-- 15 R413: the CHN registers that show state. -/
def chnRead (s : State) (off : Nat) : Nat :=
  let m := stationMac s
  match off with
  | 0x00 => beNat (m.drop 2)
  | 0x04 => beNat (m.take 2)
  | 0x18 => rxHead s
  | 0x28 => s.chn.txHead
  | 0x3C => b2n s.chn.ptp.dvalid * 2 ^ 31 + s.chn.ptp.mport * 2 ^ 30 + s.chn.ptp.pdelay
  | 0x40 => pat 32 s.chn.ptp.d
  | 0x44 => pat 32 s.chn.ptp.ofs
  | _ =>
    if 0x100 ≤ off ∧ off < 0x180 then
      let p := (off - 0x100) / 0x40
      let x := portAt s p
      match (off - 0x100) % 0x40 with
      | 0x00 => b2n x.link * 2 ^ 31 + b2n x.link * 2 ^ 30 + chPhy (chainB s) p * 2 ^ 28 + x.downs
      | 0x04 => x.uncorr * 65536 + x.corr
      | 0x08 => x.rxfr % 2 ^ 32
      | 0x0C => x.rxfr / 2 ^ 32 % 2 ^ 32
      | 0x10 => x.txfr % 2 ^ 32
      | 0x14 => x.txfr / 2 ^ 32 % 2 ^ 32
      | 0x18 => x.fcs * 2 ^ 24 + x.nolink * 2 ^ 16 + x.vid * 2 ^ 8 + x.ring
      | 0x1C => x.ctrl * 2 ^ 8 + x.badsend
      | _ => 0
    else 0

end Sys2Proof.Machine
end

