-- ==== Sys2Proof/Machine/Guosh.lean ====
section
/-! DEFINITION. The Guosh link: the TWIN section, frames, the link words, acknowledgement and replay, mirror writes, the copy of the
mirrored regions, firmware frames, BEATs and twin time (16 R415 to R444). -/

namespace Sys2Proof.Machine

/-! ### TWIN (16 R418) -/

def twD (b : Bytes) : Nat := u8 b 0
def twAuto (b : Bytes) : Bool := bitAt (u8 b 1) 0
def twSeatWait (b : Bytes) : Nat := u16 b 2
def twLockN (b : Bytes) : Nat := u16 b 4
def twBeatTo (b : Bytes) : Nat := u16 b 6
def twPassMax (b : Bytes) : Nat := u8 b 9
def twAsym (b : Bytes) : Int := i16 b 0xA

/-- 16 R418: the mirrored regions, base and length: the staged regions, both buffers of each, then the extra ones. -/
def mirrorRegions (s : State) : List (Nat × Nat) :=
  let b := inputsB s
  ((List.range 64).filter (regValid b)).map (fun r => (regBase b r, 2 * regLen b r)) ++
    (List.range (twNxr (twinB s))).map fun i => (twXrBase (twinB s) i, twXrLen (twinB s) i)

/-- TWN_CTL.ACCEPT and AUTOJOIN; the latter takes its value from TWIN until firmware writes it. -/
def twnCtl (s : State) : Nat := rwGet s Base.twn (8 + 4 * b2n (twAuto (twinB s)))
def accepts (s : State) : Bool := bitAt (twnCtl s) 3
def autoJoin (s : State) : Bool := bitAt (twnCtl s) 2

/-- REVID (01 Table 1-6). -/
def revId : Nat := 0xB0

/-- An event of the twin (TWN_STAT.EVENT) in logical tick `ltc`. -/
def twnEvent (s : State) (e ltc : Nat) : State := { s with twn := { s.twn with event := e, evTc := ltc } }

/-! ### Frames (16 R417) -/

/-- The most payload bytes of a frame. -/
def frameMax : Nat := 16384

/-- A frame as its bytes: header, payload, CRC. -/
def frameBytes (t : TwinTx) : Bytes :=
  let body := leBytes 1 t.type ++ leBytes 2 t.payload.length ++ leBytes 4 t.offset ++ leBytes 8 t.seq ++ t.payload
  0xA7 :: body ++ leBytes 4 (crc32 body)

/-- The frame that a queued message holds. -/
def frameOf (b : Bytes) : TwinTx := { type := u8 b 1, offset := u32 b 4, seq := u64 b 8, payload := (b.drop 16).take (u16 b 2) }

/-- 16 R415: the cycles that the frames put on the link between two states take there, at 6746 bytes per slot. -/
def linkTime (was now : State) : Nat :=
  cdiv (256 * ((now.twn.link.take (now.twn.link.length - was.twn.link.length)).foldl (fun a t => a + (20 + t.payload.length)) 0)) 6746

/-- A frame goes on the link. -/
def linkPut (s : State) (t : TwinTx) : State := { s with twn := { s.twn with link := t :: s.twn.link } }

/-- An elastic frame is submitted to egress 6; when it goes, it frees `lines` of the buffer of forwarded writes. -/
def linkMsg (s : State) (t : TwinTx) (cls lines : Nat) : State := unitMsg s 22 cls 22 (frameBytes t) (.link lines)

def linkSubmit (s : State) (t : TwinTx) (cls : Nat) : State := linkMsg s t cls 0

/-- Bytes of a stream from offset `off` as frames. -/
def framesOf (type seq : Nat) : Nat → Nat → Bytes → List TwinTx
  | 0, _, _ => []
  | f + 1, off, b =>
    if b.isEmpty then []
    else { type := type, offset := off, seq := seq, payload := b.take frameMax } :: framesOf type seq f (off + frameMax) (b.drop frameMax)

/-- The frames that hold a run of bytes. -/
def cutFrames (type seq off : Nat) (b : Bytes) : List TwinTx := framesOf type seq (b.length / frameMax + 1) off b

/-- 16 Table 16-7: whether a LINK word keeps elastic frames off the link at this cycle. -/
def linkHeld (s : State) : Bool :=
  s.tsq.disp.any fun d => d.kind == 7 && d.unit == 0x25 && bits d.payload 63 60 ≤ 1 &&
    decide (d.slot * 256 ≤ s.clk.cyc) && decide (s.clk.cyc < (d.slot + d.span) * 256)

/-- 05 R137: the link layer can start an elastic frame. -/
def linkReady (s : State) : Bool := s.twn.up && !linkHeld s

/-- 05 R137: the egress of the link sends the frame it chose: it goes on the link at once and is answered. -/
def linkEgress (s : State) : State :=
  if !linkReady s then s
  else
    let s := egressTake s 6 fun _ => true
    (s.fab.handed.filter fun p => p.req.dst == 22).foldl (fun s p =>
      let lines := match pktJob s p with | .link n => n | _ => 0
      answerHanded (linkPut { s with twn := { s.twn with fwdLines := s.twn.fwdLines - lines } } (frameOf p.req.data)) p) s

/-! ### Streams -/

/-- The bytes of a stream that have arrived without a gap. -/
def assembleGo : Nat → List (Nat × Bytes) → Bytes → Bytes
  | 0, _, acc => acc
  | f + 1, l, acc =>
    match l.find? fun x => decide (x.1 ≤ acc.length) && decide (acc.length < x.1 + x.2.length) with
    | some x => assembleGo f l (acc ++ x.2.drop (acc.length - x.1))
    | none => acc

def assemble (l : List Seg) (seq : Nat) : Bytes :=
  let m := (l.filter fun x => x.1 == seq).map (·.2)
  assembleGo (m.length + 1) m []

/-- A record of a bundle: type, flags, index, body (16 R422). -/
structure Rec where
  type  : Nat
  flags : Nat
  idx   : Nat
  body  : Bytes
  deriving DecidableEq, Repr

/-- A record as its bytes. -/
def recBytes (r : Rec) : Bytes :=
  leBytes 1 r.type ++ leBytes 1 r.flags ++ leBytes 2 r.idx ++ leBytes 4 r.body.length ++ padTo ((r.body.length + 7) / 8 * 8) r.body

/-- The records that stand whole in a run of bytes, up to END, with the place of each. -/
def parseRecs : Nat → Nat → Bytes → List (Nat × Rec)
  | 0, _, _ => []
  | f + 1, off, b =>
    let n := u32 b 4
    let size := 8 + (n + 7) / 8 * 8
    if b.length < 8 ∨ b.length < size then []
    else
      let r : Rec := { type := u8 b 0, flags := u8 b 1, idx := u16 b 2, body := (b.drop 8).take n }
      (off, r) :: (if r.type = 7 then [] else parseRecs f (off + size) (b.drop size))

/-- The records of a stream. -/
def recsOf (b : Bytes) : List (Nat × Rec) := parseRecs (b.length / 8 + 1) 0 b

/-- The MSEQ that a bundle's CONTROL names. -/
def recMseq (l : List (Nat × Rec)) : Nat := match l.find? fun x => x.2.type == 6 with | some x => u64 x.2.body 4 | none => 0

/-- 16 R422: bundle `k` is complete: END has arrived, COUNT and BYTES match, and every mirror write it names has been applied. -/
def bundleRecs (s : State) (k : Nat) : Option (List Rec) :=
  let l := recsOf (assemble s.twn.rxb k)
  match l.getLast? with
  | some (off, r) =>
    if r.type = 7 ∧ u32 r.body 0 = l.length - 1 ∧ u32 r.body 4 = off ∧ recMseq l ≤ s.twn.mseq then some (l.map (·.2)) else none
  | none => none

/-- The highest LTC whose bundle this chip holds complete; the running one where it has used it. -/
def ownBack (s : State) : Nat :=
  ((s.twn.rxb.map (·.1)).eraseDups.filter fun k => (bundleRecs s k).isSome).foldl max (if shadowRun s then s.tsq.tc else 0)

/-! ### Acknowledgement and replay (16 R431) -/

/-- 16 Table 16-4. FACK is one below the next FSEQ awaited. -/
def ackPayload (s : State) (ntype noff nseq : Nat) : Bytes :=
  padTo 28 (leBytes 8 (ownBack s) ++ leBytes 8 s.twn.mseq ++ leBytes 8 (pat 64 ((s.twn.fack : Int) - 1)) ++ leBytes 1 ntype) ++
    leBytes 4 noff ++ leBytes 8 nseq

def ackFrame (s : State) (ntype noff nseq : Nat) : TwinTx :=
  { type := 2, offset := 0, seq := tcReg s, payload := ackPayload s ntype noff nseq }

/-- A NAK: an extra elastic ACK that names the first missing byte. -/
def sendNak (s : State) (ntype noff nseq : Nat) : State :=
  linkSubmit { s with twn := { s.twn with naks := sat16 s.twn.naks } } (ackFrame s ntype noff nseq) 0

/-- 16 R431: the first missing bytes of the bundle streams, once something after them has arrived. -/
def bundleGap (s : State) : Option (Nat × Nat) :=
  let seqs := (s.twn.rxb.map (·.1)).eraseDups
  let top := seqs.foldl max 0
  let low := seqs.foldl min top
  (List.range (top + 1 - low)).findSome? fun i =>
    let k := low + i
    let n := (assemble s.twn.rxb k).length
    let more := s.twn.rxb.any fun x => x.1 == k && decide (n < x.2.1 + x.2.2.length)
    let ended := match (recsOf (assemble s.twn.rxb k)).getLast? with | some (_, r) => r.type == 7 | none => false
    if more ∨ (k < top ∧ !ended) then some (k, n) else none

/-- 16 R424: a BUNDLE frame. A chip that is no shadow, or that has used the bundle, ignores it. -/
def bundleIn (s : State) (f : TwinFrame) : State :=
  if !f.good ∨ !isShadow s ∨ (shadowRun s ∧ f.seq ≤ s.tsq.tc) then s
  else
    let s := { s with twn := { s.twn with rxb := s.twn.rxb ++ [(f.seq, f.offset, f.payload)] } }
    match bundleGap s with
    | some (k, n) => sendNak s 1 n k
    | none => s

/-- 16 R431: the lead resends what it still holds of a named range. -/
def resend (s : State) (ntype noff nseq : Nat) : State :=
  let frames :=
    if ntype = 1 then
      match s.twn.sent.find? fun x => x.1 == nseq with
      | some x => cutFrames 1 nseq noff (x.2.drop noff)
      | none => if nseq = s.tsq.tc then cutFrames 1 nseq noff (s.twn.bun.drop noff) else []
    else s.twn.keep.filter fun t => t.type == ntype && t.seq == nseq && decide (noff < t.offset + t.payload.length)
  if ntype = 0 ∨ frames.isEmpty then s
  else frames.foldl (fun s t => linkSubmit s t 0) { s with twn := { s.twn with resent := sat16 s.twn.resent } }

/-- 16 R431: an ACK. -/
def ackIn (s : State) (f : TwinFrame) : State :=
  if !f.good ∨ !hasTwin s then s
  else
    let p := f.payload
    let mack := u64 p 8
    let fack := pat 64 ((u64 p 16 : Nat) + 1 : Int)
    let s := { s with twn := { s.twn with
        ackAge := 0, back := u64 p 0, mack := mack, pfack := fack
        keep := s.twn.keep.filter fun t =>
          if t.type = 4 then decide (mack ≤ t.seq) else if t.type = 6 then decide (fack ≤ t.seq) else true } }
    resend s (u8 p 24) (u32 p 28) (u64 p 32)

/-! ### Mirror writes (16 R424, R436, R437) -/

/-- A MIRROR payload is performed on this chip's memory. -/
def mirrorApply (s : State) (fa : Nat) (b : Bytes) : State :=
  if faOk s fa b.length then memSet s (decodeFa s fa b.length) b false else s

/-- Held MIRROR frames that have become next. -/
def mirrorDrain : Nat → State → State
  | 0, s => s
  | f + 1, s =>
    match s.twn.held.find? fun x => x.1 == s.twn.mseq with
    | some (q, fa, b) =>
      mirrorDrain f (mirrorApply { s with twn := { s.twn with mseq := q + 1, held := s.twn.held.filter fun x => x.1 != q } } fa b)
    | none => s

/-- 16 R424: a MIRROR frame: performed in MSEQ order, held behind a gap. -/
def mirrorIn (s : State) (f : TwinFrame) : State :=
  if !f.good ∨ !isShadow s ∨ f.seq < s.twn.mseq then s
  else
    let s := { s with twn := { s.twn with
        stage := max 1 s.twn.stage
        held := if s.twn.held.any (fun x => x.1 == f.seq) then s.twn.held else (f.seq, u64 f.payload 0, f.payload.drop 8) :: s.twn.held } }
    let s := mirrorDrain (s.twn.held.length + 1) s
    if s.twn.held.isEmpty then s else sendNak s 4 0 s.twn.mseq

/-- A MIRROR frame of a lead under number `mseq`: kept until it is acknowledged, and submitted. -/
def mirrorSend (s : State) (mseq fa : Nat) (b : Bytes) (lines : Nat) : State :=
  let t : TwinTx := { type := 4, offset := 0, seq := mseq, payload := leBytes 8 fa ++ b }
  linkMsg { s with twn := { s.twn with keep := s.twn.keep ++ [t] } } t 3 lines

/-- The next MSEQ, and the state that has used it. -/
def takeMseq (s : State) : Nat × State := (s.twn.mseq, { s with twn := { s.twn with mseq := s.twn.mseq + 1 } })

/-- The place of a fabric address in the mirrored regions: region and offset. -/
def mirrorPlace (s : State) (fa : Nat) : Option (Nat × Nat) :=
  let l := mirrorRegions s
  (firstIdx l.length fun i => let r := lget l i (0, 0); decide (r.1 ≤ fa) && decide (fa < r.1 + r.2)).map fun i =>
    (i, fa - (lget l i (0, 0)).1)

/-- The order of places. -/
def placeLt (a b : Nat × Nat) : Bool := decide (a.1 < b.1) || (a.1 == b.1 && decide (a.2 < b.2))

/-- 16 R436, R437: one noted write: forwarded where it lands below the copy pointer, or after the copy in any region; a full buffer
leaves it to another pass. -/
def forwardOne (s : State) (w : Nat × Bytes × Bool) : State :=
  match mirrorPlace s w.1 with
  | none => s
  | some pl =>
    let below := match s.twn.copy with | some c => placeLt pl c | none => s.twn.forward && !w.2.2
    if !below then s
    else
      let n := cdiv (w.1 % 64 + w.2.1.length) 64
      if 4096 < s.twn.fwdLines + n ∧ s.twn.copy.isSome then
        { s with twn := { s.twn with redo := match s.twn.redo with
            | some r => some (if placeLt pl r then pl else r)
            | none => some pl } }
      else
        let (q, s) := takeMseq s
        mirrorSend { s with twn := { s.twn with fwdLines := s.twn.fwdLines + n } } q w.1 w.2.1 n

/-- The writes noted since the last command's end are forwarded. -/
def forwardAll (s : State) : State :=
  s.twn.fwd.foldl forwardOne { s with twn := { s.twn with fwd := [] } }

/-- 16 R435, R436: the copy starts. -/
def copyStart (s : State) : State :=
  { s with twn := { s.twn with copy := some (0, 0), pass := 1, stage := 1, redo := none, copied := false, forward := false,
                               fwdLines := 0, copyFail := false } }

/-- Whether a block of the copy is being read. -/
def copyReads (s : State) : Bool := s.fab.xfers.any fun x => match x.job with | .copy _ _ => true | _ => false

/-- 16 R436: the lead reads the next 256 bytes of the copy with an elastic read of CLASS 3. The block takes its MSEQ with the read, so that a write
performed after the read is forwarded after it (assumption log entry 140). At the end of a pass it starts another at the lowest line that was missed, up to
PASSMAX of them. -/
def copyRead (s : State) : State :=
  let l := mirrorRegions s
  match s.twn.copy with
  | none => s
  | some (r, off) =>
    if s.twn.copied then s
    else if l.length ≤ r then
      if copyReads s then s
      else match s.twn.redo with
      | none => { s with twn := { s.twn with copied := true } }
      | some p =>
        if twPassMax (twinB s) ≤ s.twn.pass then { s with twn := { s.twn with copyFail := true } }
        else { s with twn := { s.twn with copy := some (p.1, p.2 / 64 * 64), pass := s.twn.pass + 1, redo := none } }
    else
      let (base, len) := lget l r (0, 0)
      if len ≤ off then { s with twn := { s.twn with copy := some (r + 1, 0) } }
      else
        let n := min 256 (len - off)
        let (q, s) := takeMseq s
        let s := unitRead s 22 3 (base + off) n (.copy (base + off) q)
        { s with twn := { s.twn with copy := some (if off + n < len then (r, off + n) else (r + 1, 0)) } }

/-- TWN_CATCH.PERMILLE. -/
def copyMille (s : State) : Nat :=
  let l := mirrorRegions s
  let total := l.foldl (fun a x => a + x.2) 0
  match s.twn.copy with
  | some (r, off) => if total = 0 then 1000 else 1000 * ((l.take r).foldl (fun a x => a + x.2) off) / total
  | none => 0

/-! ### Firmware frames (16 R417; 15 R396, R397) -/

def fwRx (s : State) : Nat := bits (rwGet s (Base.twn + 0x3C) 0) 12 0
def fwTx (s : State) : Nat := bits (rwGet s (Base.twn + 0x3C) 0) 28 16
def fwBuf : Nat := 16448

/-- 16 R417: a firmware frame: taken in FSEQ order and written into the receive ring; a full ring takes none. -/
def fwIn (s : State) (f : TwinFrame) : State :=
  if !f.good ∨ !hasTwin s ∨ f.seq < s.twn.fack then s
  else if s.twn.fack < f.seq then sendNak s 6 0 s.twn.fack
  else
    let n := fwRx s
    let used := (s.twn.rxHead + 2 ^ 32 - rwGet s (Base.twn + 0x64) 0) % 2 ^ 32
    if n ≤ used then s
    else
      let a := ringEntry (rwGet s (Base.twn + 0x34) 0) n fwBuf s.twn.rxHead
      let desc := leBytes 2 f.payload.length ++ leBytes 14 0 ++ leBytes 8 (tcReg s) ++ leBytes 8 0
      let s := unitWrite s 22 0 a (desc ++ f.payload) (.fwRx s.twn.rxHead)
      { s with twn := { s.twn with fack := f.seq + 1, rxHead := (s.twn.rxHead + 1) % 2 ^ 32 } }

/-- TWN_RXHEAD: it passes an entry once both its writes have completed. -/
def twnRxHead (s : State) : Nat := headBehind s s.twn.rxHead fun j => match j with | .fwRx i => some i | _ => none

/-- The entry of the link's transmit ring at TWN_TXHEAD, and whether it is on its way. -/
def fwAt (s : State) : Nat := ringEntry (rwGet s (Base.twn + 0x38) 0) (fwTx s) fwBuf s.twn.txHead
def fwBusy (s : State) : Bool := s.fab.xfers.any fun x => match x.job with | .fwDesc | .fwBody _ | .fwBack => true | _ => false

/-- 16 R417: the entry at TWN_TXHEAD is taken up: its descriptor is read. -/
def fwPump (s : State) : State :=
  if fwBusy s || fwTx s == 0 || s.twn.txHead == rwGet s (Base.twn + 0x6C) 0 then s else unitRead s 22 0 (fwAt s) 32 .fwDesc

/-- STATUS `code` is written back into the descriptor `d`. -/
def fwWriteBack (s : State) (d : Bytes) (code : Nat) : State := unitWrite s 22 0 (fwAt s + 16) (leBytes 8 (u64 d 16 / 256 * 256 + code)) .fwBack

/-- The descriptor has been read. -/
def fwDescDone (s : State) (d : Bytes) : State :=
  let len := u16 d 0
  if len = 0 ∨ frameMax < len then fwWriteBack s d 3
  else if !s.twn.up then fwWriteBack s d 2
  else unitRead s 22 0 (fwAt s + 32) len (.fwBody d)

/-- The payload has been read: the frame takes its FSEQ, is kept until it is acknowledged and goes to the egress. -/
def fwBodyDone (s : State) (d b : Bytes) : State :=
  let t : TwinTx := { type := 6, offset := 0, seq := s.twn.fseq, payload := b }
  fwWriteBack (linkSubmit { s with twn := { s.twn with fseq := s.twn.fseq + 1, keep := s.twn.keep ++ [t] } } t (bits (u32 d 4) 1 0)) d 1

/-- The entry is done with, and the next one is taken up. -/
def fwBackDone (s : State) : State := fwPump { s with twn := { s.twn with txHead := (s.twn.txHead + 1) % 2 ^ 32 } }

/-! ### BEATs and twin time (16 R419, R427, R442) -/

/-- A partner counts as present while its BEATs come within BEATTO ticks, and as valid while they carry the same configuration hash
and revision. -/
def partnerHere (s : State) : Bool := s.twn.beat.isSome && decide (s.twn.beatAge < twBeatTo (twinB s))
def sameKind (s : State) (b : Beat) : Bool := b.hash == s.fld.cfgHash && b.rev == revId
def partnerValid (s : State) : Bool := partnerHere s && (match s.twn.beat with | some b => sameKind s b | none => false)
def partnerSt (s : State) : Nat := match s.twn.beat with | some b => b.st | none => 0
def partnerLead (s : State) : Bool := partnerValid s && (partnerSt s == 2 || partnerSt s == 3)

/-- 15 R409: this chip offers itself as a twin reference. -/
def offers (s : State) : Bool := s.clk.st == 3 && s.clk.sel != 1

/-- 16 R435, R434: JOINREQ goes out while the chip waits to be accepted. -/
def joinAsked (s : State) : Bool := s.twn.st == 4 && partnerSt s != 3

/-- The two last stamps, newest first. -/
def stampOf (l : List (Nat × Nat)) : Nat × Nat := l.headD (0, 0)

/-- 16 Table 16-5. -/
def beatPayload (s : State) : Bytes :=
  let tx := stampOf s.twn.txBeat
  let rx := stampOf s.twn.rxBeat
  uid s ++ s.fld.cfgHash ++ leBytes 1 (b2n (bitAt s.boot.straps 2)) ++ leBytes 1 s.twn.st ++
    leBytes 1 (b2n (offers s) + 2 * b2n (joinAsked s) + 4 * b2n s.twn.detach) ++ [0] ++ leBytes 4 revId ++ leBytes 8 s.tsq.tc ++
    leBytes 4 tx.1 ++ leBytes 4 rx.1 ++ leBytes 2 tx.2 ++ leBytes 2 rx.2

/-- A BEAT word sends one BEAT; a DETACH that goes with it takes effect at the next boundary (16 R441). -/
def beatSend (s : State) : State :=
  let s := linkPut s { type := 3, offset := 0, seq := tcReg s, payload := beatPayload s }
  { s with twn := { s.twn with
      txBeat := ((s.clk.cyc, tcReg s) :: s.twn.txBeat).take 2
      detachNow := s.twn.detachNow || s.twn.detach, detach := false } }

/-- A difference of two cycle stamps reduced by whole ticks to the nearest. -/
def wrapTick (l : Nat) (x : Int) : Int := if l = 0 then x else x - l * Int.fdiv (2 * x + l) (2 * l)

/-- 16 R442: θ from this chip's last BEAT and the partner's last but one, with the stamps that the partner's new BEAT carries. -/
def thetaOf (s : State) (xs yr ys xr : Nat) : Int :=
  let l := 1000000000 / s.clk.rate
  Int.fdiv (wrapTick l ((yr : Int) - xs) - wrapTick l ((xr : Int) - ys) - 2 * twAsym (twinB s)) 2

/-- 16 R427, R442: a partner's BEAT. CLK takes the phase of this chip's grid as ahead of its target where positive (15 R410), which is
the negative of θ (assumption log entry 31). -/
def beatIn (s : State) (f : TwinFrame) : State :=
  if !f.good ∨ !hasTwin s then s
  else
    let p := f.payload
    let flags := u8 p 42
    let b : Beat := { uid := u64 p 0, hash := (p.drop 8).take 32, seat := u8 p 40, st := u8 p 41, flags := flags, rev := u32 p 44,
                      ltc := u64 p 48 }
    let s := if s.twn.rxBeat.isEmpty ∨ s.twn.txBeat.isEmpty then s
      else
        let th := thetaOf s (stampOf s.twn.txBeat).1 (u32 p 60) (u32 p 56) (stampOf s.twn.rxBeat).1
        giveMeas { s with twn := { s.twn with theta := th } } 1 (-th)
    { s with twn := { s.twn with
        beat := some b, beatAge := 0
        rxBeat := ((s.clk.cyc, tcReg s) :: s.twn.rxBeat).take 2
        joinReq := s.twn.joinReq || bitAt flags 1, detachNow := s.twn.detachNow || bitAt flags 2 } }

/-- 16 R434: the partner counts as absent. -/
def partnerGone (s : State) : State :=
  if twBeatTo (twinB s) ≤ s.twn.beatAge then { s with twn := { s.twn with beat := none } } else s

/-! ### The link (16 R416) -/

def twinUp (s : State) : State := { s with twn := { s.twn with up := true } }
def twinDown (s : State) : State :=
  { s with twn := { s.twn with up := false, downs := if s.twn.up then sat16 s.twn.downs else s.twn.downs } }

/-- 16 R427: LEAD_OUT is high exactly in ALONE and PAIRED, and low throughout resets and CLKLOSS. -/
def leadOut (s : State) : Bool := isLead s && s.clk.on && !s.pwr.deep && !bitAt s.saf.cond 7

/-! ### Firmware's detach and handover (16 R441, R443) -/

/-- A write of TWN_CTL but for SNAP: DETACH and YIELD need the key. -/
def twnCtlWrite (s : State) (v : Nat) : State :=
  let s := rwPut s Base.twn (bits v 3 2 * 4)
  let s := if bitAt v 4 then { s with twn := { s.twn with pairFault := false } } else s
  if bits v 31 16 = 0x7A1D then
    let s := if bitAt v 1 ∧ hasTwin s then { s with twn := { s.twn with detach := true } } else s
    if bitAt v 0 ∧ isLead s then { s with twn := { s.twn with yield_ := true } } else s
  else s

/-- TWN_CTL.SNAP. -/
def twnSnap (s : State) : State := { s with twn := { s.twn with digSn := s.shown.twn.dig } }

/-- The TWN registers (16 R443, R444). -/
def twnRead (s : State) (off : Nat) : Nat :=
  let t := s.twn
  let z := s.shown.twn
  if 0x40 ≤ off ∧ off < 0x60 then lget t.digSn ((off - 0x40) / 4) 0
  else match off with
  | 0x00 => bits (twnCtl s) 3 2 * 4 + b2n (snapRuns s 10) * 32
  | 0x04 => z.st * 2 ^ 28 + b2n t.leadIn * 2 ^ 27 + b2n t.seatErr * 2 ^ 26 + b2n t.cfgMism * 2 ^ 25 + b2n t.pairFault * 2 ^ 24 +
      z.event * 2 ^ 16 + z.delay * 2 ^ 8
  | 0x08 => b2n t.up * 2 ^ 31 + t.downs
  | 0x0C => t.uncorr * 65536 + t.corr
  | 0x10 => pat 64 t.ofs % 2 ^ 32
  | 0x14 => pat 64 t.ofs / 2 ^ 32
  | 0x18 => z.evTc % 2 ^ 32
  | 0x1C => z.evTc / 2 ^ 32 % 2 ^ 32
  | 0x20 => t.late * 65536 + t.overflow
  | 0x24 => t.resent * 65536 + t.naks
  | 0x28 => z.pass * 2 ^ 28 + z.stage * 2 ^ 24 + copyMille { s with twn := z }
  | 0x2C => z.agree
  | 0x30 => pat 32 t.theta
  | 0x60 => twnRxHead s
  | 0x68 => t.txHead
  | _ => 0

end Sys2Proof.Machine
end

