-- ==== Sys2Proof/Machine/DramTime.lean ====
section
/-! DEFINITION. DRAM command timing: the rules of JESD209-5 between two commands, by the parameters of Table 6-6, the earliest legal
cycle of a command, and the commands of a DRAM slot word (06 R163 to R168). Which pair of commands each parameter parts is the
standard's: assumption log entry 10. -/

namespace Sys2Proof.Machine

/-! DRAM commands, as `DCmd.kind` numbers them. -/
namespace DK
def act : Nat := 0
def pre : Nat := 1
def rd : Nat := 2
def wr : Nat := 3
def refab : Nat := 4
def refpb : Nat := 5
def rfmab : Nat := 6
def rfmpb : Nat := 7
def mrr : Nat := 8
def zq : Nat := 9
def sre : Nat := 10
def srx : Nat := 11
end DK

/-- The parameter that parts a column access `k` from an earlier one `p` and the cycles it asks for. `same` says the same rank,
`grp` the same bank group. -/
def colRule (b : Bytes) (p k : Nat) (same grp : Bool) : Nat × Nat :=
  let n := timNs b
  if p = DK.rd ∧ k = DK.wr then (11, n 11)
  else if p = k then (if same then (if grp then (8, n 8) else (7, n 7)) else (if k = DK.rd then (23, n 28 + n 23) else (24, n 28 + n 24)))
  else if same then (if grp then (10, n 27 + n 28 + n 10) else (9, n 27 + n 28 + n 9))
  else (23, n 28 + n 23)

/-- The rules between an earlier command `p` and a command `k` to a bank of a rank: parameter index and first legal cycle. A per-bank refresh
or RFM keeps its own bank busy and no other (06 R177's example). -/
def pairRule (b : Bytes) (p : DCmd) (k r bk : Nat) : List (Nat × Nat) :=
  let n := timNs b
  let same := p.rank == r
  let bank := same && (p.bank == bk || p.bank == 16 || bk == 16)
  let grp := timMode b == 0 || p.bank / 4 == bk / 4
  let col := k == DK.rd || k == DK.wr
  let at_ (i d : Nat) (c : Bool) : List (Nat × Nat) := if c then [(i, p.at_ + d)] else []
  match p.kind with
  | 0 => at_ 0 (n 0) (col && bank) ++ at_ 3 (n 3) (k == DK.pre && bank) ++ at_ 4 (n 4) (k == DK.act && bank) ++
      at_ 5 (n 5) (k == DK.act && same)
  | 1 =>
    let i := if p.bank = 16 then 2 else 1
    at_ i (n i) (bank && (k == DK.act || k == DK.refpb || k == DK.rfmpb)) ++
      at_ i (n i) (same && (k == DK.refab || k == DK.rfmab || k == DK.sre)) ++ at_ 25 (n 25) (same && k == DK.pre)
  | 2 => (if col then let q := colRule b DK.rd k same grp; [(q.1, p.at_ + q.2)] else []) ++
      at_ 13 (n 13) (k == DK.pre && bank)
  | 3 => (if col then let q := colRule b DK.wr k same grp; [(q.1, p.at_ + q.2)] else []) ++
      at_ 12 (n 27 + n 28 + n 12) (k == DK.pre && bank)
  | 4 => at_ 14 (n 14) same
  | 5 => at_ 15 (n 15) (bank || (same && (k == DK.refab || k == DK.rfmab || k == DK.sre))) ++
      at_ 16 (n 16) (same && k == DK.refpb) ++ at_ 17 (n 17) (same && k == DK.act)
  | 6 => at_ 18 (n 18) same
  | 7 => at_ 19 (n 19) (bank || (same && (k == DK.refab || k == DK.rfmab || k == DK.sre)))
  | 8 => at_ 20 (n 20) same
  | 9 => at_ 22 (n 22) same
  | 10 => at_ 31 (n 31) (same && k == DK.srx)
  | 11 => at_ 30 (n 30) same
  | _ => []

/-- tFAW: the fourth last activate of the rank. -/
def fawRule (b : Bytes) (h : List DCmd) (k r : Nat) : List (Nat × Nat) :=
  if k = DK.act then
    match (h.filter fun c => c.kind == DK.act && c.rank == r)[3]? with
    | some c => [(6, c.at_ + timNs b 6)]
    | none => []
  else []

/-- Every rule on a command after the history `h`. -/
def allRules (b : Bytes) (h : List DCmd) (k r bk : Nat) : List (Nat × Nat) :=
  h.flatMap (fun p => pairRule b p k r bk) ++ fawRule b h k r

/-- The first cycle from `t` on at which the command is legal. -/
def earliest (b : Bytes) (h : List DCmd) (t k r bk : Nat) : Nat := (allRules b h k r bk).foldl (fun a x => max a x.2) t

/-- The lowest parameter that a command at cycle `t` would break. -/
def brokenAt (b : Bytes) (h : List DCmd) (t k r bk : Nat) : Option Nat :=
  ((allRules b h k r bk).filter fun x => decide (t < x.2)).foldl (fun a x => some (min x.1 (a.getD x.1))) none

/-- A history with one more command: the newest of each kind, rank and bank, and the last forty activates. -/
def histAdd (h : List DCmd) (c : DCmd) : List DCmd :=
  if c.kind = DK.act then
    let acts := h.filter fun x => x.kind == DK.act
    (c :: acts.take 39) ++ h.filter fun x => x.kind != DK.act
  else c :: h.filter fun x => !(x.kind == c.kind && x.rank == c.rank && x.bank == c.bank)

/-! ### The DRAM slot word (06 Table 6-3) -/

def dwOp (p : Nat) : Nat := bits p 63 60
def dwRank (p : Nat) : Nat := bits p 59 57
def dwBank (p : Nat) : Nat := bits p 56 53
def dwRow (p : Nat) : Nat := bits p 52 36
def dwCol (p : Nat) : Nat := bits p 35 31
def dwCount (p : Nat) : Nat := bits p 30 26
def dwAp (p : Nat) : Bool := bitAt p 25
def dwPort (p : Nat) : Nat := bits p 24 20
def dwPtag (p : Nat) : Nat := bits p 19 12
def dwAdv (p : Nat) : Nat := bits p 11 8
def dwStep (p : Nat) : Nat := bits p 7 0

/-- 06 R163 step 1: the start line Q. A level that the word does not lie in adds nothing. -/
def dwQ (p : Nat) (reps : List Nat) : Nat :=
  dwRow p * 28 + dwCol p + (reps.zipIdx.foldl (fun a (i, l) => if bitAt (dwAdv p) l then a + i * dwStep p else a) 0)

/-- One command of a word. `what`: 0 nothing more, 1 the check line of group `n` is read, 2 data line `n` of the row, 3 the check line
of group `n` is written. -/
structure WCmd where
  kind : Nat
  rank : Nat
  bank : Nat
  row  : Nat
  what : Nat
  n    : Nat
  deriving DecidableEq, Repr

/-- Whether a run of lines [k, k + n) covers group `j` of the row whole. -/
def wholeGroup (k n j : Nat) : Bool := k ≤ 7 * j && 7 * j + 7 ≤ k + n

/-- The groups that lines [k, k + n) of a row touch. -/
def groupsOf (k n : Nat) : List Nat := idxWhere 4 fun j => k < 7 * j + 7 && 7 * j < k + n

/-- 06 R163, 07 R190: the column accesses of a run of lines, check lines among them. -/
def colCmds (write : Bool) (rank bank row k n : Nat) : List WCmd :=
  (groupsOf k n).flatMap fun j =>
    let lines := (List.range 7).filter fun i => k ≤ 7 * j + i && 7 * j + i < k + n
    let chkRd : List WCmd := if write && wholeGroup k n j then [] else [⟨DK.rd, rank, bank, row, 1, j⟩]
    let data := lines.map fun i => (⟨if write then DK.wr else DK.rd, rank, bank, row, 2, 7 * j + i⟩ : WCmd)
    let chkWr : List WCmd := if write then [⟨DK.wr, rank, bank, row, 3, j⟩] else []
    chkRd ++ data ++ chkWr

/-- Dispatches of DRAM words to channel `c`, with their places in the walk. -/
def dramDisps (s : State) (c : Nat) : List (Nat × Disp) :=
  (s.tsq.disp.zipIdx.map fun (d, i) => (i, d)).filter fun (_, d) => d.kind == 1 && d.unit == 1 + c

/-- Whether two access words name the same rank, bank and row. -/
def sameRow (a b : Disp) : Bool :=
  dwRank a.payload == dwRank b.payload && dwBank a.payload == dwBank b.payload &&
    dwQ a.payload a.reps / 28 == dwQ b.payload b.reps / 28

/-- 06 R164: whether an access word leaves its row open for the one that follows it. -/
def leavesOpen (a : Disp) (next : Option Disp) : Bool :=
  !dwAp a.payload && match next with | some b => sameRow a b && decide (b.slot ≤ a.finish) | none => false

/-- The access words of a channel, in dispatch order. -/
def accessWords (s : State) (c : Nat) : List (Nat × Disp) := (dramDisps s c).filter fun (_, d) => dwOp d.payload < 2

/-- The access word before, and the one after, place `i` of the walk. -/
def accessBefore (s : State) (c i : Nat) : Option Disp := (((accessWords s c).filter fun x => x.1 < i).getLast?).map (·.2)
def accessAfter (s : State) (c i : Nat) : Option Disp := (((accessWords s c).filter fun x => i < x.1).head?).map (·.2)

/-- The physical rank that a word's commands go to now. -/
def wordPrank (s : State) (d : Disp) : Nat :=
  if dwOp d.payload < 2 then (rmtAt s (dwRank d.payload)).cur else (d.unit - 1) * 2 + dwRank d.payload % 2

/-- The commands of a word on rank `r` of its channel, between the access words before and after it. -/
def cmdsOf (r : Nat) (d : Disp) (prev next : Option Disp) : List WCmd :=
  let p := d.payload
  let op := dwOp p
  if op < 2 then
    let q := dwQ p d.reps
    let row := q / 28
    let opened := match prev with | some b => sameRow b d && leavesOpen b (some d) | none => false
    (if opened then [] else [⟨DK.act, r, dwBank p, row, 0, 0⟩]) ++ colCmds (op == 1) r (dwBank p) row (q % 28) (dwCount p) ++
      (if leavesOpen d next then [] else [⟨DK.pre, r, dwBank p, row, 0, 0⟩])
  else
    let k := match op with
      | 2 => DK.refab | 3 => DK.refpb | 4 => DK.mrr | 5 => DK.rfmab | 6 => DK.rfmpb | 7 => DK.zq | 8 => DK.sre | _ => DK.srx
    List.replicate (dwCount p) ⟨k, r, if op = 3 ∨ op = 6 then dwBank p else 16, 0, 0, 0⟩

/-- The physical rank that a word names: HOME of its logical rank, whatever the rank map says now. -/
def wordHome (s : State) (d : Disp) : Nat :=
  if dwOp d.payload < 2 then homeOf s (dwRank d.payload) else (d.unit - 1) * 2 + dwRank d.payload % 2

/-- The commands of a word at place `i` of the walk, on rank `r` of its channel. -/
def cmdsOn (s : State) (r i : Nat) (d : Disp) : List WCmd := cmdsOf r d (accessBefore s (d.unit - 1) i) (accessAfter s (d.unit - 1) i)

/-- Those commands where the rank map sends them. -/
def wordCmds (s : State) (i : Nat) (d : Disp) : List WCmd := cmdsOn s (wordPrank s d % 2) i d

/-- The MCLK cycle at which the running tick started. -/
def tickStart (s : State) : Nat := s.clk.mclk - s.clk.cyc

/-- Commands placed one after another from cycle `t` on, each at its earliest legal cycle. -/
def placeCmds (b : Bytes) : List DCmd → Nat → List WCmd → List DCmd
  | _, _, [] => []
  | h, t, w :: r =>
    let x := earliest b h t w.kind w.rank w.bank
    let c : DCmd := { kind := w.kind, rank := w.rank, bank := w.bank, at_ := x }
    c :: placeCmds b (histAdd h c) (x + 1) r

/-- The bank of timing parameters in force (06 R168, 07 R206). -/
def timNow (s : State) : Bytes := timB s s.dmc.bank

/-- 06 R165: the planned cycles of a word, from the fixed stream of its unit alone: the commands that its set's words have on HOME, also once
the rank map sends them to the spare (07 R202). `h` is that stream so far. -/
def plannedFrom (s : State) (h : List DCmd) (i : Nat) (d : Disp) : List DCmd :=
  placeCmds (timNow s) h (tickStart s + 256 * d.slot) (cmdsOn s (wordHome s d % 2) i d)

def plannedOf (s : State) (i : Nat) (d : Disp) : List DCmd := plannedFrom s (chanAt s (d.unit - 1)).fixedH i d

/-- The channel whose bus a word uses: that of the rank it goes to. -/
def wordChan (s : State) (d : Disp) : Nat := wordPrank s d / 2

/-- The fixed commands of unit `1 + u` that are still to come in this tick and go to channel `c`, at their planned cycles. -/
def plannedUnit (s : State) (c u : Nat) : List (WCmd × DCmd) :=
  let todo := (s.tsq.disp.zipIdx).filter fun (d, _) => d.kind == 1 && d.unit == 1 + u && !d.done
  (todo.foldl (fun (a : List (WCmd × DCmd) × List DCmd) (d, i) =>
    let x := plannedFrom s a.2 i d
    (if wordChan s d = c then a.1 ++ (wordCmds s i d).zip x else a.1, x.foldl histAdd a.2)) ([], (chanAt s u).fixedH)).1

/-- 06 R167: the fixed commands that are still to come on channel `c` in this tick, in the order of their planned cycles. -/
def plannedRest (s : State) (c : Nat) : List (WCmd × DCmd) :=
  ((List.range 4).flatMap (plannedUnit s c)).mergeSort fun a b => decide (a.2.at_ ≤ b.2.at_)

/-- 06 R167, 02 R50: whether a fixed span holds channel `c` at this cycle. A word that has completed releases the rest of its span
when it carries EARLYREL. -/
def fixedHeld (s : State) (c : Nat) : Bool :=
  let n := nowSlot s
  s.tsq.disp.any fun d => d.kind == 1 && wordChan s d == c && decide (d.slot ≤ n) && decide (n < d.slot + d.span) &&
    !(doneBy d s.clk.cyc && d.early)

/-! ### What an activate or a refresh leaves (06 R180, R182, R183) -/

def bankAt (s : State) (c r bk : Nat) : Bank := lget (chanAt s c).banks (16 * r + bk) {}
def modBank (s : State) (c r bk : Nat) (f : Bank → Bank) : State :=
  modChan s c fun x => { x with banks := lmod x.banks (16 * r + bk) f }

/-- 06 R182: the place of the table entry that a row not listed replaces: the smallest count, the lowest index on a tie. -/
def hamMin (t : List (Nat × Nat)) : Nat :=
  (t.zipIdx.foldl (fun (b : Option (Nat × Nat)) (e, i) =>
    match b with
    | some (c, j) => if e.2 < c then some (e.2, i) else some (c, j)
    | none => some (e.2, i)) none).elim 0 (·.2)

/-- 06 R182: the table after an activate of `row`. -/
def hamTouch (t : List (Nat × Nat)) (row : Nat) : List (Nat × Nat) :=
  if t.any (fun e => e.1 == row) then t.map fun e => if e.1 = row then (row, e.2 + 1) else e
  else if t.length < 16 then t ++ [(row, 1)]
  else lmod t (hamMin t) fun e => (row, e.2 + 1)

/-- 06 R182, R183: the hammer guard takes an activate. -/
def hammer (s : State) (c r bk row : Nat) : State :=
  let t := hamTouch (bankAt s c r bk).ham row
  if 0 < s.dmc.hamthr ∧ s.dmc.hamthr ≤ ((t.find? fun e => e.1 == row).getD (0, 0)).2 then
    let s := modBank s c r bk fun b => { b with ham := t.map fun e => if e.1 = row then (row, 0) else e }
    if (chanAt s c).nref.length < 16 then modChan s c fun x => { x with nref := x.nref ++ [(r, bk, row)] }
    else modChan s c fun x => { x with nrefFull := sat16 x.nrefFull }
  else modBank s c r bk fun b => { b with ham := t }

/-- 06 R180, R182: what an activate of a row does beside opening it. -/
def actEffect (s : State) (c r bk row : Nat) : State :=
  let s := if rfmOn (chanAt s c) then modBank s c r bk fun b => { b with raa := b.raa + 1 } else s
  hammer s c r bk row

/-- 06 R180: a refresh or an RFM lowers the counts of the banks it covers; a per-bank one covers its pair (assumption log entry 10). -/
def refreshEffect (s : State) (c r bk : Nat) : State :=
  let n := (chanAt s c).raaimt
  modChan s c fun x => { x with banks := x.banks.zipIdx.map fun (b, i) =>
    if i / 16 = r ∧ (bk = 16 ∨ i % 16 % 8 = bk % 8) then { b with raa := b.raa - n } else b }

/-! ### Mode registers (06 R168, 07 R206) -/

/-- 06 R168: set point `f` is entered on physical rank `p`: its MR list is written there and MR16 selects it. -/
def enterFsp (s : State) (f p : Nat) : State :=
  let b := timB s f
  let l := (List.range (u8 b 6)).filter fun i => bitAt (u8 b (0x122 + 4 * i)) p
  modRank s p fun r => { r with fspSel := f, mr := l.foldl (fun m i => aset m (u8 b (0x120 + 4 * i)) (u8 b (0x121 + 4 * i))) r.mr }

/-- The MCLK cycle at which a command that issues at cycle `x` ends: with its last data, or once its own time has passed (assumption
log entry 15). -/
def cmdEnd (b : Bytes) (k x : Nat) : Nat :=
  let n := timNs b
  x + match k with
    | 1 => n 1 | 2 => n 26 + n 28 | 3 => n 27 + n 28 | 4 => n 14 | 5 => n 15 | 6 => n 18 | 7 => n 19 | 8 => n 26 + n 28 | 9 => n 22
    | 11 => n 30 | _ => 1

/-- A command joins a channel's history of all traffic, and of the fixed stream when it is fixed. -/
def noteAll (s : State) (c : Nat) (d : DCmd) : State := modChan s c fun x => { x with allH := histAdd x.allH d }
def noteFixed (s : State) (c : Nat) (l : List DCmd) : State := modChan s c fun x => { x with fixedH := l.foldl histAdd x.fixedH }

end Sys2Proof.Machine
end

