-- ==== Sys2Proof/Machine/Dram.lean ====
section
/-! DEFINITION. What DRAM slot words do: access words with their check lines, maintenance words, MR4 (06 R163 to R166, R178 to R183; 07
R190 to R193, R203, R207). -/

namespace Sys2Proof.Machine

/-- DRAM_TIMING at planned cycle `at_` for unit `u`. -/
def dramFault (s : State) (d : Disp) (at_ idx : Nat) : State :=
  raiseFaultAt s (at_ - tickStart s) 3 2 d.unit idx (some d.word)

/-- A command that the controller issues beside a word's own: recorded, with what it does to the banks. -/
def sideCmd (s : State) (c k r bk t : Nat) : State × Nat :=
  let x := earliest (timNow s) (chanAt s c).allH t k r bk
  let s := noteAll s c { kind := k, rank := r, bank := bk, at_ := x }
  let s := if k = DK.pre then
      modChan s c fun y => { y with banks := y.banks.zipIdx.map fun (b, i) =>
        if i / 16 = r ∧ (bk = 16 ∨ i % 16 = bk) then { b with row := none, fixed := false } else b }
    else if k = DK.rfmpb then refreshEffect s c r bk else s
  (s, x + 1)

/-- Whether a bank of a rank, or any of its banks, is open. -/
def anyOpen (s : State) (c r bk : Nat) : Bool :=
  ((chanAt s c).banks.zipIdx).any fun (b, i) => i / 16 == r && (bk == 16 || i % 16 == bk) && b.row.isSome

/-- 06 R180: a fixed activate would take its bank's count above RAAMMT. -/
def raaOver (s : State) (c : Nat) (w : WCmd) : Bool :=
  w.kind == DK.act && rfmOn (chanAt s c) && decide ((chanAt s c).raammt < (bankAt s c w.rank w.bank).raa + 1)

/-- What must come before a fixed command: rows that elastic traffic left open are closed. DRAM_TIMING is raised once for a command that is
not legal at its planned cycle, with the first parameter it breaks (06 R166), and an activate that would pass RAAMMT waits for its RFMpb
(R180). The answer is the state and the first cycle for the command itself. -/
def prepare (s : State) (d : Disp) (c : Nat) (w : WCmd) (planned t : Nat) : State × Nat :=
  let closes := w.kind == DK.act || w.kind == DK.refab || w.kind == DK.rfmab || w.kind == DK.sre || w.kind == DK.refpb || w.kind == DK.rfmpb
  let (s, t) := if closes && anyOpen s c w.rank w.bank then sideCmd s c DK.pre w.rank w.bank t else (s, t)
  let broken := brokenAt (timNow s) (chanAt s c).allH planned w.kind w.rank w.bank
  if raaOver s c w then
    let s := dramFault s d planned (min 19 (broken.getD 19))
    let (s, t) := sideCmd s c DK.rfmpb w.rank w.bank t
    (modChan s c fun x => { x with rfmDone := sat16 x.rfmDone }, t)
  else
    match broken with
    | some i => (dramFault s d planned i, t)
    | none => (s, t)

/-- What a word's access carries from command to command. -/
structure WAcc where
  st : State
  /-- The check lines after their decode, by group; `none` inside for an uncorrectable one. -/
  chks : List (Nat × Option Bytes)
  /-- The lines that have been read: the cycle at which each is there, its data, and whether it is poisoned. -/
  got : List (Nat × Bytes × Bool)
  /-- The cycle at which the last of its commands so far ends. -/
  fin : Nat

/-- The rank-local lines of the access that lie in group `j`, with their number in the access and their place in the group. -/
def accGroup (k n j : Nat) : List (Nat × Nat) :=
  ((List.range 7).filter fun i => k ≤ 7 * j + i && 7 * j + i < k + n).map fun i => (7 * j + i - k, i)

/-- What is left of a queue of produced bytes once its first `n` are taken. -/
def takeFirst (n : Nat) : List (Nat × Nat × Nat × Bytes) → List (Nat × Nat × Nat × Bytes)
  | [] => []
  | (f, k, c, b) :: r => if b.length ≤ n then takeFirst (n - b.length) r else (f, k, c, b.drop n) :: r

/-- 13 R355: the next 64 bytes of a Loupe stream, filled up with zeros where fewer are produced. -/
def lpeTake (s : State) (tag : Nat) : State × Bytes :=
  let c := bits tag 6 4
  let k := tag % 8
  let x := lget s.lpe.ctx c {}
  let made (p : Nat × Nat × Nat × Bytes) : Bool := p.2.1 == k && decide (p.2.2.1 ≤ s.clk.cyc)
  let b := (x.q.filter made).flatMap (·.2.2.2)
  let rest := takeFirst 64 (x.q.filter made) ++ x.q.filter fun p => !made p
  ({ s with lpe := { s.lpe with ctx := lmod s.lpe.ctx c fun x =>
      { x with q := rest, zfill := if b.length < 64 then sat16 x.zfill else x.zfill } } }, padTo 64 b)

/-- The line that a port supplies to a WRITE word under a tag: Loupe's stream, and free values for any other port (assumption log entry
11). -/
def portData (s : State) (port tag : Nat) : State × Bytes :=
  if port = 18 then lpeTake s tag else let (v, s) := takeFree s; (s, leBytes 64 v)

/-- 18 R475: the logical rank and line that a fixed read of a line takes its data from. -/
def frontLine (s : State) (lr d : Nat) : Nat × Nat :=
  let b := dramB s
  let fa := 2 ^ 35 + lineSa b lr d * 64
  let fb := fixedAddr s fa
  if fb = fa then (lr, d) else saLine b (fb % 2 ^ 34 / 64)

/-- The read of data line `n` of the access for a READ word. Where a staged region's front buffer stands elsewhere, the check line is the one of
the line that is read. -/
def accRead (s : State) (who : EccWho) (lr line n : Nat) (errs : List EccErr) (chk : Option Bytes) : LineGot :=
  let (lr', d') := frontLine s lr line
  let p := (rmtAt s lr').cur
  if lr' = lr ∧ d' = line then readLineEcc s who lr p line n errs chk
  else
    let r := readCheck s lr' p d' [] []
    readLineEcc r.1 who lr' p d' n errs (if chk.isNone then none else r.2)

/-- The effect of one issued command of an access word on data and checks. -/
def accCmd (d : Disp) (errs : List EccErr) (a : WAcc) (w : WCmd) : WAcc :=
  let s := a.st
  let p := d.payload
  let b := dramB s
  let lr := dwRank p
  let pr := (rmtAt s lr).cur
  let k0 := dwQ p d.reps % 28
  let n := dwCount p
  let who : EccWho := { src := dwPort p, fixed := true, word := d.word }
  let line := lineAt b w.row w.bank w.n
  match w.what with
  | 1 =>
    let first := lineAt b w.row w.bank (7 * w.n)
    let r := readCheck s lr pr first errs (accGroup k0 n w.n)
    { a with st := r.1, chks := (w.n, r.2) :: a.chks }
  | 2 =>
    if dwOp p = 0 then
      let chk := ((a.chks.find? fun x => x.1 == w.n / 7).map (·.2)).getD none
      let g := accRead s who lr line (w.n - k0) errs chk
      { a with st := g.st, got := a.got ++ [(a.fin, g.data, g.poison)] }
    else
      let (s, data) := portData s (dwPort p) (dwPtag p)
      { a with st := homeWrite s lr line 0 data false true }
  | 3 =>
    match (a.chks.find? fun x => x.1 == w.n).map (·.2) with
    | some none =>
      let first := lineAt b w.row w.bank (7 * w.n)
      { a with st := poisonRest s pr lr first ((accGroup k0 n w.n).map fun x => first + x.2) }
    | _ => a
  | _ => a

/-- The commands of a word issue one after another: each at its first legal cycle from `t` on, with DRAM_TIMING where that is not
its planned cycle (06 R163, R166). -/
def issueCmds (d : Disp) (errs : List EccErr) (c : Nat) : List (WCmd × DCmd) → Nat → WAcc → WAcc
  | [], _, a => a
  | (w, pl) :: r, t, a =>
    let (s, t) := prepare a.st d c w pl.at_ t
    let b := timNow s
    let x := earliest b (chanAt s c).allH t w.kind w.rank w.bank
    let s := noteAll s c { kind := w.kind, rank := w.rank, bank := w.bank, at_ := x }
    let s := match w.kind with
      | 0 => actEffect (modBank s c w.rank w.bank fun k => { k with row := some w.row, fixed := true, used := x }) c w.rank w.bank w.row
      | 1 => modBank s c w.rank w.bank fun k => { k with row := none, fixed := false }
      | 4 => refreshEffect s c w.rank 16
      | 5 => refreshEffect s c w.rank w.bank
      | 6 => refreshEffect s c w.rank 16
      | 7 => refreshEffect s c w.rank w.bank
      | 8 =>
        let ns := cdiv ((timPar b 26 + timPar b 28) * timTck b) 1000
        modRank s (2 * c + w.rank) fun k => { k with mrrAt := some (x + ns + 32), mrrWord := d.word }
      | 10 => modRank s (2 * c + w.rank) fun k => { k with sr := true }
      | 11 => modRank s (2 * c + w.rank) fun k => { k with sr := false }
      | _ => s
    issueCmds d errs c r (x + 1) (accCmd d errs { a with st := s, fin := max a.fin (cmdEnd b w.kind x) } w)

/-- 07 R206: a frequency change runs. -/
def fspChanging (s : State) : Bool := s.dmc.fspLeft != 0

/-- 07 R207: a word that is not legal while it is held raises DRAM_TIMING once, with index 30. -/
def holdWord (s : State) (i : Nat) (d : Disp) : State :=
  if d.held then s
  else
    let s := dramFault s d (max (tickStart s + 256 * d.slot) (tickStart s)) 30
    { s with tsq := { s.tsq with disp := lmod s.tsq.disp i fun x => { x with held := true } } }

/-- The domain of the channel that a word's commands go to. -/
def wordDomOff (s : State) (d : Disp) : Bool := !domOn s (20 + wordChan s d) || !domOn s (24 + wordChan s d)

/-- Read data goes to a port under a tag, line by line. -/
def giveData (s : State) (port tag : Nat) (l : List (Nat × Bytes × Bool)) : State :=
  { s with dmc := { s.dmc with bufIn := s.dmc.bufIn ++ l.map fun x => (port, tag, x) } }

/-- 06 R163: a DRAM word at place `i` of the walk runs. -/
def runWord (s : State) (i : Nat) (d : Disp) (errs : List EccErr) : State :=
  let c := wordChan s d
  let l := wordCmds s i d
  let planned := plannedOf s i d
  let s := noteFixed s (d.unit - 1) planned
  let a := issueCmds d errs c (l.zip planned) (max (tickStart s + 256 * d.slot) s.clk.mclk) { st := s, chks := [], got := [], fin := 0 }
  let s := a.st
  let s := if dwOp d.payload = 0 then giveData s (dwPort d.payload) (dwPtag d.payload) a.got else s
  doneDispAt (if a.got.any (·.2.2) then degrade s 1 else s) i (a.fin - tickStart s)

/-- 05 R149: a word to a domain that is not on raises DOMAIN_ORDER and completes with DOMAIN_OFF: a READ brings the word of R8. -/
def offWord (s : State) (i : Nat) (d : Disp) : State :=
  let dom := if domOn s (20 + wordChan s d) then 24 + wordChan s d else 20 + wordChan s d
  let s := countOff (raiseFault s 6 2 d.unit dom (some d.word))
  let s := if dwOp d.payload = 0 then
      giveData s (dwPort d.payload) (dwPtag d.payload) (List.replicate (dwCount d.payload) (s.clk.mclk, offData 64, false))
    else s
  doneDisp s i

/-- A DRAM word of operation `op` at place `i` while a frequency change runs: legal for no word of the unit (07 R207). -/
def fspDisp (s : State) (i op : Nat) : Option Disp :=
  match s.tsq.disp[i]? with
  | some d =>
    if fspChanging s && d.kind == 1 && bits d.payload 63 60 == op && !d.done && decide (256 * d.slot ≤ s.clk.cyc) && !wordDomOff s d then some d
    else none
  | none => none

/-- The DRAM word at place `i` with operation `op` runs, is held, or issues nothing (07 R203, R206, R207; 19 R503). A word to a rank in self-refresh, but
for SRX and MRR4, is not legal until the rank leaves it: it is held with the index of tXSR (06 R166, 02 R58; assumption log entry 12). -/
def dramWord (s : State) (i op : Nat) (errs : List EccErr) : State :=
  match fspDisp s i op, openDisp s i 1 op with
  | some d, _ => if op = 4 then doneDisp s i else holdWord s i d
  | none, none => s
  | none, some d =>
    let pr := wordPrank s d
    let sr := (prankAt s pr).sr
    if wordDomOff s d then offWord s i d
    else if 2 ≤ op ∧ retired s pr then doneDisp s i
    else if op = 9 ∧ !sr then doneDisp s i
    else if s.dbg.halted ∧ sr then doneDisp s i
    else if sr ∧ op ≠ 9 ∧ op ≠ 4 then holdWord s i d
    else runWord s i d errs

/-! ### MR4 (06 R178, R179) -/

/-- What the refresh-rate field of MR4, OP[4:0], allows or requires under JESD209-5 (assumption log entry 52, PRESUMED). -/
inductive Mr4Rate where
  /-- The base rate or less, the low-temperature limit included. -/
  | base
  /-- A rate above the base: the smallest of 2, 4 and 8 that meets it. -/
  | mult (m : Nat)
  /-- The high-temperature limit is exceeded. -/
  | over
  /-- The standard gives the code no meaning. -/
  | reserved
  deriving DecidableEq, Repr

/-- The refresh-rate codes: 8, 6, 4, 3.3, 2.5, 2, 1.7, 1.3 and 1 times tREFI, then 0.7, 0.5, 0.25 and 0.125 of it, and the limits. -/
def mr4Rate (raw : Byte) : Mr4Rate :=
  let f := raw.toNat % 32
  if f ≤ 9 then .base
  else if f = 10 ∨ f = 11 then .mult 2
  else if f = 12 ∨ f = 13 then .mult 4
  else if f = 14 ∨ f = 15 then .mult 8
  else if f = 31 then .over
  else .reserved

/-- 06 R178: the demand of an MR4 reading: 0 to 3 for 1x to 8x, and 4 for BEYOND. A reserved code demands a free value. -/
def mr4Demand (raw : Byte) : Nat :=
  match mr4Rate raw with
  | .base => 0
  | .mult 2 => 1
  | .mult 4 => 2
  | .mult _ => 3
  | .over => 4
  | .reserved => Config.mr4Reserved raw % 5

/-- The multiplier of a demand code as R178 reports it. -/
def demandMult (c : Nat) : Nat := if c = 4 then 0xFF else 2 ^ c

/-- 06 R178, R179, 07 R203: the data of the MRR in flight to rank `p` returns. A rank retired meanwhile records nothing. -/
def mr4Return (s : State) (p : Nat) (raw : Byte) : State :=
  let k := prankAt s p
  match k.mrrAt with
  | none => s
  | some t =>
    if s.clk.mclk < t then s
    else if retired s p then modRank s p fun k => { k with mrrAt := none }
    else
      let c := mr4Demand raw
      let s := modRank s p fun k => { k with mrrAt := none, polled := true, srAt := k.sr, demand := c, mr4 := raw.toNat }
      if !k.sr ∧ refMult s s.tsq.set < demandMult c then
        raiseFaultAt s (t - tickStart s) 4 2 (1 + p / 2) (p * 256 + demandMult c) (some k.mrrWord)
      else s

end Sys2Proof.Machine
end

