-- ==== Sys2Proof/Machine/DramEl.lean ====
section
/-! DEFINITION. The elastic scheduler of a channel: which entry may issue, which is chosen, and what one issue does (06 R167, R169 to R176,
R180, R183; 07 R190 to R194, R199, R200). An entry takes one command at a time: its group's check line is read once for its request, a part of a
line is read before it is written, and the check line goes back after the last line of the group (assumption log entry 13). -/

namespace Sys2Proof.Machine

/-- The physical rank that an entry goes to now (06 R160). -/
def entPrank (s : State) (e : LineEnt) : Nat := e.prank.getD (rmtAt s e.lr).cur

/-- The column accesses of an entry. -/
inductive ColOp where
  /-- The check line of its group is read. -/
  | chkRd
  /-- The line is read before a part of it is written. -/
  | lineRd
  /-- The line itself. -/
  | data
  /-- The check line of its group is written back. -/
  | chkWr
  deriving DecidableEq, Repr

/-- 07 R190: the next column access of an entry. -/
def entStage (e : LineEnt) : ColOp :=
  if e.late then .chkWr
  else if e.chk.isNone then .chkRd
  else if e.write ∧ e.len < 64 ∧ e.rmw.isNone then .lineRd
  else .data

/-- Whether it writes. -/
def stageWrites (e : LineEnt) : Bool := match entStage e with | .chkWr => true | .data => e.write | _ => false

/-- What an elastic choice issues. -/
inductive ElCmd where
  /-- A precharge of a bank; `forced` by an entry for another row. -/
  | pre (r bk : Nat) (forced : Bool)
  | act (r bk row : Nat)
  /-- The column access of an entry. -/
  | col (e : LineEnt)
  | rfm (r bk : Nat)
  /-- The next command of the neighbour refresh that stands first: an activate or a precharge. -/
  | nref (r bk : Nat) (act : Bool)
  deriving DecidableEq, Repr

/-- The next command of an entry: to its open row, to a closed bank, or to a bank with another row. -/
def entNext (s : State) (c : Nat) (e : LineEnt) : ElCmd :=
  let p := linePos (dramB s) e.line
  let r := entPrank s e % 2
  match (bankAt s c r p.bank).row with
  | some x => if x = p.row then .col e else .pre r p.bank true
  | none => .act r p.bank p.row

/-- The timing command behind a choice. -/
def elTiming (s : State) (x : ElCmd) (now : Nat) : DCmd :=
  match x with
  | .pre r bk _ => { kind := DK.pre, rank := r, bank := bk, at_ := now }
  | .act r bk _ => { kind := DK.act, rank := r, bank := bk, at_ := now }
  | .col e =>
    let p := linePos (dramB s) e.line
    { kind := if stageWrites e then DK.wr else DK.rd, rank := entPrank s e % 2, bank := p.bank, at_ := now }
  | .rfm r bk => { kind := DK.rfmpb, rank := r, bank := bk, at_ := now }
  | .nref r bk act => { kind := if act then DK.act else DK.pre, rank := r, bank := bk, at_ := now }

/-- The cycles after a command before its bank can be precharged and ready for another row. -/
def closeTime (b : Bytes) (k : Nat) : Nat :=
  let n := timNs b
  let col (w : Bool) := if w then n 27 + n 28 + n 12 else n 13
  if k = DK.act then max (n 3) (n 0 + max (col true) (col false)) + n 1
  else if k = DK.pre then n 1
  else col (k == DK.wr) + n 1

/-- Whether a fixed command needs a bank of a rank closed. -/
def needsClosed (w : WCmd) (r bk : Nat) : Bool :=
  w.rank == r && ((w.kind == DK.act && w.bank == bk) ||
    ((w.kind == DK.refab || w.kind == DK.rfmab || w.kind == DK.sre) || ((w.kind == DK.refpb || w.kind == DK.rfmpb) && w.bank == bk)))

/-- 06 R180: whether each fixed command of a list would take the RAA count of bank `bk` of rank `r` above RAAMMT, from a count of `n`. -/
def raaBreaks (ch : Chan) (r bk : Nat) : Nat → List (WCmd × DCmd) → List Bool
  | _, [] => []
  | n, (w, _) :: l =>
    if w.kind = DK.act ∧ w.rank = r ∧ w.bank = bk then
      let high := decide (ch.raammt < n + 1)
      high :: raaBreaks ch r bk (if high then n - ch.raaimt + 1 else n + 1) l
    else if w.rank = r ∧ (w.kind = DK.refab ∨ w.kind = DK.rfmab ∨ ((w.kind = DK.refpb ∨ w.kind = DK.rfmpb) ∧ w.bank % 8 = bk % 8)) then
      false :: raaBreaks ch r bk (n - ch.raaimt) l
    else false :: raaBreaks ch r bk n l

/-- 06 R167, R180: an elastic activate leaves every later fixed activate of its bank as legal as it was. -/
def okRaa (s : State) (c : Nat) (x : DCmd) : Bool :=
  let ch := chanAt s c
  let n := (bankAt s c x.rank x.bank).raa
  let l := plannedRest s c
  !(rfmOn ch && x.kind == DK.act) ||
    ((raaBreaks ch x.rank x.bank (n + 1) l).zip (raaBreaks ch x.rank x.bank n l)).all fun y => !y.1 || y.2

/-- 06 R167: the command neither breaks a later fixed command nor leaves open a bank that one needs closed. -/
def okFixed (s : State) (c : Nat) (x : DCmd) : Bool :=
  let b := timNow s
  let h := (chanAt s c).allH
  let h' := histAdd h x
  okRaa s c x && (plannedRest s c).all fun (w, f) =>
    ((brokenAt b h' f.at_ w.kind w.rank w.bank).isNone || (brokenAt b h f.at_ w.kind w.rank w.bank).isSome) &&
      (x.kind == DK.pre || !(needsClosed w x.rank x.bank) || decide (x.at_ + closeTime b x.kind ≤ f.at_))

/-- Legal now, and allowed by R167. -/
def elLegal (s : State) (c : Nat) (x : ElCmd) : Bool :=
  let t := elTiming s x s.clk.mclk
  (brokenAt (timNow s) (chanAt s c).allH s.clk.mclk t.kind t.rank t.bank).isNone && okFixed s c t

/-- Whether an entry belongs to a request of MIG. -/
def migEnt (ch : Chan) (e : LineEnt) : Bool := ch.reqs.any fun q => q.id == e.id && q.src == 10

/-- 06 R173: an earlier entry that the entry may not pass: on its line, or, as both read and write one check line, in its group where either
writes (assumption log entry 13). The copy pointer moves line by line, so the lines that MIG reads go in order. -/
def lineBlocked (s : State) (c : Nat) (e : LineEnt) : Bool :=
  let ch := chanAt s c
  let near (x : LineEnt) : Bool := groupBase x.line == groupBase e.line && entPrank s x == entPrank s e
  ch.wrq.any (fun x => decide (x.id < e.id) && near x) || (e.write && ch.rdq.any fun x => decide (x.id < e.id) && near x) ||
    (migEnt ch e && (ch.rdq ++ ch.wrq).any fun x => x.id == e.id && decide (x.line < e.line))

/-- 06 R183: a neighbour refresh is under way on the bank. -/
def nrefBusy (ch : Chan) (r bk : Nat) : Bool :=
  ch.nrefStep != 0 && match ch.nref with | (x, y, _) :: _ => x == r && y == bk | [] => false

/-- An entry may issue its next command (06 R169 to R173, R180, R183). A row that a fixed word keeps open is not closed. -/
def issuable (s : State) (c : Nat) (e : LineEnt) : Bool :=
  let ch := chanAt s c
  let x := entNext s c e
  let p := linePos (dramB s) e.line
  let r := entPrank s e % 2
  let k := bankAt s c r p.bank
  !(prankAt s (entPrank s e)).sr && !lineBlocked s c e && !nrefBusy ch r p.bank && elLegal s c x &&
    (match x with
     | .act _ _ _ => !(rfmOn ch && decide (ch.raammt ≤ k.raa)) && decide (ch.nref.length < 16)
     | .pre _ _ _ => !k.fixed
     | _ => true)

/-- The oldest of some entries. Of two of one age the spec names none: the first in the list, reads before writes (assumption log entry 136,
DESIGN CHOICE). -/
def oldest (l : List LineEnt) : Option LineEnt :=
  l.foldl (fun b e => match b with | some x => if e.enq < x.enq then some e else some x | none => some e) none

/-- Whether the next command of an entry is its column access. -/
def rowHit (s : State) (c : Nat) (e : LineEnt) : Bool := match entNext s c e with | .col _ => true | _ => false

/-- 06 R170: the mode's choice among issuable entries. -/
def modeChoice (s : State) (c : Nat) (l : List LineEnt) : Option LineEnt :=
  if (chanAt s c).rorder = 0 then
    match oldest (l.filter fun e => !e.write) with
    | some e => some e
    | none => oldest l
  else
    match oldest (l.filter (rowHit s c)) with
    | some e => some e
    | none => oldest l

/-- 06 R170: WBATCH as the choice finds it. -/
def wbatchNow (ch : Chan) : Bool := ch.wbatch || (ch.wmhi != 0 && decide (ch.wmhi ≤ ch.wrq.length))

/-- The entries that may issue. -/
def mayIssueEnts (s : State) (c : Nat) : List LineEnt := ((chanAt s c).rdq ++ (chanAt s c).wrq).filter (issuable s c)

/-- 06 R170: those of them that have reached the age cap. -/
def agedEnts (s : State) (c : Nat) : List LineEnt :=
  (mayIssueEnts s c).filter fun e => (chanAt s c).agecap != 0 && decide ((chanAt s c).agecap * 256 ≤ s.clk.mclk - e.enq)

/-- 06 R170: the entry that is chosen. -/
def entChoice (s : State) (c : Nat) : Option LineEnt :=
  let l := mayIssueEnts s c
  match oldest (agedEnts s c) with
  | some e => some e
  | none => if wbatchNow (chanAt s c) then modeChoice s c (l.filter (·.write)) else modeChoice s c l

/-- Whether a queued entry hits the open row of a bank. -/
def queuedHit (s : State) (c r bk row : Nat) : Bool :=
  let ch := chanAt s c
  (ch.rdq ++ ch.wrq).any fun e => let p := linePos (dramB s) e.line; entPrank s e % 2 == r && p.bank == bk && p.row == row

/-- Rows that elastic traffic left open and that must be closed now: idle for IDLEPRE cycles (06 R171), or needed by a fixed word
with no time left for another access (06 R167). -/
def closeChoice (s : State) (c : Nat) : Option ElCmd :=
  let ch := chanAt s c
  let now := s.clk.mclk
  let rest := plannedRest s c
  match firstIdx 32 fun i =>
      match ch.banks[i]? with
      | some k =>
        k.row.isSome && !k.fixed &&
          (decide (k.used + ch.idlepre ≤ now) && ch.page == 1 ||
           rest.any fun (w, f) => needsClosed w (i / 16) (i % 16) && decide (f.at_ ≤ now + 2 * closeTime (timNow s) DK.wr)) &&
          elLegal s c (.pre (i / 16) (i % 16) false)
      | none => false with
  | some i => some (.pre (i / 16) (i % 16) false)
  | none => none

/-- 06 R170, R180: the RFM that is due: at RAAIMT, with a precharge of its bank first. -/
def rfmChoice (s : State) (c : Nat) : Option ElCmd :=
  let ch := chanAt s c
  if !rfmOn ch then none
  else
    let due (i : Nat) : ElCmd :=
      if (bankAt s c (i / 16) (i % 16)).row.isSome then .pre (i / 16) (i % 16) false else .rfm (i / 16) (i % 16)
    (firstIdx 32 fun i => match ch.banks[i]? with
      | some k => decide (ch.raaimt ≤ k.raa) && !k.fixed && !(prankAt s (2 * c + i / 16)).sr && elLegal s c (due i)
      | none => false).map due

/-- 06 R183: the rows that the neighbour refresh of a row activates. -/
def nrefRows (s : State) (row : Nat) : List Nat :=
  [1, 2].filter (fun k => k ≤ max 1 s.dmc.br) |>.flatMap fun k =>
    (if k ≤ row then [row - k] else []) ++ (if row + k < dmRows (dramB s) then [row + k] else [])

/-- 06 R183: the next command of the neighbour refresh that is due: its bank is closed first, then each row is activated and precharged. -/
def nrefChoice (s : State) (c : Nat) : Option ElCmd :=
  match (chanAt s c).nref with
  | [] => none
  | (r, bk, _) :: _ =>
    let k := bankAt s c r bk
    let x : ElCmd := if k.row.isSome then (if (chanAt s c).nrefStep = 0 then .pre r bk false else .nref r bk false) else .nref r bk true
    if k.fixed || (prankAt s (2 * c + r)).sr || !elLegal s c x then none else some x

/-- What the scheduler issues before any entry: RFM, neighbour refresh (06 R170), and the closing of rows of R167 and R171, for which the spec
gives no place (assumption log entry 137, DESIGN CHOICE). -/
def careChoice (s : State) (c : Nat) : Option ElCmd :=
  match rfmChoice s c with
  | some x => some x
  | none =>
    match nrefChoice s c with
    | some x => some x
    | none => closeChoice s c

/-- 06 R170: what the scheduler issues now. -/
def elChoice (s : State) (c : Nat) : Option ElCmd :=
  match careChoice s c with
  | some x => some x
  | none => (entChoice s c).map (entNext s c)

/-- 06 R170: the write batch starts where the choice comes to it: no maintenance is due and no entry has reached the age cap. -/
def startBatch (s : State) (c : Nat) : State :=
  if (careChoice s c).isNone && (agedEnts s c).isEmpty then modChan s c fun x => { x with wbatch := wbatchNow x } else s

/-! ### What an issue does -/

/-- The port behind an entry, for the log: 10 where no request stands behind it (07 R212). -/
def entSrc (ch : Chan) (e : LineEnt) : Nat := ((ch.reqs.find? fun r => r.id == e.id).map (·.src)).getD 10

def entWho (s : State) (c : Nat) (e : LineEnt) : EccWho := { src := entSrc (chanAt s c) e, fixed := false, word := 0xFFFF }

/-- The logical rank in the folded addresses of an entry's line. -/
def entLr (s : State) (e : LineEnt) : Nat := match e.prank with | some p => lineLr s p e.line | none => e.lr

/-- Entries of one request, and of one line of it. -/
def sameEnt (x y : LineEnt) : Bool := x.id == y.id && x.line == y.line && x.write == y.write
def sameGroup (x y : LineEnt) : Bool := x.id == y.id && groupBase x.line == groupBase y.line && x.write == y.write

/-- A queue's entries changed where `p` holds. -/
def mapEnts (s : State) (c : Nat) (p : LineEnt → Bool) (f : LineEnt → LineEnt) : State :=
  let g (e : LineEnt) : LineEnt := if p e then f e else e
  modChan s c fun x => { x with rdq := x.rdq.map g, wrq := x.wrq.map g }

/-- An entry is done: it leaves its queue, and its request has one line less to come. -/
def dropEnt (s : State) (c : Nat) (e : LineEnt) : State :=
  modChan s c fun x =>
    { x with
      rdq := if e.write then x.rdq else x.rdq.filter fun y => !sameEnt y e
      wrq := if e.write then x.wrq.filter (fun y => !sameEnt y e) else x.wrq
      reqs := x.reqs.map fun q => if q.id = e.id then { q with left := q.left - 1 } else q }

/-- The lines of an entry's request that it writes whole. -/
def wholeLines (s : State) (c : Nat) (e : LineEnt) : List Nat :=
  match (chanAt s c).reqs.find? fun q => q.id == e.id with
  | some q => ((List.range 5).filter fun i => decide (q.off ≤ 64 * i ∧ 64 * i + 64 ≤ q.off + q.len)).map (q.line + ·)
  | none => if e.len = 64 then [e.line] else []

/-- 07 R199: the first write of MIG to a group of the spare makes its check line anew for the logical rank that moves there. -/
def rebaseGroup (s : State) (p lr d : Nat) : State :=
  let f := (List.range 7).flatMap fun i => lineCheck lr (groupBase d + i) (lineRead s p (groupBase d + i))
  checkWrite s p d (sealCheck lr d (f ++ [BitVec.ofNat 8 (checkFlags (checkRead s p d)), 0]))

/-- A line of MIG's goes to the spare. -/
def migStore (s : State) (p : Nat) (e : LineEnt) : State :=
  let s := if s.dmc.migWrote ≤ groupBase e.line then rebaseGroup s p e.lr e.line else s
  let s := lineWrite s p e.lr e.line 0 e.data e.poison
  { s with dmc := { s.dmc with migWrote := max s.dmc.migWrote (e.line + 1) } }

/-- 07 R194, R200: the scrub writes a line back whole with what it then holds, which is what the scrub read corrected or a later write of it;
at HOME of a logical rank that moves it is mirrored like any write. -/
def scrubStore (s : State) (p : Nat) (e : LineEnt) : State :=
  let lr := lineLr s p e.line
  let s := lineWrite s p lr e.line 0 (lineRead s p e.line) (linePoison s p e.line)
  if (rmtAt s lr).cur = p then mirrorLine s lr e.line else s

/-- The data of a write reaches the line, poisoned where its read was or MIG says so. -/
def entStore (s : State) (c : Nat) (e : LineEnt) : State :=
  let pr := entPrank s e
  let s := match e.prank with
    | some p => if migEnt (chanAt s c) e then migStore s p e else scrubStore s p e
    | none => homeWrite s e.lr e.line e.off e.data (e.poison || e.rmw.getD false) false
  if e.chk = some none then poisonRest s pr (entLr s e) e.line (wholeLines s c e) else s

/-- 07 R199: a line that MIG reads at HOME is behind CP from its column access on. -/
def copyPoint (s : State) (c : Nat) (e : LineEnt) : State :=
  if migEnt (chanAt s c) e ∧ e.line = s.dmc.cp then { s with dmc := { s.dmc with cp := e.line + 1 } } else s

/-- 07 R194: the write-back of a scrub read's line, as an entry. -/
def wbEnt (s : State) (e : LineEnt) : LineEnt :=
  { e with id := s.dmc.nextId, write := true, off := 0, len := 64, data := [], enq := s.clk.mclk, chk := none, rmw := none, late := false, held := false }

/-- The data of a read: for its request, or, where none stands behind it, for the scrub, which writes back a line of class C1 or C2. -/
def entLoad (s : State) (c : Nat) (e : LineEnt) (errs : List EccErr) : State :=
  let g := readLineEcc s (entWho s c e) (entLr s e) (entPrank s e) e.line 0 errs (e.chk.getD none)
  let s := copyPoint g.st c e
  if (chanAt s c).reqs.any fun q => q.id == e.id then
    modChan s c fun x => { x with reqs := x.reqs.map fun q => if q.id = e.id then
      { q with got := (e.line, (g.data.drop e.off).take e.len) :: q.got, bad := if g.poison then q.bad ++ [e.line - q.line] else q.bad } else q }
  else if g.cls = 1 ∨ g.cls = 2 then
    let s := modChan s c fun x => { x with wb := x.wb ++ [wbEnt s e] }
    { s with dmc := { s.dmc with nextId := s.dmc.nextId + 1 } }
  else s

/-- An entry's own line is accessed at MCLK cycle `now`: it counts, and its age with it (06 R185). -/
def countLine (s : State) (c : Nat) (e : LineEnt) (now : Nat) : State :=
  modChan s c fun x => { x with elrd := if e.write then x.elrd else x.elrd + 1, elwr := if e.write then x.elwr + 1 else x.elwr,
                                maxAge := max x.maxAge (min (2 ^ 31 - 1) (now - e.enq)) }

/-- What a column access of an entry does to data, checks and queues. Errors of the access stand under line 0. -/
def colEffect (s : State) (c : Nat) (e : LineEnt) (errs : List EccErr) : State :=
  let pr := entPrank s e
  match entStage e with
  | .chkRd =>
    let r := readCheck s (entLr s e) pr e.line errs [(0, e.line % 28 % 7)]
    mapEnts r.1 c (fun y => sameGroup y e) fun y => { y with chk := some r.2 }
  | .lineRd =>
    let g := readLineEcc s (entWho s c e) (entLr s e) pr e.line 0 errs (e.chk.getD none)
    mapEnts g.st c (fun y => sameEnt y e) fun y => { y with rmw := some g.poison }
  | .data =>
    if e.write then
      let s := countLine (entStore s c e) c e s.clk.mclk
      if (chanAt s c).wrq.any fun y => sameGroup y e && !sameEnt y e && !y.late then dropEnt s c e
      else mapEnts s c (fun y => sameEnt y e) fun y => { y with late := true }
    else dropEnt (countLine (entLoad s c e errs) c e s.clk.mclk) c e
  | .chkWr => dropEnt s c e

/-- 06 R171: what a column access at `now` leaves of its row: open under PAGE 1 where another access hits it or H says so, else closed by an
auto-precharge. -/
def rowPolicy (s : State) (c r bk row now : Nat) : State :=
  let ch := chanAt s c
  let k := bankAt s c r bk
  let h := if ch.page = 1 ∧ !k.fixed ∧ !k.fresh then min 3 (k.h + 1) else k.h
  let keep := k.fixed || (ch.page = 1 ∧ (queuedHit s c r bk row ∨ 2 ≤ h))
  let s := modBank s c r bk fun k => { k with used := now, h := h, fresh := false }
  if keep then s else (sideCmd s c DK.pre r bk (now + 1)).1

/-- A column access of an entry: its data, its bank's row policy and its request's progress. -/
def colIssue (s : State) (c : Nat) (e : LineEnt) (errs : List EccErr) : State :=
  let p := linePos (dramB s) e.line
  let r := entPrank s e % 2
  let s := colEffect (noteAll s c (elTiming s (.col e) s.clk.mclk)) c e errs
  let s := modChan s c fun x => { x with wbatch := x.wbatch && decide (x.wmlo < x.wrq.length) }
  finishReqs (rowPolicy s c r p.bank p.row s.clk.mclk) c

/-- 06 R183: one command of a neighbour refresh. Its activates count in the bank's RAA, of which the spec says nothing (assumption log entry
138, DESIGN CHOICE), and not in the hammer guard's table. -/
def nrefIssue (s : State) (c r bk : Nat) (act : Bool) : State :=
  let now := s.clk.mclk
  let ch := chanAt s c
  let row := ((ch.nref.head?).map (·.2.2)).getD 0
  let rows := nrefRows s row
  if act then
    let s := noteAll s c { kind := DK.act, rank := r, bank := bk, at_ := now }
    let s := if rfmOn ch then modBank s c r bk fun b => { b with raa := b.raa + 1 } else s
    let s := modBank s c r bk fun b => { b with row := some (lget rows ch.nrefStep 0), fixed := false, used := now, fresh := false }
    modChan s c fun x => { x with nrefStep := x.nrefStep + 1 }
  else (sideCmd s c DK.pre r bk now).1

/-- A neighbour refresh whose rows are all done leaves the queue. -/
def nrefDone (s : State) (c : Nat) : State :=
  let ch := chanAt s c
  match ch.nref with
  | (r, bk, row) :: rest =>
    if (nrefRows s row).length ≤ ch.nrefStep ∧ (bankAt s c r bk).row.isNone then
      modChan s c fun x => { x with nref := rest, nrefStep := 0, nrefDone := sat16 x.nrefDone }
    else s
  | [] => s

/-- One choice of the scheduler takes effect. -/
def elIssue (s : State) (c : Nat) (x : ElCmd) (errs : List EccErr) : State :=
  let now := s.clk.mclk
  match x with
  | .pre r bk forced =>
    let s := (sideCmd s c DK.pre r bk now).1
    if forced ∧ (chanAt s c).page = 1 then modBank s c r bk fun k => { k with h := k.h - 1 } else s
  | .act r bk row =>
    let s := noteAll s c { kind := DK.act, rank := r, bank := bk, at_ := now }
    actEffect (modBank s c r bk fun k => { k with row := some row, fixed := false, used := now, fresh := true }) c r bk row
  | .col e => colIssue s c e errs
  | .rfm r bk =>
    let s := noteAll s c { kind := DK.rfmpb, rank := r, bank := bk, at_ := now }
    modChan (refreshEffect s c r bk) c fun x => { x with rfmDone := sat16 x.rfmDone }
  | .nref r bk act => nrefDone (nrefIssue s c r bk act) c

/-- 06 R180, R185: an elastic activate that comes to wait at RAAMMT is counted once. -/
def countHeld (s : State) (c : Nat) : State :=
  let ch := chanAt s c
  let waits (e : LineEnt) : Bool := rfmOn ch && !e.held && match entNext s c e with
    | .act r bk _ => decide (ch.raammt ≤ (bankAt s c r bk).raa)
    | _ => false
  let n := ((ch.rdq ++ ch.wrq).filter waits).length
  let s := mapEnts s c waits fun e => { e with held := true }
  modChan s c fun x => { x with rfmHeld := satAdd 65535 x.rfmHeld n }

/-! ### Patrol scrub (07 R194) -/

/-- The physical ranks of channel `c` that the scrub walks. -/
def scrubRanks (s : State) (c : Nat) : List Nat :=
  [2 * c, 2 * c + 1].filter fun p => populated s p && !retired s p && !(prankAt s p).sr

/-- Write-backs of the scrub enter the write queue as far as it has room. -/
def scrubBack (s : State) (c : Nat) : State :=
  modChan s c fun x => let n := 64 - x.wrq.length; { x with wrq := x.wrq ++ x.wb.take n, wb := x.wb.drop n }

/-- The scrub puts its next read into the channel's queue when there is room, while EN is 1. The walks run channel by channel and DMC_SCRUBPOS has
one place: it shows the channel that queued a read last, and the line after it (assumption log entry 139, DESIGN CHOICE). -/
def scrubStep (s : State) (c : Nat) : State :=
  let left := lget s.dmc.scrubLeft c 0
  let ranks := scrubRanks s c
  if !bitAt s.dmc.scrub 31 ∨ left = 0 ∨ 64 ≤ (chanAt s c).rdq.length then s
  else
    match ranks with
    | [] => s
    | first :: _ =>
      let r := lget s.dmc.scrubRank c 0
      let cur := if ranks.contains r then r else first
      let line := if ranks.contains r then lget s.dmc.scrubLine c 0 else 0
      let last := line + 1 == dmDl (dramB s)
      let next := if last then (ranks.find? fun x => cur < x).getD first else cur
      let e : LineEnt := { id := s.dmc.nextId, lr := lineLr s cur line, line := line, prank := some cur, write := false, off := 0, len := 64,
                           data := [], enq := s.clk.mclk, poison := false, chk := none, rmw := none, late := false, held := false }
      let s := modChan s c fun x => { x with rdq := x.rdq ++ [e] }
      { s with dmc := { s.dmc with
        nextId := s.dmc.nextId + 1
        scrubLast := c
        scrubRank := lmod s.dmc.scrubRank c fun _ => next
        scrubLine := lmod s.dmc.scrubLine c fun _ => if last then 0 else line + 1
        scrubLeft := lmod s.dmc.scrubLeft c fun n => n - 1 } }

/-- 06 R170: the elastic scheduler of channel `c` issues one command, in a cycle that no fixed word holds. -/
def elasticIssue (s : State) (c : Nat) (errs : List EccErr) : State :=
  if !domOn s (20 + c) && (domAt s (20 + c)).phase != .drain then s
  else if fspChanging s || fixedHeld s c || !s.dmc.ready then s
  else
    let s := countHeld (nrefDone (scrubStep (scrubBack s c) c) c) c
    let s := startBatch s c
    match elChoice s c with
    | some x => elIssue s c x errs
    | none => s

end Sys2Proof.Machine
end

