-- ==== Sys2Proof/Machine/DramMig.lean ====
section
/-! DEFINITION. Rank retirement and migration, the frequency change, training, and the DMC registers (06 R160, R184, R185; 07 R194 to R213). -/

namespace Sys2Proof.Machine

/-- The spare's physical rank. -/
def spareRank (s : State) : Nat := dmSpare (dramB s)

/-- 07 R206: N_fsp. -/
def nFsp (s : State) : Nat := cdiv (fTick s) 200

/-- 06 R184: WINTICKS. -/
def winTicks (s : State) : Nat := 32 * s.clk.rate / 1000

/-! ### Copying (07 R199, R200) -/

/-- 07 R200: the end of a pass: another one from REDO_LO, an abort when PASS would exceed 8, or SETTLE at the next boundary. -/
def passOver (s : State) : State :=
  match s.dmc.redo with
  | some d =>
    if 8 ≤ s.dmc.pass then { s with dmc := { s.dmc with abort := true } }
    else { s with dmc := { s.dmc with pass := s.dmc.pass + 1, cp := d, redo := none } }
  | none => { s with dmc := { s.dmc with passEnd := true } }

/-- Whether MIG waits for the response to a read. -/
def migReads (s : State) : Bool := s.fab.xfers.any fun x => match x.job with | .migRead _ => true | _ => false

/-- Whether MIG has anything on its way to the spare or from HOME. -/
def migBusy (s : State) : Bool :=
  s.dmc.migData.isSome || s.fab.xfers.any fun x => match x.job with | .migRead _ | .migWrite _ => true | _ => false

/-- MIG's write of lines from `d` upward to the spare, with the poisoned ones among them. -/
def migPut (s : State) (d : Nat) (data : Bytes) (bad : List Nat) : State :=
  let q : Req := { src := 10, kind := .write, fa := 0, flen := data.length, tag := 0, cls := 3, dst := 0, data := data }
  xferAdd s 10 (.migWrite d) [{ req := q, tgt := some (.rank (spareRank s) d), bad := bad, forced := false }]

/-- MIG's read at HOME of the lines from CP to the end of their block of four. -/
def migGet (s : State) (lr : Nat) : State :=
  let d := s.dmc.cp
  let q : Req := { src := 10, kind := .read, fa := 2 ^ 35 + lineSa (dramB s) lr d * 64, flen := 64 * (4 - d % 4), tag := 0, cls := 3, dst := 0,
                   data := [] }
  xferAdd s 10 (.migRead d) [{ req := q, tgt := none, bad := [], forced := false }]

/-- 07 R199, R200: MIG issues one request: the write of what it has read; else, while no read is under way, the oldest buffered mirror write
or the next read. Where both could go, `ahead` says that the read goes. -/
def migCopy (s : State) (ahead : Bool) : State :=
  match movingLr s with
  | none => s
  | some lr =>
    if fspChanging s || !domOn s (20 + (rmtAt s lr).cur / 2) || !domOn s (20 + spareRank s / 2) then s
    else
      match s.dmc.migData with
      | some (d, data, bad) => migPut { s with dmc := { s.dmc with migData := none } } d data bad
      | none =>
        let reads := decide ((rmtAt s lr).st = 2 ∧ s.dmc.cp < dmDl (dramB s)) && !s.dmc.passEnd
        if migReads s then s
        else
          match s.dmc.mirror with
          | (d, data, poison) :: r =>
            if ahead && reads then migGet s lr else migPut { s with dmc := { s.dmc with mirror := r } } d data (if poison then [0] else [])
          | [] => if reads then migGet s lr else s

/-- Lines from `d` on did not reach the spare: another pass copies them. -/
def migRedo (s : State) (d : Nat) : State := { s with dmc := { s.dmc with redo := some (min d (s.dmc.redo.getD d)) } }

/-- 07 R199: MIG's read from line `d` on has its response. A read that ended with DOMAIN_OFF is copied again as far as its lines count as
behind CP. At the last line the pass ends. -/
def migReadDone (s : State) (x : Xfer) (d : Nat) : State :=
  if (movingLr s).isNone then s
  else
    let s := if x.error.isNone then { s with dmc := { s.dmc with migData := some (d, x.data, x.bad.map (·.2)) } }
      else if d < s.dmc.cp then migRedo s d else s
    if dmDl (dramB s) ≤ s.dmc.cp ∧ !s.dmc.passEnd then passOver s else s

/-- 07 R200: a write of MIG's has its response. -/
def migWriteDone (s : State) (x : Xfer) (d : Nat) : State := if (movingLr s).isSome ∧ x.error.isSome then migRedo s d else s

/-- 07 R195, R198, R201: a write of DMC_RETIRE. -/
def retireWrite (s : State) (v : Nat) : State :=
  let t := bits v 2 0
  if bits v 31 16 ≠ 0x4D1C then s
  else
    match bits v 9 8 with
    | 1 => condemnRank s t
    | 2 => modRmt s t fun x => { x with go := true }
    | 3 => if movingLr s = some t then { s with dmc := { s.dmc with abort := true } } else s
    | _ => s

/-! ### The boundary (07 R195, R198 to R203) -/

/-- 07 R201: MIG drops what it has under way, and the contents of the spare are discarded: it reads as training left it. -/
def migDrop (s : State) : State :=
  let p := spareRank s
  let size := 131072 * 16 * 32 * 64
  { s with
    fab := { s.fab with xfers := s.fab.xfers.map fun x => if x.src = 10 then { x with job := .none } else x }
    mem := { s.mem with dram := memClear s.mem.dram (p * size) ((p + 1) * size) }
    dmc := { s.dmc with mirror := [], migData := none, migWrote := 0 } }

/-- 07 R201: the abort that is due. -/
def migAbort (s : State) : State :=
  if s.dmc.abort then
    match movingLr s with
    | some lr =>
      let s := modRmt s lr fun x => { x with st := 1, reason := 5, go := false }
      let spare := if (prankAt s (spareRank s)).bad then 3 else 0
      migDrop { s with dmc := { s.dmc with abort := false, spare := spare, cp := 0, pass := 0, redo := none, passEnd := false } }
    | none => { s with dmc := { s.dmc with abort := false } }
  else s

/-- 07 R202, R204: the packets for a logical rank that wait at an egress or in their sources go on to the channel it is on now, in their order. -/
def rerouteLr (s : State) (lr e : Nat) : State :=
  let dst := 6 + (rmtAt s lr).cur / 2
  let mine (p : Pkt) : Bool := pktLr s p == some lr
  let moved (p : Pkt) : Pkt := { p with req := { p.req with dst := dst }, doms := pktDoms s p.req p.tgt }
  let g := lget s.fab.eg e {}
  let l := (g.qs.flatMap fun q => q.pk.filter mine).mergeSort fun a b => decide (a.seq ≤ b.seq)
  let s := { s with fab := { s.fab with
    eg := lmod s.fab.eg e fun g => { g with qs := g.qs.map fun q => tagHead g { q with pk := q.pk.filter fun p => !mine p } }
    held := s.fab.held.map fun p => if mine p then moved p else p } }
  l.foldl (fun s p =>
    let n := dst - 6
    { s with fab := { s.fab with eg := lmod s.fab.eg n fun g => egPush g (qmap s n p.req.src p.req.cls) s.clk.mclk (moved p) } }) s

/-- 07 R202, R203: the switch to the spare: nothing is to be copied again, nothing of MIG's is under way, and no elastic access to the logical
rank is queued in HOME's channel, the scrub's among them. -/
def migSwitch (s : State) (lr : Nat) : State :=
  let h := (rmtAt s lr).cur
  let ch := chanAt s (h / 2)
  if s.dmc.redo.isNone && s.dmc.mirror.isEmpty && !migBusy s && !((ch.rdq ++ ch.wrq ++ ch.wb).any fun e => e.lr == lr && entPrank s e == h) then
    let s := modRmt s lr fun x => { x with st := 4, cur := spareRank s, reason := 0 }
    let s := modRank s h fun k => { k with sr := true }
    rerouteLr { s with dmc := { s.dmc with spare := 2, rfence := true } } lr (h / 2)
  else s

/-- 07 R198: why a condemned entry waits; 0 when nothing holds it. -/
def copyReason (s : State) (lr : Nat) : Nat :=
  let b := dramB s
  if !dmSpareV b ∨ s.dmc.spare = 2 ∨ s.dmc.spare = 3 then 1
  else if s.dmc.spare = 1 ∨ (movingLr s).isSome then 2
  else if !bitAt s.dmc.cover lr then 3
  else if !s.dmc.auto ∧ !(rmtAt s lr).go then 4
  else if fspChanging s then 6
  else 0

/-- 07 R198: the lowest condemned entry that may start enters COPY; the others show why they wait. -/
def migStart (s : State) : State :=
  let nlr := dmNlr (dramB s)
  let wait := idxWhere 8 fun lr => lr < nlr && (rmtAt s lr).st == 1
  let s := match wait.find? fun lr => copyReason s lr == 0 with
    | some lr =>
      let s := modRmt s lr fun x => { x with st := 2, reason := 0, go := false }
      { s with dmc := { s.dmc with
        spare := 1, cp := 0, pass := 1, rfence := false, redo := none, mirror := [], passEnd := false, lr := lr, migData := none, migWrote := 0 } }
    | none => s
  let s := wait.foldl (fun s lr => if (rmtAt s lr).st = 1 then
      modRmt s lr fun x => { x with reason := if x.reason = 5 ∧ copyReason s lr = 0 then 5 else copyReason s lr } else s) s
  match movingLr s with
  | some lr => { s with dmc := { s.dmc with lr := lr } }
  | none =>
    match wait.find? fun lr => (rmtAt s lr).st == 1 with
    | some lr => { s with dmc := { s.dmc with lr := lr } }
    | none => s

/-- What a boundary does to a migration. -/
def migBoundary (s : State) : State :=
  if s.dmc.abort then migAbort s
  else
    let s := match movingLr s with
      | none => s
      | some lr =>
        if fspChanging s then s
        else if (rmtAt s lr).st = 3 then
          if s.dmc.redo.isSome then passOver (modRmt s lr fun x => { x with st := 2 }) else migSwitch s lr
        else if s.dmc.passEnd then
          if s.dmc.redo.isSome then passOver { s with dmc := { s.dmc with passEnd := false } }
          else modRmt { s with dmc := { s.dmc with passEnd := false } } lr fun x => { x with st := 3 }
        else s
    if dmNlr (dramB s) = 0 then s else migStart s

/-- 06 R184, 07 R194, R195: the counters that boundaries drive. `tc` is the tick that starts. -/
def dmcTick (s : State) (tc : Nat) : State :=
  let s := if winTicks s ≠ 0 ∧ tc % winTicks s = 0 then
      { s with dmc := { s.dmc with ch := s.dmc.ch.map fun c => { c with banks := c.banks.map fun b => { b with ham := [] } } } } else s
  let s := if tc % 2 ^ s.dmc.decay = 0 then
      { s with dmc := { s.dmc with ranks := s.dmc.ranks.map fun r => { r with score := r.score / 2 } } } else s
  let n := if bitAt s.dmc.scrub 31 then bits s.dmc.scrub 15 0 else 0
  { s with dmc := { s.dmc with scrubLeft := [n, n, n, n] } }

/-! ### The frequency change (07 R206 to R208) -/

/-- Every bank of a channel closed. -/
def closeBanks (c : Chan) : Chan := { c with banks := c.banks.map fun b => { b with row := none, fixed := false } }

/-- The ranks a frequency change moves. -/
def liveRanks (s : State) : List Nat := idxWhere 8 fun p => populated s p && !retired s p

def setSr (s : State) (v : Bool) : State := (liveRanks s).foldl (fun s p => modRank s p fun k => { k with sr := v }) s

/-- 07 R206: a change to set point `t` starts at this boundary. -/
def fspStart (s : State) (t : Nat) : State :=
  { s with dmc := { s.dmc with fspTarget := t, fspLeft := max 1 (nFsp s), fspStep := 1, fspAt := s.clk.mclk, fspNext := none },
           tsq := { s.tsq with fsp := 2 } }

/-- 07 R206: step 6 of R113. `t` is the set point of the chosen set, `none` for set 3, which starts no change and drops one that
waits (07 R208, 02 R63). -/
def fspRequest (s : State) (t : Option Nat) : State :=
  match t with
  | none => { s with dmc := { s.dmc with fspNext := none } }
  | some t =>
    if fspChanging s then { s with dmc := { s.dmc with fspNext := if t = s.dmc.fspTarget then none else some t } }
    else if t ≠ s.tsq.fsp then fspStart s t
    else s

/-- 07 R206: what the end of step `n` of Table 7-5 leaves. -/
def fspStepEffect (s : State) (n : Nat) (bad : Nat) : State :=
  match n with
  | 1 => setSr ((liveRanks s).foldl (fun s p => enterFsp s s.dmc.fspTarget p) { s with dmc := { s.dmc with ch := s.dmc.ch.map closeBanks } }) true
  | 2 => { s with dmc := { s.dmc with bank := s.dmc.fspTarget } }
  | 4 => setSr s false
  | 5 =>
    ((liveRanks s).filter (bitAt bad)).foldl (fun s p =>
      condemnRank { s with dmc := { s.dmc with retrain := s.dmc.retrain ||| 2 ^ p } } p) s
  | 6 =>
    let s := { s with dmc := { s.dmc with ch := s.dmc.ch.map fun c => { c with fixedH := [], allH := [] } } }
    let s := (liveRanks s).foldl (fun s p => refreshEffect s (p / 2) (p % 2) 16) s
    { s with dmc := { s.dmc with lastDur := min 65535 ((s.clk.mclk - s.dmc.fspAt) / 1000) } }
  | _ => s

/-- 07 R206: the step that runs is done. `bad` names the ranks that failed to retrain in step 5. -/
def fspStepDone (s : State) (bad : Byte) : State :=
  let n := s.dmc.fspStep
  if n = 0 then s
  else
    let s := fspStepEffect s n bad.toNat
    { s with dmc := { s.dmc with fspStep := if n = 6 then 0 else n + 1 } }

/-- Steps that have not been reported by the end of their window are done by then (07 R206: each finishes within its time). -/
def fspFinish (s : State) : Nat → State
  | 0 => s
  | k + 1 => if s.dmc.fspStep = 0 then s else fspFinish (fspStepDone s 0) k

/-- 07 R206, R208: after N_fsp ticks the set point is in force, and a change that waits starts. -/
def fspEnd (s : State) : State :=
  let s := fspFinish s 6
  let s := { s with dmc := { s.dmc with fspLeft := 0, bank := s.dmc.fspTarget }, tsq := { s.tsq with fsp := s.dmc.fspTarget } }
  match s.dmc.fspNext with
  | some t => if t ≠ s.tsq.fsp then fspStart s t else { s with dmc := { s.dmc with fspNext := none } }
  | none => s

/-- The end of the change reported at the end of its last tick: a change that starts with the next tick counts from its boundary. -/
def fspEndEarly (s : State) : State :=
  let s := fspEnd s
  if s.dmc.fspLeft = 0 then s else { s with dmc := { s.dmc with fspLeft := s.dmc.fspLeft + 1 } }

/-- A boundary's count of the change's ticks. -/
def fspTick (s : State) : State :=
  if s.dmc.fspLeft = 0 then s
  else if s.dmc.fspLeft = 1 then fspEnd s
  else { s with dmc := { s.dmc with fspLeft := s.dmc.fspLeft - 1 } }

/-! ### Apply and training (06 R160, 07 R209, R210) -/

/-- 06 R160, R185: DRAMMAP is applied. -/
def drammapApply (s : State) : State :=
  let b := dramB s
  let rmt := (List.range 8).map fun i => ({ cur := if i < dmNlr b then dmHome b i else 0 } : RankMap)
  { s with dmc := { s.dmc with
      rmt := rmt
      spare := 0
      hamthr := u16 b 0x18
      br := u8 b 0x16 % 4
      ch := s.dmc.ch.zipIdx.map fun (c, i) =>
        { c with wmhi := u8 b 0x14, wmlo := u8 b 0x15, page := dmPage b i, rorder := dmRorder b i,
                 idlepre := u16 b 0x1C, agecap := u16 b 0x1A } } }

/-- 07 R210: a rank that failed training. -/
def trainBad (s : State) (p : Nat) : State :=
  let b := dramB s
  let s := { s with dmc := { s.dmc with bootBad := s.dmc.bootBad ||| 2 ^ p } }
  if dmSpareV b ∧ dmSpare b = p then { s with dmc := { s.dmc with spare := 3 } }
  else
    match firstIdx 8 fun lr => lr < dmNlr b && homeOf s lr == p with
    | some lr =>
      if dmSpareV b ∧ s.dmc.spare = 0 ∧ bitAt s.dmc.cover lr then
        modRmt { s with dmc := { s.dmc with spare := 2 } } lr fun x => { x with st := 4, cur := dmSpare b }
      else { s with dmc := { s.dmc with trainFail := true } }
    | none => s

/-- 07 R209, R210, 17 R541: training ends, with FSP0 entered after FSP1. The spare's own failure counts before a HOME rank's. Every line holds
zeros under the logical rank that its rank serves; the lines of a spare that serves none, under logical rank 0 (assumption log entry 133). `rfm` holds RAAIMT and RAAMMT of
each channel, 0 where RFM is not required. -/
def trainDone (s : State) (bad : Byte) (rfm : List (Nat × Nat)) : State :=
  let b := dramB s
  let failed := (idxWhere 8 fun p => populated s p && bitAt bad.toNat p)
  let order := failed.filter (fun p => dmSpareV b && dmSpare b == p) ++ failed.filter fun p => !(dmSpareV b && dmSpare b == p)
  let s := { s with
    mem := { s.mem with dram := [] }
    dmc := { s.dmc with
      ready := true, bank := 0, migData := none, migWrote := 0, trainFail := false, bootBad := 0
      ranks := s.dmc.ranks.map fun r => { r with sr := false }
      ch := s.dmc.ch.zipIdx.map fun (c, i) =>
        { closeBanks c with raaimt := (lget rfm i (0, 0)).1, raammt := (lget rfm i (0, 0)).2, fixedH := [], allH := [] } }
    tsq := { s.tsq with fsp := 0 } }
  let s := (idxWhere 8 (populated s)).foldl (fun s p => enterFsp (enterFsp s 1 p) 0 p) (order.foldl trainBad s)
  let s := { s with dmc := { s.dmc with trainLr := (List.range 8).map fun p =>
    (firstIdx 8 fun lr => lr < dmNlr b && ((rmtAt s lr).cur == p || homeOf s lr == p)).getD 0 } }
  (List.range 8).foldl (fun s p => if retired s p then modRank s p fun r => { r with sr := true } else s) s

/-! ### Registers (06 R185, 07 R212) -/

/-- DMC_ELOG0 to 5 of an entry. -/
def elogWords (e : Option EccLog) : List Nat :=
  match e with
  | none => [0, 0, 0, 0, 0, 0]
  | some e =>
    [e.cls * 2 ^ 29 + e.prank * 2 ^ 26 + e.bank * 2 ^ 22 + e.row * 2 ^ 5 + e.pos,
     e.src * 2 ^ 27 + b2n e.fixed * 2 ^ 26 + e.syms % 256 * 2 ^ 16 + e.word % 65536, e.fa, e.cycle, e.tc % 2 ^ 32, e.tc / 2 ^ 32 % 2 ^ 32]

/-- 07 R212: a write of DMC_ELOGSEL, with the copy it makes. -/
def elogSel (s : State) (v : Nat) : State :=
  let i := bits v 4 0
  let s := rwPut s (Base.dmc + 0x224) i
  { s with dmc := { s.dmc with elogSn := elogWords (ringAt s.dmc.elog s.dmc.elogTotal 32 i) } }

/-- A read of a DMC register. What R186 and R213 update at boundaries is read from the last one. -/
def dmcRead (s : State) (off : Nat) : Nat :=
  let d := s.dmc
  let b := dramB s
  let z := s.shown.dmc
  let chan (o : Nat) : Nat :=
    let c := chanAt s ((o - 0x100) / 0x40)
    match (o - 0x100) % 0x40 with
    | 0x00 => c.wmhi % 64 * 2 ^ 16 + c.wmlo * 256 + c.page * 2 + c.rorder
    | 0x04 => c.idlepre * 65536 + c.agecap
    | 0x08 => (if s.dmc.fspLeft ≠ 0 then 2 else s.tsq.fsp) * 2 ^ 18 + b2n (fixedHeld s ((o - 0x100) / 0x40)) * 2 ^ 17 +
        b2n c.wbatch * 2 ^ 16 + c.wrq.length * 256 + c.rdq.length
    | 0x0C => c.raammt * 65536 + c.raaimt
    | 0x10 => c.elrd % 2 ^ 32
    | 0x14 => c.elrd / 2 ^ 32 % 2 ^ 32
    | 0x18 => c.elwr % 2 ^ 32
    | 0x1C => c.elwr / 2 ^ 32 % 2 ^ 32
    | 0x20 => c.nrefFull * 65536 + c.nrefDone
    | 0x24 => c.rfmHeld * 65536 + c.rfmDone
    | 0x28 => c.maxAge
    | _ => 0
  match off with
  | 0x00 => b2n (dmSpareV b) * 2 ^ 31 + dmSpare b * 2 ^ 28 + dmNlr b * 2 ^ 16 + dmIg b * 512 + b2n (dmHash b) * 256 + dmRanks b
  | 0x08 => sysMiB s % 65536
  | 0x10 => (if hasSec s Ty.drammap 0 then winTicks s else 0) * 2 ^ 20 + d.br * 65536 + d.hamthr
  | 0x40 => b2n (dmSpareV b) * 2 ^ 31 + z.spare * 2 ^ 28 + dmSpare b
  | 0x200 => d.condemn * 65536 + b2n d.logc1 * 4096 + d.decay
  | 0x204 => d.scrub
  | 0x208 => lget d.scrubRank d.scrubLast 0 * 2 ^ 29 + lget d.scrubLine d.scrubLast 0
  | 0x20C => z.cover * 2 ^ 24 + (lget z.rmt z.lr {}).reason * 2 ^ 16 + z.lr * 256 + b2n z.rfence * 2 + b2n d.auto
  | 0x214 => z.pass * 2 ^ 28 + b2n z.redo.isSome * 2 ^ 27 + z.cp % 2 ^ 26
  | 0x218 => z.redo.getD 0
  | 0x21C => nFsp s * 2 ^ 24 + z.fspTarget * 2 ^ 20 + z.lastDur
  | 0x220 => b2n d.trainFail * 2 ^ 31 + d.retrain * 256 + d.bootBad
  | 0x228 => d.elogTotal
  | _ =>
    if 0x20 ≤ off ∧ off < 0x40 then
      let n := (off - 0x20) / 4
      if n < dmNlr b then 2 ^ 31 + (lget z.rmt n {}).st * 2 ^ 28 + dmHome b n * 2 ^ 24 + (lget z.rmt n {}).cur * 2 ^ 20 else 0
    else if 0x60 ≤ off ∧ off < 0x80 then
      let r := lget z.ranks ((off - 0x60) / 4) {}
      b2n r.polled * 2 ^ 31 + b2n r.srAt * 2 ^ 30 + r.demand * 65536 + r.mr4
    else if 0x100 ≤ off ∧ off < 0x200 then chan off
    else if 0x230 ≤ off ∧ off < 0x248 then lget d.elogSn ((off - 0x230) / 4) 0
    else if 0x260 ≤ off ∧ off < 0x280 then (lget z.ranks ((off - 0x260) / 4) {}).score
    else if 0x280 ≤ off ∧ off < 0x2A0 then let r := lget d.ranks ((off - 0x280) / 4) {}; r.c2 * 65536 + r.c1
    else if 0x2A0 ≤ off ∧ off < 0x2C0 then let r := lget d.ranks ((off - 0x2A0) / 4) {}; r.p * 65536 + r.u
    else 0

/-- 06 R185: a write of a channel register. -/
def chanWrite (s : State) (c o v : Nat) : State :=
  match o with
  | 0x00 =>
    let hi := bits v 21 16
    let lo := bits v 13 8
    modChan s c fun x =>
      let x := { x with page := bits v 1 1, rorder := bits v 0 0 }
      if 2 ≤ hi ∧ lo < hi then { x with wmhi := hi, wmlo := lo } else x
  | 0x04 => modChan s c fun x => { x with idlepre := bits v 31 16, agecap := if bits v 15 0 = 0 then x.agecap else bits v 15 0 }
  | 0x28 => if bitAt v 31 then modChan s c fun x => { x with maxAge := 0 } else s
  | _ => s

/-- A write of a DMC register that is not plain storage. -/
def dmcWrite (s : State) (off v : Nat) : State :=
  match off with
  | 0x10 =>
    let br := bits v 17 16
    let thr := bits v 15 0
    { s with dmc := { s.dmc with br := if br = 1 ∨ br = 2 then br else s.dmc.br
                                 hamthr := if 64 ≤ thr ∧ thr ≤ 32768 then thr else s.dmc.hamthr } }
  | 0x200 =>
    let c := bits v 31 16
    let k := bits v 4 0
    { s with dmc := { s.dmc with condemn := if c = 0 then s.dmc.condemn else c
                                 logc1 := bitAt v 12
                                 decay := if 8 ≤ k ∧ k ≤ 24 then k else s.dmc.decay } }
  | 0x204 => { s with dmc := { s.dmc with scrub := bits v 31 31 * 2 ^ 31 + bits v 15 0 } }
  | 0x20C => { s with dmc := { s.dmc with auto := bitAt v 0 } }
  | 0x210 => retireWrite s v
  | 0x224 => elogSel s v
  | _ => if 0x100 ≤ off ∧ off < 0x200 then chanWrite s ((off - 0x100) / 0x40) ((off - 0x100) % 0x40) v else s

end Sys2Proof.Machine
end

