-- ==== Sys2Proof/Machine/Layout.lean ====
section
/-! DEFINITION. The bodies of the sections as the loader judges them: LENGTH, reserved bytes and the range of every field (03 Table 3-6
step 29), with the conditions that one section puts on another. Each check answers whether the body keeps its rule. -/

namespace Sys2Proof.Machine

/-- A field of a body and the values it may hold. -/
structure Fspec where
  off  : Nat
  size : Nat
  ok   : Nat → Bool

def fAny (o n : Nat) : Fspec := ⟨o, n, fun _ => true⟩
def fRng (o n lo hi : Nat) : Fspec := ⟨o, n, fun v => lo ≤ v && v ≤ hi⟩
def fMask (o n m : Nat) : Fspec := ⟨o, n, fun v => v ||| m == m⟩
/-- The same fields with any value: the record they stand in is not used, and only its reserved bytes are 0. -/
def fLoose (l : List Fspec) : List Fspec := l.map fun f => { f with ok := fun _ => true }

/-- The value of a field. -/
def fVal (b : Bytes) (f : Fspec) : Nat := leNat ((b.drop f.off).take f.size)

/-- The fields moved up by `o` bytes. -/
def fAt (o : Nat) (l : List Fspec) : List Fspec := l.map fun f => { f with off := f.off + o }

/-- Every byte that no field covers is 0. -/
def restZeroF (b : Bytes) (l : List Fspec) : Bool :=
  b.zipIdx.all fun (x, i) => x == 0 || l.any fun f => f.off ≤ i && i < f.off + f.size

/-- A body of `len` bytes whose fields keep their ranges and whose reserved bytes are 0. -/
def bodyFits (b : Bytes) (len : Nat) (l : List Fspec) : Bool :=
  b.length == len && l.all (fun f => f.ok (fVal b f)) && restZeroF b l

/-- `n` records of `size` bytes from `o` on, each with the fields that `g` gives it. -/
def fRec (n o size : Nat) (g : Nat → List Fspec) : List Fspec := (List.range n).flatMap fun i => fAt (o + size * i) (g i)

/-! ### The configuration being checked -/

def cB (c : List Sec) (t i : Nat) : Bytes := (secIn c t i).getD []
def cHas (c : List Sec) (t i : Nat) : Bool := (secIn c t i).isSome

def cNslot (c : List Sec) : Nat := u16 (cB c Ty.tick 0) 4
def cEngine (c : List Sec) (e : Nat) : Bytes := cB c Ty.engine e
def cIsArray (c : List Sec) (e : Nat) : Bool := u8 (cEngine c e) 0 == 1
def cIsScanner (c : List Sec) (e : Nat) : Bool := u8 (cEngine c e) 0 == 2
def cUsed (c : List Sec) (n : Nat) : Bool := bitAt (u8 (cEngine c (n / 4)) 1) (n % 4)
def cRole (c : List Sec) (n : Nat) : Nat := u8 (cEngine c (n / 4)) (2 + n % 4)
def cInputs (c : List Sec) : Bytes := cB c Ty.inputs 0
def cDram (c : List Sec) : Bytes := cB c Ty.drammap 0
def cPop (c : List Sec) : List Nat := idxWhere 8 (bitAt (dmRanks (cDram c)))

/-- The input of a source and instance in a configuration. -/
def cInput (c : List Sec) (src arg : Nat) : List Nat :=
  idxWhere (nIn (cInputs c)) fun i => inSrc (cInputs c) i == src && inArg (cInputs c) i == arg

/-! ### Addresses (05 R123) -/

def inSram17 (a n : Nat) : Bool := 0x10100000 ≤ a && a + n ≤ 0x10800000
def inDramFa (c : List Sec) (a n : Nat) : Bool :=
  2 ^ 35 ≤ a && a < 2 ^ 36 && !bitAt a 34 && a % 2 ^ 34 + n ≤ dmSize (cDram c)

/-- A fabric address of a section field: not one that goes through DMC_WINBASE. -/
def faForm (a : Nat) : Bool := a < 0x80000000 || (2 ^ 35 ≤ a && a < 2 ^ 36 && !bitAt a 34)

/-- A staged region that is valid, and lies in SRAM banks 1 to 7. -/
def regInSram (c : List Sec) (r : Nat) : Bool :=
  r < 64 && regValid (cInputs c) r && inSram17 (regBase (cInputs c) r) (2 * regLen (cInputs c) r)

def overlap (a n b m : Nat) : Bool := decide (a < b + m) && decide (b < a + n)

/-- Whether no two of a list of runs of bytes overlap. -/
def disjointRuns : List (Nat × Nat) → Bool
  | [] => true
  | (a, n) :: r => r.all (fun q => !overlap a n q.1 q.2) && disjointRuns r

def rising (l : List Int) : Bool := (l.zip (l.drop 1)).all fun (x, y) => decide (x < y)

/-! ### TICK, PINMAP, DOMAINS, FABRIC (03 R81, 18 R468, 17 R447, 05 R544) -/

def tickFits (b : Bytes) : Bool :=
  bodyFits b 32 [fAny 0 2, fAny 2 2, fAny 4 2, fRng 6 1 0 4, fAny 8 2, fAny 10 2, fAny 12 4, fAny 16 1]

def pinmapFits (b : Bytes) : Bool :=
  bodyFits b 4224 ((List.range 6).map (fun i => fRng i 1 0 2) ++ fRng 8 2 0 512 ::
    fRec 512 128 8 fun i => if i < u16 b 8 then [fAny 0 6] else [fAny 0 8])

/-- 18 R469: the entries of a pin map. -/
def pinmapOk (b : Bytes) : Bool :=
  let l := (List.range (u16 b 8)).map fun i => (u16 b (128 + 8 * i), u8 b (130 + 8 * i), 131 + 8 * i)
  l.all (fun (ball, o, a) => ((gpOf ball).isSome || ball == trefBall) && ownerAllowed o ball &&
    u8 b a ≤ 2 && u8 b (a + 1) ≤ 3 && u8 b (a + 2) ≤ 2 &&
    (l.filter fun x => x.1 == ball).length == 1 && (!ownerUnique o || (l.filter fun x => x.2.1 == o).length == 1))

def domainsFits (b : Bytes) : Bool :=
  bodyFits b 1536 ([fAny 0 8, fAny 8 8, fAny 16 8] ++
    fRec 64 0x100 16 (fun d => [fAny 0 1, fMask 1 1 (if 13 ≤ d ∧ d ≤ 19 then 1 else 0), fRng 2 2 0 10000]) ++
    fRec 8 0x500 32 fun p => if bitAt (u8 b (0x501 + 32 * p)) 0
      then [⟨0, 1, fun v => v ≤ 3 || v == 255⟩, fMask 1 1 1, fRng 2 2 1 65535, fAny 8 8, fAny 16 8]
      else [fAny 0 1, fMask 1 1 1, fAny 2 2, fAny 8 8, fAny 16 8])

/-- 05 Table 5-1: the ports that issue requests. -/
def issuesReq (p : Nat) : Bool := p ≤ 2 || (10 ≤ p && p ≤ 22)

def fabricFits (b : Bytes) : Bool :=
  bodyFits b 12288 (fRec 7 0 8 (fun _ => [fRng 0 1 0 1, fRng 1 1 0 63]) ++
    fRec 24 0x40 2 (fun p => [if issuesReq p then fRng 0 2 1 256 else fRng 0 2 0 0]) ++
    fRec 7 0x100 96 (fun _ => fRec 24 0 4 fun p => (List.range 4).map fun k => if issuesReq p then fRng k 1 0 31 else fRng k 1 0 0) ++
    fRec 7 0x400 512 fun _ => fRec 32 0 16 fun _ => [fRng 0 2 1 65535, fAny 2 2, fAny 4 2, fAny 6 2, fRng 8 1 1 255, fAny 9 1])

/-! ### SCHED, DRAMTIM, DRAMMAP (04 R105, 06 R168, R159, R154) -/

def schedFits (b : Bytes) (i : Nat) : Bool :=
  64 ≤ b.length && b.length == 64 + 16 * schedWords b && u8 b 0 == i &&
  (if i = 3 then u8 b 1 == 0xFF else u8 b 1 ≤ 1) && 1 ≤ schedWords b && zeroes b 2 2 && zeroes b 10 2 && zeroes b 20 44

def dramtimFits (b : Bytes) (i : Nat) : Bool :=
  let dr := u16 b 2
  let bank16 : Bool := u8 b 1 == 0
  bodyFits b 512 ([fRng 0 1 i i, fRng 1 1 0 1, fRng 2 2 1 (if bank16 then 3200 else 6400), fAny 4 2, fRng 6 1 0 56] ++
    fRec 32 0x20 4 (fun _ => [fAny 0 4]) ++ fRec 56 0x120 4 fun _ => [fAny 0 3]) &&
  decide (u16 b 4 * dr < 8000000 + dr) && decide (8000000 < u16 b 4 * dr + dr) && decide (0 < timPar b 29) &&
  (!bank16 || (timPar b 7 == timPar b 8 && timPar b 9 == timPar b 10))

def drammapFits (b : Bytes) : Bool :=
  let pop := idxWhere 8 (bitAt (dmRanks b))
  let spare := if dmSpareV b then [dmSpare b] else []
  let homes := (List.range (dmNlr b)).map (dmHome b)
  bodyFits b 2048 ([fAny 0 1, fRng 1 1 0 2, fRng 2 1 1 8, ⟨3, 1, fun v => v == 28 || v == 56 || v == 112⟩, fMask 4 1 1, fMask 5 1 0x87] ++
    (List.range 8).map (fun i => fMask (8 + i) 1 0x87) ++ (List.range 4).map (fun c => fMask (0x10 + c) 1 3) ++
    [fRng 0x14 1 2 64, ⟨0x15, 1, fun v => v < u8 b 0x14⟩, fRng 0x16 1 1 2, fRng 0x18 2 64 32768, fRng 0x1A 2 1 65535, fAny 0x1C 2]) &&
  !pop.isEmpty && spare.all pop.contains && dmNlr b + spare.length == pop.length &&
  homes.all (fun p => pop.contains p && !spare.contains p && (homes.filter (· == p)).length == 1) &&
  (List.range 8).all (fun i => dmHomeV b i == decide (i < dmNlr b)) &&
  (List.range 4).all fun c => (pop.filter fun p => p / 2 == c).length * 2 ^ dmDens b ≤ 4

/-! ### ENGINE (08 R214, R225, R227, 11 R301) -/

def engineFits (c : List Sec) (e : Nat) : Bool :=
  let b := cEngine c e
  let kind := u8 b 0
  let chans := u8 b 1
  let arr : Bool := kind == 1
  let z (f : Fspec) : Fspec := if arr then f else { f with ok := fun v => v == 0 }
  let head := [fRng 0 1 1 2, fMask 1 1 15] ++
    (List.range 4).map (fun k => if bitAt chans k then fRng (2 + k) 1 1 4 else fRng (2 + k) 1 0 0) ++
    [z (fRng 8 2 1 1920), z (fRng 0xA 2 1 1080), z (fRng 0xC 2 256 16383), z (fRng 0xE 1 1 64)] ++
    fRec 2 0x10 8 (fun _ => [z (fAny 0 2), z (fAny 2 2), z (fRng 4 1 0 2)]) ++
    fRec 16 0x40 8 (fun _ => [fRng 0 1 0 3, fRng 2 2 0 4095]) ++
    fRec 64 0xC0 4 (fun _ => [z ⟨0, 1, fun v => v / 64 % 2 == 0 && v / 16 % 4 ≤ 2 && v % 16 ≤ 11⟩])
  let per (o : Nat) := fRng o 4 6400000 17066667
  let scan := [fRng 0x400 2 0 511, fRng 0x402 1 0 15, fRng 0x403 1 0 15, per 0x404, per 0x408, per 0x40C, fRng 0x410 1 0 15,
    fRng 0x411 1 0 15, fRng 0x412 2 1 1000, fRng 0x414 1 1 255, fRng 0x415 1 0 63, fRng 0x416 2 1 4096, fAny 0x418 2, fAny 0x41A 2,
    fRng 0x41C 2 1 2048, fAny 0x41E 2, fAny 0x420 2, fMask 0x422 1 3]
  if arr then bodyFits b 1024 head
  else
    let zx := u16 b 0x400
    let r := u8 b 0x415
    bodyFits b 1536 (head ++ scan) && decide (i16 b 0x41E < i16 b 0x420) &&
    decide (zx < nIn (cInputs c)) && inSrc (cInputs c) zx == 8 && inArg (cInputs c) zx == e &&
    regInSram c r && decide (0x20010 ≤ regLen (cInputs c) r)

/-! ### SERVO (10 R269, R270) -/

def loopOff (l : Nat) : Nat := 0x100 + 176 * l
def cLoopOn (c : List Sec) (l : Nat) : Bool := l < 16 && u8 (cB c Ty.servo 0) (loopOff l) == 1

def loopFields : List Fspec :=
  let two30 := 2 ^ 30
  [fRng 0 1 0 1, fRng 1 1 0 11, fMask 2 1 0x87, fRng 3 1 0 4, fRng 4 1 0 2, fRng 5 1 0 3, fAny 6 1, fMask 7 1 0x8F, fMask 8 1 0x83,
   fAny 0xA 2, fAny 0xC 2, fAny 0x10 4, fAny 0x14 4, fAny 0x18 4, fAny 0x1C 4, fRng 0x20 4 1 two30, fRng 0x24 4 0 (2 ^ 20),
   fRng 0x28 4 1 two30, fAny 0x2C 4, fAny 0x30 4, fAny 0x34 4, fRng 0x38 4 0 65535, fAny 0x3C 4, fAny 0x40 4, fAny 0x44 4,
   fRng 0x48 4 0 two30, fAny 0x4C 2, fAny 0x4E 2, fAny 0x50 2, fRng 0x52 2 1 32767, fRng 0x54 4 0 two30, fAny 0x58 40, fMask 0x80 1 3]

def servoFits (c : List Sec) : Bool :=
  let b := cB c Ty.servo 0
  let loops := idxWhere 16 (cLoopOn c)
  let lb (l o : Nat) := u8 b (loopOff l + o)
  let drvOf (l : Nat) : Option Nat := if lb l 2 ≥ 128 then some (lb l 2 % 8) else none
  let gate (l : Nat) : Option Nat := if lb l 7 ≥ 128 then some (lb l 7 % 16) else none
  bodyFits b 3072 ([fAny 0 1, fRng 1 1 2 32, fRng 2 2 256 65535] ++
    fRec 12 0x40 8 (fun i => if u8 b (0x40 + 8 * i) = 1 then [fAny 0 1, fRng 1 1 0 3, fRng 2 1 0 1] else [fRng 0 1 0 0, fAny 1 7]) ++
    fRec 8 0xA0 8 (fun i => if u8 b (0xA0 + 8 * i) = 1 then [fAny 0 1, fMask 1 1 0x83, fAny 2 2] else [fRng 0 1 0 0, fAny 1 7]) ++
    fRec 16 0x100 176 (fun l => if cLoopOn c l then loopFields else [fRng 0 1 0 0, fAny 1 175])) &&
  loops.all (fun l =>
    lb l 3 ≤ u8 (cB c Ty.tick 0) 6 && u8 b (0x40 + 8 * lb l 1) == 1 &&
    (match drvOf l with | some d => u8 b (0xA0 + 8 * d) == 1 | none => true) &&
    u16 b (loopOff l + 0x4C) ≤ u16 b (loopOff l + 0x4E) && decide (i32 b (loopOff l + 0x18) ≤ i32 b (loopOff l + 0x1C)) &&
    (lb l 8 < 128 || cIsScanner c (lb l 8 % 4)) && (match gate l with | some n => cUsed c n | none => true) &&
    (lb l 5 != 3 || (lb l 6 < 16 && cUsed c (lb l 6))) &&
    (lb l 5 != 2 || (lb l 6 < 4 && cIsScanner c (lb l 6) && u8 (cEngine c (lb l 6)) 0x403 == l))) &&
  (List.range 8).all (fun d =>
    let users := loops.filter fun l => drvOf l == some d
    let sh := u8 b (0xA1 + 8 * d)
    u8 b (0xA0 + 8 * d) != 1 ||
      (if sh < 128 then users.length == 1
       else cIsArray c (sh % 4) && users.all (fun l => lb l 8 < 128 &&
         (match gate l with | some n => n / 4 == sh % 4 && (users.filter fun k => gate k == some n).length == 1 | none => false)))) &&
  (List.range 4).all fun e => !cIsScanner c e || (cLoopOn c (u8 (cEngine c e) 0x402) && cLoopOn c (u8 (cEngine c e) 0x403))

/-! ### LOUPE (13 R342) -/

def ctxOff (k : Nat) : Nat := 0x400 + 0x280 * k
def cCtxOn (c : List Sec) (k : Nat) : Bool := k < 8 && u8 (cB c Ty.loupe 0) (ctxOff k) == 1

/-- 13 Table 13-6: the fields of output `k`, whose MODE byte is `m`. -/
def outFields (k : Nat) : List Fspec :=
  let mode : Fspec := ⟨3, 1, fun m => if k = 0 then m ≤ 2 else if k = 1 then m % 16 ≤ 3 && m / 16 ≤ 2 else m == 0⟩
  [fRng 0 1 1 1, fRng 1 1 0 1, fRng 2 1 0 3, mode, ⟨4, 8, fun v => v % 64 == 0 && faForm v⟩, ⟨0xC, 4, fun v => v % 64 == 0⟩,
   ⟨0x10, 4, fun v => v % 64 == 0⟩, fAny 0x14 2, fRng 0x16 1 1 2]

def ctxFields (b : Bytes) (k : Nat) : List Fspec :=
  let a := ctxOff k
  let grid := if u8 b (a + 0x16) = 0xFF then [fAny 0x17 4] else [fRng 0x17 1 4 10, fRng 0x18 1 4 10, fRng 0x19 1 2 33, fRng 0x1A 1 2 33]
  [fRng 0 1 1 1, fRng 1 1 0 1, fRng 2 1 0 3, fRng 3 1 0x2B 0x2C, ⟨4, 2, fun v => 2 ≤ v && v ≤ 4096 && v % 2 == 0⟩,
   ⟨6, 2, fun v => 2 ≤ v && v ≤ 4096 && v % 2 == 0⟩, fRng 8 1 0 4, fMask 9 1 3, fRng 0xA 2 1 1024, fRng 0xC 2 0 4095, fRng 0xE 2 0 4095,
   fRng 0x10 2 0 4095, fRng 0x12 2 0 4095, fAny 0x14 2, ⟨0x16, 1, fun v => v < 64 || v == 255⟩] ++ grid ++
  [fAny 0x20 18] ++ (List.range 33).map (fun i => fRng (0x40 + 2 * i) 2 0 255) ++
  [fRng 0x90 1 0 3, fRng 0x91 1 0 63, fRng 0x92 1 0 63, fRng 0x93 1 0 8, fRng 0x94 2 1 4095, fRng 0x96 2 1 65535, fRng 0x98 2 0 4095,
   fRng 0x9A 2 1 4095, ⟨0x9C, 4, fun v => v % 4096 == 0⟩, ⟨0xA0, 8, faForm⟩, ⟨0xA8, 4, fun v => v % 64 == 0⟩, fRng 0xAC 1 0 3] ++
  fRec 6 0x100 32 fun j => if u8 b (a + 0x100 + 32 * j) = 0 then fRng 2 1 0 3 :: fLoose (outFields j) else outFields j

def loupeFits (c : List Sec) : Bool :=
  let b := cB c Ty.loupe 0
  let on := idxWhere 8 (cCtxOn c)
  let x8 (k o : Nat) := u8 b (ctxOff k + o)
  let x16 (k o : Nat) := u16 b (ctxOff k + o)
  let vision := on.filter fun k => x8 k 9 != 0
  let frame (k : Nat) := (x16 k 4 / 2 ^ x8 k 0x90) * (x16 k 6 / 2 ^ x8 k 0x90) * 2
  let span (k : Nat) := (u32 b (ctxOff k + 0x9C), (if bitAt (x8 k 9) 0 then 3 else 2) * frame k)
  bodyFits b 6144 ([fAny 0 1] ++
    fRec 2 0x40 32 (fun r => if u8 b (0x40 + 32 * r) = 1
      then [fAny 0 1, ⟨1, 1, fun v => v == 1 || v == 2 || v == 4⟩, fRng 2 2 80 2500, fAny 4 1, fMask 5 1 0x1F]
      else [fRng 0 1 0 0, fAny 1 5]) ++
    (List.range 128).map (fun i => fRng (0x80 + i) 1 1 255) ++
    fRec 8 0x400 0x280 fun k => if cCtxOn c k then ctxFields b k else fRng 0 1 0 0 :: fLoose (ctxFields b k)) &&
  (List.range 8).all (fun k => bitAt (u8 b 0) k == cCtxOn c k) &&
  on.all (fun k => u8 b (0x40 + 32 * x8 k 1) == 1 && x16 k 4 % 2 ^ x8 k 0x90 == 0 && x16 k 6 % 2 ^ x8 k 0x90 == 0 &&
    x16 k 4 * x16 k 6 ≤ 16777216 && (on.filter fun j => x8 j 1 == x8 k 1 && x8 j 2 == x8 k 2).length == 1 &&
    (x8 k 0x16 == 0xFF || (regInSram c (x8 k 0x16) && x16 k 4 - 1 ≤ (x8 k 0x19 - 1) * 2 ^ x8 k 0x17 &&
      x16 k 6 - 1 ≤ (x8 k 0x1A - 1) * 2 ^ x8 k 0x18)) &&
    (x8 k 0x120 == 0 || x8 k 0x123 % 4 == 3 || x16 k 4 / 2 ^ (x8 k 0x123 / 16 % 4) ≤ 4096)) &&
  decide ((on.filter fun k => bitAt (x8 k 9) 0).length ≤ 1) &&
  vision.all (fun k => x8 k 0x90 != 0 && (span k).1 + (span k).2 ≤ 0x100000 &&
    (!bitAt (x8 k 9) 0 || regInSram c (x8 k 0x91)) && (!bitAt (x8 k 9) 1 || regInSram c (x8 k 0x92))) &&
  disjointRuns (vision.map span)

/-! ### CHAIN, TWIN, CALPTR, MEDIA, FALLBACK, FIRMWARE (15 R391, 16 R418, 12 R324, 11 R299, 09 R266, 03 R82) -/

/-- Whether the pin map makes TREF_IN the time reference. -/
def cTrefOwned (c : List Sec) : Bool :=
  let b := cB c Ty.pinmap 0
  (List.range (u16 b 8)).any fun i => u16 b (128 + 8 * i) == trefBall && u8 b (130 + 8 * i) == 0x20

def chainFits (c : List Sec) : Bool :=
  let b := cB c Ty.chain 0
  bodyFits b 256 ([fAny 0 6, fMask 6 1 3, ⟨7, 1, fun v => v < 16 && v % 4 ≤ 2 && v / 4 ≤ 2⟩] ++
    (List.range 4).map (fun i => fMask (8 + 2 * i) 2 0x8FFF) ++
    [fRng 0x10 1 0 1, fAny 0x12 2, fAny 0x14 24, fAny 0x2C 1, fRng 0x2D 1 4 12, fRng 0x2E 2 1 65535, fAny 0x30 4, fAny 0x34 4,
     fRng 0x38 1 0 2, fRng 0x39 1 0 15, fRng 0x3A 1 0 15, fRng 0x3C 2 16 65535, fRng 0x3E 2 10 1000, fRng 0x40 4 100 1000000]) &&
  u8 b 0x37 == 3 && [0, 1, 2].all (fun r => [u8 b 0x34, u8 b 0x35, u8 b 0x36].contains r) && (u8 b 0x38 == 0 || cTrefOwned c)

def twinFits (c : List Sec) : Bool :=
  let b := cB c Ty.twin 0
  let i := cInputs c
  let mem (a n : Nat) : Bool := inSram17 a n || inDramFa c a n
  let xr := (List.range (u8 b 8)).map fun k => (u64 b (0x20 + 16 * k), u64 b (0x28 + 16 * k))
  let staged := (idxWhere 64 (regValid i)).map fun r => (regBase i r, 2 * regLen i r)
  let buf := (u64 b 0xC, u32 b 0x14)
  bodyFits b 128 ([fRng 0 1 1 8, fMask 1 1 1, fRng 2 2 16 65535, fRng 4 2 1 4096, fRng 6 2 2 1024, fRng 8 1 0 6, fRng 9 1 1 8, fAny 0xA 2,
    ⟨0xC, 8, fun v => v % 4096 == 0⟩, ⟨0x14, 4, fun v => v % 4096 == 0⟩] ++ fRec 6 0x20 16 fun _ => [fAny 0 16]) &&
  mem buf.1 buf.2 && xr.all (fun q => faForm q.1 && q.2 % 4096 == 0 && mem q.1 q.2 &&
    (buf :: staged).all fun z => !overlap q.1 q.2 z.1 z.2) && disjointRuns xr

def calptrFits (c : List Sec) : Bool :=
  let b := cB c Ty.calptr 0
  bodyFits b 96 [fAny 0 1, fAny 2 2, fAny 4 8, fAny 0xC 2, fAny 0xE 2, fAny 0x10 2, fAny 0x14 4, fAny 0x18 4] &&
  (!cHas c Ty.servo 0 || u8 b 0 != u8 (cB c Ty.servo 0) 0) && u32 b 0x14 < u32 b 0x18 && u16 b 0xE < u16 b 0x10

def mediaFits (b : Bytes) : Bool :=
  let pts (o n : Nat) := (List.range n).map fun i => ((u32 b (o + 8 * i) : Int), (u16 b (o + 4 + 8 * i) : Int))
  let w := pts 0x80 (u8 b 0x14)
  let e := pts 0x280 (u8 b 0x15)
  let step (l : List (Int × Int)) := l.zip (l.drop 1)
  bodyFits b 1200 ([fAny 0 16, fAny 0x10 2, fAny 0x12 2, fRng 0x14 1 2 64, fRng 0x15 1 2 64, fRng 0x16 1 1 15, fAny 0x18 4, fAny 0x1C 4,
    fAny 0x20 2, fAny 0x22 2, fAny 0x24 2, fRng 0x26 2 1 65535, fRng 0x28 4 1 0xFFFFFFFF, fAny 0x2C 4, fAny 0x30 4, fAny 0x34 4,
    fAny 0x38 4, fAny 0x3C 2, fRng 0x3E 2 1 65535, fRng 0x40 4 1 0xFFFFFFFF, fAny 0x44 2] ++
    fRec 64 0x80 8 (fun _ => [fAny 0 6]) ++ fRec 64 0x280 8 fun _ => [fAny 0 6]) &&
  [w, e].all (fun l => rising (l.map (·.1)) && (l.head?.map (·.1)) == some 0) &&
  (step w).all (fun (p, q) => decide (p.2 ≤ q.2)) && (step e).all fun (p, q) => decide (q.2 ≤ p.2)

def fallbackFits (b : Bytes) : Bool :=
  let per := if u8 b 0 = 1 then 1 else if u8 b 0 = 2 then 2 else if u8 b 0 = 3 then 4 else 8
  64 ≤ b.length && b.length ≤ 64 + 1048512 &&
  bodyFits (b.take 64) 64 [fRng 0 1 1 4, fRng 1 1 0 2, fMask 2 1 7, fRng 4 2 1 8192, fRng 6 2 1 8192, fAny 8 4,
    ⟨0xC, 4, fun v => v % 64 == 0⟩, (if u8 b 1 = 2 then fAny 0x10 4 else fRng 0x10 4 0 0), fAny 0x14 2, fAny 0x16 2, fRng 0x3E 1 0 3] &&
  (if u8 b 1 = 0 then u32 b 8 % 64 == 0 && u16 b 4 * per ≤ u32 b 8 else (u16 b 4 + 15) / 16 ≤ u32 b 8)

def firmwareFits (b : Bytes) : Bool :=
  let e := u32 b 0
  let n := b.length - 8
  8 ≤ b.length && n ≤ 262144 && zeroes b 4 4 && e % 2 == 0 && 0x20000000 ≤ e && e < 0x20000000 + n

/-! ### SAFETY (14 R368, R369) -/

def cSafEng (e : Nat) : Nat := 0x40 + 512 * e

/-- 14 R369: the sense inputs that serve a monitor. -/
def safSenses (c : List Sec) : List Nat :=
  let b := cB c Ty.safety 0
  ((List.range 16).filter fun n => cUsed c n && u8 b (cSafEng (n / 4) + 8 * (n % 4) + 1) != 0xFF).map
      (fun n => u8 b (cSafEng (n / 4) + 8 * (n % 4) + 1)) ++
    ((List.range 4).filter (cIsScanner c)).flatMap fun e => [u8 b (cSafEng e + 0x20), u8 b (cSafEng e + 0x21)]

def safetyFits (c : List Sec) : Bool :=
  let b := cB c Ty.safety 0
  let senses := safSenses c
  let entry (e : Nat) : List Fspec :=
    if cHas c Ty.engine e then
      fRec 4 0 8 (fun _ => [fAny 0 1, fAny 1 1, fMask 2 1 1, fRng 4 2 0 1023, fRng 6 2 0 1023]) ++
        [fAny 0x20 1, fAny 0x21 1, fRng 0x22 1 1 255, fAny 0x23 1, fAny 0x24 2, fAny 0x26 2, fAny 0x28 4, fAny 0x40 34, fAny 0x80 66]
    else []
  bodyFits b 2112 ([fRng 0 2 1 65535, fRng 2 2 10 65535, fRng 4 2 0 60000] ++ fRec 4 0x40 512 entry) &&
  (List.range 16).all (fun n =>
    let a := cSafEng (n / 4) + 8 * (n % 4)
    !cUsed c n || (u8 b (a + 1) < 12 && (cRole c n != 4 || (u16 b (a + 4) == 0 && u8 b (a + 2) % 2 == 0)))) &&
  senses.all (fun x => x < 12 && (senses.filter (· == x)).length == 1) &&
  (List.range 4).all fun e => !cHas c Ty.engine e ||
    (let cols := (List.range 33).map fun i => i16 b (cSafEng e + 0x80 + 2 * i)
     rising ((List.range 17).map fun i => ((u16 b (cSafEng e + 0x40 + 2 * i) : Nat) : Int)) && rising cols &&
     cols.all fun x => decide (-16384 ≤ x) && decide (x ≤ 16384))

/-- 14 R369: every ROLE is that of the ENGINE section. -/
def safetyRoles (c : List Sec) : Bool :=
  (List.range 16).all fun n => u8 (cB c Ty.safety 0) (cSafEng (n / 4) + 8 * (n % 4)) == cRole c n

/-- 14 R369, 12 R318: no value exceeds its OTP ceiling. Not judged while CEILOK is 0. -/
def safetyCeil (s : State) (c : List Sec) : Bool :=
  let b := cB c Ty.safety 0
  !ceilOk s ||
  ((List.range 16).all (fun n =>
      let a := cSafEng (n / 4) + 8 * (n % 4)
      u16 b (a + 4) ≤ openCeil s n && u16 b (a + 6) ≤ clearCeil s n) &&
    u16 b 0 ≤ ceil16 s 0x40 && u16 b 2 ≤ ceil16 s 0x42 && ceil16 s 0x44 ≤ u16 b 4 &&
    (List.range 4).all fun e => !cHas c Ty.engine e ||
      (ceil8 s 0x46 ≤ u8 b (cSafEng e + 0x23) && ceil8 s 0x47 ≤ u8 b (cSafEng e + 0x22) && u16 b (cSafEng e + 0x24) ≤ ceil16 s 0x48))

/-! ### INPUTS (18 R473, R474, R476) -/

/-- 18 Table 18-5: the highest ARG of a source. -/
def argMax (src : Nat) : Option Nat :=
  match src with
  | 0x01 => some 0 | 0x02 => some 0 | 0x03 => some 31 | 0x04 => some 31 | 0x05 => some 11 | 0x06 => some 11 | 0x07 => some 0
  | 0x08 => some 3 | 0x09 => some 15 | 0x0A => some 15 | 0x0B => some 3 | 0x0C => some 3 | 0x0D => some 1 | 0x0E => some 0
  | _ => none

/-- 18 R476: the inputs of which there is exactly one. -/
def wantedInputs (c : List Sec) : List (Nat × Nat) :=
  let lp := cB c Ty.loupe 0
  [(1, 0), (2, 0), (7, 0)] ++ (idxWhere 16 (cUsed c)).flatMap (fun n => [(9, n), (10, n)]) ++
  (idxWhere 4 (cIsScanner c)).flatMap (fun e => [(8, e), (11, e), (12, e)]) ++
  (idxWhere 2 fun r => u8 lp (0x40 + 32 * r) == 1).map (fun r => (13, r)) ++ (if cHas c Ty.twin 0 then [(14, 0)] else [])

def inputsFits (c : List Sec) : Bool :=
  let b := cInputs c
  let n := nIn b
  let regs := idxWhere 64 (regValid b)
  let maxev := ((List.range n).map fun i => if inIsEvent (inSrc b i) then inMaxEv b i else 0).foldl (· + ·) 0
  let die := u16 (cB c Ty.calptr 0) 2
  1 ≤ n && n ≤ 512 && b.length == 1056 + 24 * n && zeroes b 2 30 &&
  (List.range 64).all (fun r => u8 b (0x2C + 16 * r) ≤ 1 && zeroes b (0x2D + 16 * r) 3) &&
  regs.all (fun r => regBase b r % 4096 == 0 && regLen b r % 4096 == 0 && regLen b r != 0 &&
    (inSram17 (regBase b r) (2 * regLen b r) || inDramFa c (regBase b r) (2 * regLen b r))) &&
  disjointRuns (regs.map fun r => (regBase b r, 2 * regLen b r)) &&
  (List.range n).all (fun i => (match argMax (inSrc b i) with | some m => inArg b i ≤ m | none => false) && inFbMode b i ≤ 1 &&
    (if inIsEvent (inSrc b i) then 1 ≤ inMaxEv b i && inMaxEv b i ≤ 4096 else inMaxEv b i == 0) &&
    (inSrc b i == 6 || inAux b i == 0)) &&
  (wantedInputs c).all (fun q => (cInput c q.1 q.2).length == 1) && maxev ≤ 4096 && die < n && inSrc b die == 7

/-! ### DOMAINS (17 R448, R543) -/

def maskSub (a b : Nat) : Bool := a &&& b == a
def closedMask (m : Nat) : Bool := (domsOf m).all fun d => maskSub (maskOf (parents d)) m

/-- 17 Table 17-2A: the unit domains of a unit in a configuration. -/
def unitDomains (c : List Sec) (u : Nat) : List Nat :=
  let sv := cB c Ty.servo 0
  if u = 0 then [4, 5, 8]
  else if u ≤ 4 then [3, 9, 19 + u, 23 + u]
  else if u ≤ 8 then [10, 28 + 3 * (u - 5)]
  else if u ≤ 12 then [28 + 3 * (u - 9), 29 + 3 * (u - 9), 30 + 3 * (u - 9)]
  else if u ≤ 16 then [29 + 3 * (u - 13), 30 + 3 * (u - 13)]
  else if u ≤ 32 then
    let l := u - 17
    let drv := u8 sv (loopOff l + 2)
    (40 + l / 4) :: (if cLoopOn c l then snsDom (u8 sv (loopOff l + 1)) :: (if drv ≥ 128 then [drvDom (drv % 8)] else []) else [])
  else if u = 33 then
    let lp := cB c Ty.loupe 0
    let on := idxWhere 8 (cCtxOn c)
    [11, 46, 49] ++ on.map (fun k => 44 + u8 lp (ctxOff k + 1)) ++
      (if on.any fun k => u8 lp (ctxOff k + 0x120) == 1 && u8 lp (ctxOff k + 0x123) % 4 ≤ 2 then [47] else [])
  else if u = 34 then [11, 48, 49]
  else if u ≤ 36 then [50 + (u - 35), 52 + (u - 35)]
  else if u = 37 then [54, 55, 56, 57]
  else if u = 38 then [9, 58]
  else []

/-- The units that a set has slot words for. -/
def setUnits (b : Bytes) : List Nat := idxWhere 39 fun u => (slotWords b).any fun w => swUnit w == u

def domainsOk (c : List Sec) : Bool :=
  let b := cB c Ty.domains 0
  let used := u64 b 0
  let on := u64 b 8
  let lock := u64 b 16
  let sets := idxWhere 4 (cHas c Ty.sched)
  let req (i : Nat) := schedDomreq (cB c Ty.sched i)
  let need := [0, 1, 2, 3, 4, 5, 6, 7, 8, 12] ++ (cPop c).flatMap fun p => [3, 20 + p / 2, 24 + p / 2]
  maskSub (maskOf need) used && closedMask used && closedMask on && maskSub on used &&
  maskSub (req 3) on &&
  sets.all (fun i => closedMask (req i) && maskSub (req i) used && maskSub (req 3) (req i) &&
    (setUnits (cB c Ty.sched i)).all fun u => maskSub (maskOf (unitDomains c u)) (req i)) &&
  (domsOf lock).all isCommandDom &&
  (List.range 8).all fun p => !bitAt (u8 b (planAt p + 1)) 0 ||
    (let up := u64 b (planAt p + 8)
     let dn := u64 b (planAt p + 16)
     maskSub up used && maskSub dn used && (up &&& dn) == 0 && ((up ||| dn) &&& lock) == 0)

/-! ### Uses of DRAM and required sections (06 R154, 03 R79) -/

def usesDram (c : List Sec) : Bool := (domsOf (u64 (cB c Ty.domains 0) 0)).any isDramDom

/-- Whether a section that Table 3-4 requires is absent. -/
def sectionMissing (c : List Sec) : Bool :=
  let need := [(Ty.tick, 0), (Ty.pinmap, 0), (Ty.domains, 0), (Ty.fabric, 0), (Ty.sched, 3), (Ty.safety, 0), (Ty.inputs, 0), (Ty.calptr, 0),
    (Ty.fallback, 0), (Ty.firmware, 0)] ++ (if usesDram c then [(Ty.dramtim, 0), (Ty.dramtim, 1), (Ty.drammap, 0)] else []) ++
    (if (List.range 4).any (cHas c Ty.engine) then [(Ty.servo, 0)] else [])
  need.any fun q => !cHas c q.1 q.2

/-- 03 Table 3-6 step 29 for one section: whether its body keeps every rule that is not stated over slot words. -/
def sectionFits (c : List Sec) (x : Sec) : Bool :=
  if x.type = Ty.tick then tickFits x.body
  else if x.type = Ty.pinmap then pinmapFits x.body
  else if x.type = Ty.domains then domainsFits x.body
  else if x.type = Ty.fabric then fabricFits x.body
  else if x.type = Ty.sched then schedFits x.body x.inst
  else if x.type = Ty.dramtim then dramtimFits x.body x.inst
  else if x.type = Ty.drammap then drammapFits x.body
  else if x.type = Ty.engine then engineFits c x.inst
  else if x.type = Ty.servo then servoFits c
  else if x.type = Ty.loupe then loupeFits c
  else if x.type = Ty.chain then chainFits c
  else if x.type = Ty.twin then twinFits c
  else if x.type = Ty.safety then safetyFits c
  else if x.type = Ty.inputs then inputsFits c
  else if x.type = Ty.calptr then calptrFits c
  else if x.type = Ty.media then mediaFits x.body
  else if x.type = Ty.fallback then fallbackFits x.body
  else firmwareFits x.body

end Sys2Proof.Machine
end

