-- ==== Sys2Proof/Machine/Paths.lean ====
section
/-! DEFINITION. The loader's conditions over slot words: every path that the branches allow (04 R104, R542), what a word may hold, what a
path may hold, and which logical ranks are covered (07 R197). -/

namespace Sys2Proof.Machine

/-! ### Paths -/

/-- A word that a walk visits. -/
structure Visit where
  idx   : Nat
  word  : Nat
  shift : Nat
  reps  : List Nat
  deriving DecidableEq, Repr

/-- 04 Table 4-6: whether the word `k` places on lies at this nesting level; the place past the last word counts inside a loop body. -/
def onLevel (fuel k : Nat) (ws : List Nat) (inLoop : Bool) : Bool :=
  match fuel, ws with
  | 0, _ => false
  | _, [] => k == 0 && inLoop
  | f + 1, w :: r =>
    if k = 0 then true
    else
      let st := if swKind w = 0xD then bits (swPayload w) 63 56 else 0
      if st < k then onLevel f (k - 1 - st) (r.drop st) inLoop else false

/-- The words that a walk visits from word `i` on, and whether it keeps the structure that Table 4-6 asks for. -/
def traceGo (e : WalkEnv) (fuel : Nat) (inLoop : Bool) (depth i : Nat) (ws : List Nat) (shift : Nat) (reps : List Nat) :
    List Visit × Bool :=
  match fuel, ws with
  | 0, _ => ([], false)
  | _, [] => ([], inLoop)
  | f + 1, w :: r =>
    let k := swKind w
    let here : Visit := ⟨i, w, shift, reps⟩
    if k = 0xF then ([here], !inLoop)
    else if k = 0xC then
      let t := bits (swPayload w) 15 0
      let ok := decide (i < t) && onLevel (f + 1) (t - (i + 1)) r inLoop
      let rest := if branchTaken e (swPayload w) then traceGo e f inLoop depth t (r.drop (t - (i + 1))) shift reps
                  else traceGo e f inLoop depth (i + 1) r shift reps
      (here :: rest.1, ok && rest.2)
    else if k = 0xD then
      let p := swPayload w
      let body := bits p 63 56
      let ok := decide (0 < body) && decide (body ≤ r.length) && decide (depth < 4) && (r.take body).all fun x => swKind x != 0xF
      let runs := (List.range (bits p 55 44)).map fun n =>
        traceGo e f true (depth + 1) (i + 1) (r.take body) (shift + n * bits p 43 31) (reps ++ [n])
      let rest := traceGo e f inLoop depth (i + 1 + body) (r.drop body) shift reps
      (here :: (runs.flatMap (·.1) ++ rest.1), ok && runs.all (·.2) && rest.2)
    else
      let rest := traceGo e f inLoop depth (i + 1) r shift reps
      (here :: rest.1, rest.2)

/-- One path of a set. -/
structure Path where
  env  : WalkEnv
  vis  : List Visit
  good : Bool
  deriving DecidableEq, Repr

def Path.disps (p : Path) : List Disp :=
  p.vis.filterMap fun v => if isAction (swKind v.word) then some (mkDisp v.idx v.word v.shift v.reps) else none

/-- The first item of each key. -/
def dedupBy {α β : Type} [BEq β] (key : α → β) (l : List α) : List α :=
  (l.foldl (fun (a : List α × List β) x => let k := key x; if a.2.contains k then a else (x :: a.1, k :: a.2)) ([], [])).1.reverse

def allSubsets {α : Type} : List α → List (List α)
  | [] => [[]]
  | x :: r => let l := allSubsets r; l ++ l.map (x :: ·)

/-- The values that a set of parameter bits gives. -/
def paramsOf (l : List (Nat × Nat)) : Amap := l.foldl (fun m q => aset m q.1 (alook m q.1 ||| 2 ^ q.2)) []

/-- 04 R542: one environment for each outcome that the allowed values of frame phase, PREVSET, AGE, FSPSTATE and the parameters give.
Ages in `keep` stay apart. -/
def pathEnvs (c : List Sec) (i : Nat) (keep : List Nat) : List WalkEnv :=
  let b := cB c Ty.sched i
  let br := (slotWords b).filter (swKind · == 0xC) |>.map swPayload
  let of (k : Nat) := br.filter fun p => bits p 63 60 == k
  let base : WalkEnv := ⟨0, 0, 0, 0, []⟩
  let f := u16 (cB c Ty.tick 0) 2
  let ph := dedupBy (fun n => (of 1).map (branchTaken { base with phase := n })) (List.range (max 1 f))
  let ag := dedupBy (fun n => ((of 3).map (branchTaken { base with age := n }), if keep.contains n then n + 1 else 0)) (List.range 2048)
  let pv := if i = 3 then [0, 1, 2, 3] else [0, 1, 2, 3].filter (· != i)
  let fs := if i = 3 then [0, 1, 2] else [schedFsp b, 2]
  let pr := allSubsets (((of 5).map fun p => (bits p 58 48, bits p 47 37)).eraseDups)
  let all := ph.flatMap fun a => pv.flatMap fun v => ag.flatMap fun g => fs.flatMap fun x => pr.map fun q =>
    (⟨a, v, g, x, paramsOf q⟩ : WalkEnv)
  dedupBy (fun e => (br.map (branchTaken e), e.fsp, if keep.contains e.age then e.age + 1 else 0)) all

/-- The ages that the first tick after entry in which FSPSTATE is not 2 can have: no change runs, one that started before the entry runs out, or
one of the set's own waits for such a one (07 R206, R208), so that fewer than 2 × N_fsp ticks have passed. -/
def entryAges (c : List Sec) : List Nat := List.range (max 1 (2 * cdiv (u16 (cB c Ty.tick 0) 0) 200))

/-- Every path of a set. One with an action placed past the tick's slots is not judged as a stream. -/
def setPaths (c : List Sec) (i : Nat) : List Path :=
  let b := cB c Ty.sched i
  let inTick (v : Visit) : Bool := !isAction (swKind v.word) || decide (swSlot v.word + v.shift < u16 (cB c Ty.tick 0) 4)
  let ws := slotWords b
  (pathEnvs c i (entryAges c)).map fun e =>
    let t := traceGo e (ws.length + 1) false 0 (schedEntry b) (ws.drop (schedEntry b)) 0 []
    ⟨e, t.1, t.2 && t.1.all inTick⟩

/-- The sets of a configuration with their paths. -/
abbrev SetPaths := List (Nat × List Path)

def cPaths (c : List Sec) : SetPaths := (idxWhere 4 (cHas c Ty.sched)).map fun i => (i, setPaths c i)

/-! ### Words (04 Table 4-1 to 4-6) -/

/-- 04 Table 4-3. -/
def unitAccepts (u k : Nat) : Bool :=
  if isAction k then
    match k with
    | 1 => 1 ≤ u && u ≤ 4
    | 2 => 5 ≤ u && u ≤ 8
    | 3 => 9 ≤ u && u ≤ 0xC
    | 4 => 0xD ≤ u && u ≤ 0x10
    | 5 => 0x11 ≤ u && u ≤ 0x20
    | 6 => u == 0x21 || u == 0x22
    | 7 => 0x23 ≤ u && u ≤ 0x25
    | _ => u == 0x26
  else u == 0 && (k == 0 || 0xB ≤ k)

def bitRun (hi lo : Nat) : Nat := 2 ^ (hi + 1) - 2 ^ lo

/-- The payload bits that an action word may set beside its OP, or `none` for a reserved OP. -/
def payloadUse (k u op : Nat) : Option Nat :=
  match k with
  | 1 => if op ≤ 1 then some (bitRun 59 0)
         else if op ≤ 9 then some (2 ^ 57 + bitRun 30 26 + (if op = 3 ∨ op = 6 then bitRun 56 53 else 0)) else none
  | 2 => if op ≤ 1 then some (bitRun 59 31) else none
  | 3 => if op = 0 then some (bitRun 59 54) else if op = 1 then some (bitRun 59 42) else none
  | 4 => if op = 0 then some (bitRun 59 14) else if op = 1 then some (bitRun 59 56) else if op = 2 then some 0 else none
  | 5 => if op = 0 then some (bitRun 59 56) else none
  | 6 => if op = 0 then some (bitRun 59 56) else if op = 1 then some (bitRun 59 7) else if op = 2 then some (bitRun 58 31)
         else if op = 3 then some (bitRun 58 56) else none
  | 7 => if u = 0x25 then (if op ≤ 2 then some 0 else none) else if op = 0 then some 0 else if op = 1 then some (bitRun 59 54) else none
  | _ => if op = 0 then some (bitRun 59 56) else none

/-- 04 "Control kinds": a BRANCH, LOOP, WAIT, BARRIER, NOP or END word. -/
def controlOk (w : Nat) : Bool :=
  let p := swPayload w
  let k := swKind w
  let md := bits p 58 48
  let lo := bits p 47 37
  let hi := bits p 36 26
  bits w 117 115 == 0 && bits w 101 64 == 0 && (k == 0xB || k == 0xE || swSlot w == 0) &&
  match k with
  | 0 => p == 0
  | 0xF => p == 0
  | 0xB => bits p 51 0 == 0 && [bits p 63 58, bits p 57 52].all fun u => 1 ≤ u && u ≤ 0x26
  | 0xE => p % 2 == 0 && bits p 63 39 == 0
  | 0xD => 1 ≤ bits p 63 56 && 1 ≤ bits p 55 44 && bits p 30 0 == 0
  | _ => bits p 25 16 == 0 &&
    match bits p 63 60 with
    | 0 => md == 0 && lo == 0 && hi == 0
    | 1 => 1 ≤ md && md ≤ 1024
    | 2 => md == 0
    | 3 => md == 0
    | 4 => md == 0
    | 5 => md ≤ 255 && lo ≤ 63 && hi == 0
    | _ => false

/-- 04 Table 4-6: what can be judged of a word by itself. -/
def wordOk (w : Nat) : Bool :=
  let k := swKind w
  unitAccepts (swUnit w) k && bits w 78 77 == 0 &&
  if isAction k then
    match payloadUse k (swUnit w) (bits w 63 60) with
    | some m => bits w 59 0 ||| m == m
    | none => false
  else controlOk w

/-! ### Dispatches, kind by kind -/

def cLoop (c : List Sec) (l o : Nat) : Nat := u8 (cB c Ty.servo 0) (loopOff l + o)

/-- 10 R272: the OSR of a loop's sense channel, and the slot of its sample point `j`. -/
def cOsr (c : List Sec) (l : Nat) : Nat := u8 (cB c Ty.servo 0) (0x41 + 8 * cLoop c l 1)
def samplePt (c : List Sec) (l j : Nat) : Nat := j * cNslot c / 2 ^ cLoop c l 3

def cDramPrank (c : List Sec) (d : Disp) : Nat :=
  if dwOp d.payload < 2 then dmHome (cDram c) (dwRank d.payload) else (d.unit - 1) * 2 + dwRank d.payload % 2

/-- 06 R162, R165. -/
def dramDispOk (c : List Sec) (d : Disp) : Bool :=
  let p := d.payload
  let op := dwOp p
  let n := dwCount p
  let b := cDram c
  d.res == d.unit && 1 ≤ d.span && !d.feedx && 1 ≤ n && n ≤ (if op ≤ 3 ∨ op = 5 ∨ op = 6 then 28 else 1) &&
  if op < 2 then
    let q := dwQ p d.reps
    decide (dwRank p < dmNlr b) && dmHome b (dwRank p) / 2 + 1 == d.unit && bits p 35 31 ≤ 27 && decide (q % 28 + n ≤ 28) && decide (q / 28 < dmRows b) &&
      issuesReq (dwPort p) && dwPort p != 16 && dwPort p != 17
  else (cPop c).contains (cDramPrank c d)

/-- Whether a word of set `i` consumes what engine `e` fetches: a PUSH word of the engine's port or of one in clone mode, a RASTER or a VECTOR
word (09 R246, R252; 08 R226, R230). -/
def fetchUsed (c : List Sec) (i e : Nat) : Bool :=
  (slotWords (cB c Ty.sched i)).any fun w =>
    (swKind w == 3 && bits w 63 60 == 0 && bits w 59 58 == e) || (swKind w == 4 && swUnit w == 13 + e && bits w 63 60 != 0)

/-- 09 R244; FEEDX by 04 Table 4-6. -/
def fetchDispOk (c : List Sec) (i : Nat) (d : Disp) : Bool :=
  let p := d.payload
  let op := bits p 63 60
  let e := d.unit - 5
  d.res == 0 && d.feedx == fetchUsed c i e && (if op = 0 then cIsArray c e else cIsScanner c e && bits p 53 48 == 0) &&
  (if bitAt p 47 then op == 1 && 1 ≤ bits p 46 31 else bits p 46 31 == 0) && bits p 30 0 == 0

/-- 09 R250, without what it says over several words. -/
def planeDispOk (c : List Sec) (d : Disp) : Bool :=
  let p := d.payload
  let e := d.unit - 9
  let b := cEngine c e
  let a := bits p 59 54
  let z := bits p 53 48
  let n := bits p 47 42
  let src := bits p 59 58
  d.res == 0 && !d.feedx && cIsArray c e &&
  if bits p 63 60 = 0 then
    1 ≤ bits p 57 54 &&
      (src == e || (cIsArray c src && [8, 0xA].all (fun o => u16 b o == u16 (cEngine c src) o) && u8 b 0xE == u8 (cEngine c src) 0xE &&
        (b.drop 0xC0).take 256 == ((cEngine c src).drop 0xC0).take 256))
  else n ≤ 32 && a + n ≤ u8 b 0xE && z + n ≤ u8 b 0xE && !overlap a n z n &&
    (List.range n).all fun i => u32 b (0xC0 + 4 * (a + i)) == u32 b (0xC0 + 4 * (z + i))

/-- 08 R217, R219, without its conditions on cycles. -/
def lightDispOk (c : List Sec) (d : Disp) : Bool :=
  let p := d.payload
  let op := bits p 63 60
  let e := d.unit - 13
  let b := cEngine c e
  let ch := u8 b (0x40 + 8 * bits p 59 56)
  let pl := bits p 55 50
  let toff := bits p 49 36
  let len := bits p 35 15
  d.res == 0 && !d.feedx &&
  if op = 0 then
    cIsArray c e && bitAt (u8 b 1) ch && decide (pl < u8 b 0xE) && u8 b (0xC0 + 4 * pl) ≥ 128 && decide (u16 b 0xC ≤ toff) && 1 ≤ len &&
      decide (256 * d.slot + toff + len ≤ 256 * d.finish)
  else cIsScanner c e && (op == 2 || (bitAt (u8 b 1) ch && u8 b (2 + ch) != 4))

/-- 10 R273. -/
def servoDispOk (c : List Sec) (d : Disp) : Bool :=
  let l := d.unit - 17
  let j := bits d.payload 59 56
  d.res == 0 && !d.feedx && cLoopOn c l && decide (j < 2 ^ cLoop c l 3) &&
  decide (samplePt c l j + 2 * 2 ^ cOsr c l ≤ d.slot) && decide (d.finish ≤ samplePt c l (j + 1))

def cCtx16 (c : List Sec) (k o : Nat) : Nat := u16 (cB c Ty.loupe 0) (ctxOff k + o)
def cCtx8 (c : List Sec) (k o : Nat) : Nat := u8 (cB c Ty.loupe 0) (ctxOff k + o)

/-- The contexts whose stripes a PROCESS word can take. -/
def processCtx (c : List Sec) (p : Nat) : List Nat :=
  if bitAt p 59 then idxWhere 8 fun k => cCtxOn c k && cCtx8 c k 1 == bits p 56 56 else [bits p 58 56]

/-- 13 R343, R352, R360. -/
def cameraDispOk (c : List Sec) (d : Disp) : Bool :=
  let p := d.payload
  let k := bits p 58 56
  let span := d.finish - d.slot
  let vw := cCtx16 c k 4 / 2 ^ cCtx8 c k 0x90
  let vh := cCtx16 c k 6 / 2 ^ cCtx8 c k 0x90
  d.res == 0 && !d.feedx &&
  match bits p 63 60 with
  | 0 => d.unit == 0x21 && (if bitAt p 59 then bits p 58 57 == 0 && !(processCtx c p).isEmpty else cCtxOn c k) &&
    (processCtx c p).all fun j => cdiv (2048 + 64 * (cdiv (cCtx16 c j 4) 2 + 16)) 256 ≤ span
  | 1 => d.unit == 0x22 &&
    (if bitAt p 59 then 1 ≤ bits p 36 22 && bits p 36 22 ≤ 32767 && cCtxOn c k && cCtx8 c k 1 == 0 else k == 0 && bits p 36 22 == 0) &&
    (if bitAt p 55 then 1 ≤ bits p 21 7 && bits p 21 7 ≤ 32767 && cCtxOn c (bits p 54 52) && cCtx8 c (bits p 54 52) 1 == 1
     else bits p 54 52 == 0 && bits p 21 7 == 0)
  | 2 => d.unit == 0x22 && cCtxOn c k && bitAt (cCtx8 c k 9) 1 && 1 ≤ bits p 43 31 && bits p 43 31 ≤ 4096
  | _ => d.unit == 0x22 && cCtxOn c k && bitAt (cCtx8 c k 9) 0 &&
    decide (cdiv (vw * vh) 4 + cdiv (cdiv vw 8 * cdiv vh 8) 2 + 64 ≤ 256 * span)

/-- 15 R398, 16 R419. -/
def linkDispOk (d : Disp) : Bool :=
  !d.feedx && if d.unit = 0x25 then d.res == 7 else d.res == d.unit - 0x1E && (bits d.payload 63 60 == 0 || 3 ≤ d.span)

/-- 12 R330. -/
def calDispOk (d : Disp) : Bool := d.res == 0 && !d.feedx && decide (d.slot + 32 ≤ d.finish)

/-- 04 Table 4-6 and the payload chapters, for one dispatch. -/
def dispOk (c : List Sec) (i : Nat) (d : Disp) : Bool :=
  let n := cNslot c
  decide (d.slot < n) && (d.deadline == 0 || (decide (d.slot < d.deadline) && decide (d.deadline ≤ n))) && decide (d.slot < d.finish) &&
  decide (d.finish ≤ n) && (d.span == 0) == (d.res == 0) && decide (d.slot + d.span ≤ d.finish) &&
  match d.kind with
  | 1 => dramDispOk c d
  | 2 => fetchDispOk c i d
  | 3 => planeDispOk c d
  | 4 => lightDispOk c d
  | 5 => servoDispOk c d
  | 6 => cameraDispOk c d
  | 7 => linkDispOk d
  | _ => calDispOk d

/-! ### Paths, condition by condition -/

/-- 04 Table 4-6: a unit's FINISH is no later than its next SLOT. -/
def finishOk : List Disp → Bool
  | [] => true
  | d :: r => (match r.find? fun x => x.unit == d.unit with | some x => decide (d.finish ≤ x.slot) | none => true) && finishOk r

/-- 04 Table 4-6: SLOT never decreases, and no more than 64 dispatches share one. -/
def slotsOk (last n : Nat) : List Disp → Bool
  | [] => true
  | d :: r => decide (last ≤ d.slot) && (let m := if d.slot = last then n + 1 else 1; decide (m ≤ 64) && slotsOk d.slot m r)

/-- 08 R219: the strobe of a FIELD word is no earlier than the light end of the engine's FIELD word before it. -/
def strobesOk (c : List Sec) (ds : List Disp) : Bool :=
  (List.range 4).all fun e =>
    let l := (ds.filter fun d => d.kind == 4 && d.unit == 13 + e && bits d.payload 63 60 == 0).map fun d =>
      let s := 256 * d.slot + bits d.payload 49 36
      (s - u16 (cEngine c e) 0xC, s + bits d.payload 35 15)
    (l.zip (l.drop 1)).all fun (a, b) => decide (a.2 ≤ b.1)

/-- 13 R359: no METRIC or PRESENCE window meets that of a PROCESS word that can take the context's stripes. -/
def visionOk (c : List Sec) (ds : List Disp) : Bool :=
  let pr := ds.filter fun d => d.kind == 6 && bits d.payload 63 60 == 0
  (ds.filter fun d => d.kind == 6 && 2 ≤ bits d.payload 63 60).all fun d => pr.all fun x =>
    !((processCtx c x.payload).contains (bits d.payload 58 56) && overlap d.slot (d.finish - d.slot) x.slot (x.finish - x.slot))

/-- 09 R250: at most one COMMIT word of an engine in a tick, and a PUSH in clone mode has the slots of one of its source's. -/
def portsOk (ds : List Disp) : Bool :=
  let pl := ds.filter fun d => d.kind == 3
  (List.range 4).all (fun e => decide ((pl.filter fun d => d.unit == 9 + e && bits d.payload 63 60 == 1).length ≤ 1)) &&
  (pl.filter fun d => bits d.payload 63 60 == 0).all fun d =>
    pl.any fun x => x.unit == 9 + bits d.payload 59 58 && bits x.payload 63 60 == 0 && x.slot == d.slot && x.finish == d.finish

/-- 10 R273: every active loop has exactly one COMPUTE word for each sample. -/
def computesOk (c : List Sec) (active : List Nat) (ds : List Disp) : Bool :=
  active.all fun l => (List.range (2 ^ cLoop c l 3)).all fun j =>
    (ds.filter fun d => d.kind == 5 && d.unit == 17 + l && bits d.payload 59 56 == j).length == 1

/-- 16 R419: with a TWIN section, the last BUNDLE word starts after the ready cycle of every sample of the tick. -/
def bundleOk (c : List Sec) (active : List Nat) (ds : List Disp) : Bool :=
  !cHas c Ty.twin 0 ||
  match (ds.filter fun d => d.unit == 0x25 && bits d.payload 63 60 == 1).getLast? with
  | none => false
  | some d => active.all fun l => (List.range (2 ^ cLoop c l 3)).all fun j =>
      decide (256 * samplePt c l j + 512 * 2 ^ cOsr c l < 256 * d.slot)

/-- The loops of a set: those its words name. -/
def setLoops (c : List Sec) (i : Nat) : List Nat := idxWhere 16 fun l => (slotWords (cB c Ty.sched i)).any fun w => swKind w == 5 && swUnit w == 17 + l

/-- 03 step 29 for one path: Table 4-6 and the conditions of the payload chapters. -/
def pathFits (c : List Sec) (i : Nat) (p : Path) : Bool :=
  let ds := p.disps
  let act := setLoops c i
  p.good && p.vis.all (fun v => wordOk v.word && (!(swKind v.word == 0xB || swKind v.word == 0xE) || decide (swSlot v.word + v.shift < cNslot c))) &&
  ds.all (dispOk c i) && finishOk ds && slotsOk 0 0 ds && strobesOk c ds && visionOk c ds && portsOk ds && computesOk c act ds &&
  bundleOk c act ds

/-- The payloads of an engine's words of a kind and OP over every set, FETCH words of either OP together. -/
def engineWords (c : List Sec) (i kind unit op : Nat) : List Nat :=
  ((slotWords (cB c Ty.sched i)).filter fun w => swKind w == kind && swUnit w == unit && (op == 16 || bits w 63 60 == op)).map swPayload

/-- 09 R244, R250: what every FETCH, PUSH and COMMIT word of an engine must share, for the words of set `i`. -/
def sharedOk (c : List Sec) (i : Nat) : Bool :=
  (List.range 4).all fun e =>
    let same (kind unit op hi lo : Nat) : Bool :=
      match ([0, 1, 2, 3].flatMap fun j => engineWords c j kind unit op).head? with
      | none => true
      | some p => (engineWords c i kind unit op).all fun q => bits q hi lo == bits p hi lo
    same 2 (5 + e) 16 59 48 && same 3 (9 + e) 0 59 54 && same 3 (9 + e) 1 59 42 &&
    (engineWords c i 3 (9 + e) 0).all fun p =>
      bits p 59 58 == e || ([0, 1, 2, 3].flatMap fun j => engineWords c j 2 (5 + bits p 59 58) 0) != []

/-! ### Steps 19 to 24 over paths -/

/-- 02 R45, R47, 08 R219, 13 R344: no light inside the dark window, and every exposure inside the inner window. -/
def darkOk (c : List Sec) (ds : List Disp) : Bool :=
  let t := cB c Ty.tick 0
  let lo := 256 * u16 t 8
  let hi := 256 * (u16 t 8 + u16 t 10)
  let out (a b : Nat) : Bool := decide (b ≤ lo) || decide (hi ≤ a)
  ds.all fun d =>
    let p := d.payload
    let op := bits p 63 60
    if d.kind = 4 then
      (if op = 0 then let s := 256 * d.slot + bits p 49 36; out s (s + bits p 35 15) else out (256 * d.slot) (256 * d.finish))
    else if d.kind = 6 ∧ op = 1 then
      let s := 256 * d.slot + bits p 51 37
      let ok (v : Bool) (n : Nat) : Bool := !v || (decide (lo + 256 ≤ s) && decide (s + n + 256 ≤ hi) && decide (s + n ≤ 256 * d.finish))
      ok (bitAt p 59) (bits p 36 22) && ok (bitAt p 55) (bits p 21 7)
    else true

/-- The slots that fixed words hold of a resource, as a mask, and whether two of them meet. -/
def heldSlots (r : Nat) (ds : List Disp) : Nat × Bool :=
  ds.foldl (fun a d => if d.res = r then
    let m := (2 ^ d.span - 1) * 2 ^ d.slot
    (a.1 ||| m, a.2 || (a.1 &&& m) != 0) else a) (0, false)

def countBits (n m : Nat) : Nat := ((List.range n).filter (bitAt m)).length

/-- 02 R50: whether enough slots are left elastic beside the held ones. -/
def shareOk (c : List Sec) (m : Nat) : Bool := let n := cNslot c; decide (cdiv n 16 ≤ n - countBits n m)

/-- DRAM words of an operation among dispatches, by physical rank. -/
def dramOps (c : List Sec) (ops : List Nat) (ds : List Disp) : List (Disp × Nat) :=
  (ds.filter fun d => d.kind == 1 && ops.contains (dwOp d.payload)).map fun d => (d, cDramPrank c d)

def mr4Ok (c : List Sec) (ds : List Disp) : Bool := (cPop c).all fun p => (dramOps c [4] ds).any fun x => x.2 == p

/-- 06 R177: tREFI in picoseconds, the smaller of the two set points. -/
def trefiPs (c : List Sec) : Nat :=
  let f (i : Nat) := let b := cB c Ty.dramtim i; timPar b 29 * timTck b
  min (f 0) (f 1)

/-- 06 R177: U_tick. -/
def uTick (c : List Sec) : Nat := cdiv (10 ^ 12) (u16 (cB c Ty.tick 0) 0 * trefiPs c)

def cRefMult (c : List Sec) (i : Nat) : Nat := u8 (cB c Ty.tick 0) (12 + i)

/-- 06 R177: the ranks that a set keeps in self-refresh. -/
def keptRanks (c : List Sec) (ps : List Path) : List Nat :=
  let first := ps.filter fun p => p.env.fsp != 2 && (entryAges c).contains p.env.age
  (cPop c).filter fun r =>
    ps.all (fun p => !(dramOps c [0, 1, 2, 3, 5, 6, 9] p.disps).any fun x => x.2 == r) &&
    first.all fun p => (dramOps c [8] p.disps).any fun x => x.2 == r

/-- 06 R177: refresh units of a rank on a path, in eighths. -/
def refUnits (c : List Sec) (r : Nat) (ds : List Disp) : Nat :=
  (dramOps c [2, 3] ds).foldl (fun a x =>
    if x.2 = r then a + (if dwOp x.1.payload = 2 then 8 else 1) * dwCount x.1.payload else a) 0

/-- 06 R165: the words of channel `ch` on a path with their commands at their planned cycles, in set point `f`, after the commands `h`; the tick
starts at cycle `t0`. -/
def dramPlan (c : List Sec) (tim : Bytes) (t0 : Nat) (prev : Option Disp) (h : List DCmd) : List Disp → List (Disp × DCmd)
  | [] => []
  | d :: r =>
    let isAcc : Bool := decide (dwOp d.payload < 2)
    let l := placeCmds tim h (t0 + 256 * d.slot) (cmdsOf (cDramPrank c d % 2) d prev (r.find? fun x => dwOp x.payload < 2))
    l.map (fun x => (d, x)) ++ dramPlan c tim t0 (if isAcc then some d else prev) (l.foldl histAdd h) r

/-- The words of channel `ch` of a tick that starts at `t0`, after the commands `h`. -/
def pathPlanFrom (c : List Sec) (f ch t0 : Nat) (h : List DCmd) (ds : List Disp) : List (Disp × DCmd) :=
  dramPlan c (cB c Ty.dramtim f) t0 none h (ds.filter fun d => d.kind == 1 && d.unit == 1 + ch)

def pathPlan (c : List Sec) (f ch : Nat) (ds : List Disp) : List (Disp × DCmd) := pathPlanFrom c f ch 0 [] ds

/-- The cycles at which bank pair `pr` of rank `r` is refreshed. -/
def refTimes (r pr : Nat) (plan : List (Disp × DCmd)) : List Nat :=
  (plan.filter fun x => x.2.rank == r % 2 && (x.2.kind == DK.refab || (x.2.kind == DK.refpb && x.2.bank % 8 == pr))).map (·.2.at_)

/-- 06 R177: whether a gap of `n` cycles is within 9 × tREFI / REFMULT. -/
def gapOk (c : List Sec) (i n : Nat) : Bool := decide (n * 1000 * cRefMult c i ≤ 9 * trefiPs c)

/-- The longest tick, in cycles (02 R39). -/
def longestTick (c : List Sec) : Nat := cdiv 1001000000 (u16 (cB c Ty.tick 0) 0)

/-- What a path leaves before its first and after its last refresh of each rank and bank pair: rank, pair, head and tail; a rank kept in
self-refresh gives its SRE word as head. The second part says that no gap within the path is too long. -/
def pathGaps (c : List Sec) (i : Nat) (kept : List Nat) (p : Path) : List (Nat × Nat × Nat × Option Nat) × Bool :=
  let ds := p.disps
  let per := (cPop c).flatMap fun r =>
    let plan := pathPlan c p.env.fsp (r / 2) ds
    (List.range 8).map fun pr =>
      if kept.contains r then
        let sre := (plan.filter fun x => x.2.kind == DK.sre && x.2.rank == r % 2).head?.map (·.2.at_)
        ((r, pr, sre.getD 0, none), true)
      else
        let t := refTimes r pr plan
        match t.head?, t.getLast? with
        | some a, some z => ((r, pr, a, some (longestTick c - z)), (t.zip (t.drop 1)).all fun (x, y) => gapOk c i (y - x))
        | _, _ => ((r, pr, 0, some 0), false)
  (per.map (·.1), per.all (·.2))

/-- 06 R177: the refresh of a set's paths, but for gaps across a boundary. -/
def refreshOk (c : List Sec) (i : Nat) (ps : List Path) : Bool :=
  let kept := keptRanks c ps
  (ps.filter fun p => p.good && p.env.fsp != 2).all fun p =>
    (cPop c).all (fun r => kept.contains r || decide (8 * cRefMult c i * uTick c ≤ refUnits c r p.disps)) && (pathGaps c i kept p).2

/-- The largest head and tail of each rank and bank pair over a set's paths. -/
def setEdges (c : List Sec) (i : Nat) (ps : List Path) : List ((Nat × Nat) × Nat × Option Nat) :=
  let kept := keptRanks c ps
  let all := (ps.filter fun p => p.good && p.env.fsp != 2).flatMap fun p => (pathGaps c i kept p).1
  (cPop c).flatMap fun r => (List.range 8).map fun pr =>
    let mine := all.filter fun x => x.1 == r && x.2.1 == pr
    ((r, pr), mine.foldl (fun a x => max a x.2.2.1) 0,
      mine.foldl (fun (a : Option Nat) x => match x.2.2.2 with | some t => some (max t (a.getD 0)) | none => a) none)

/-- 06 R177: the gaps across the boundary from set `i` to any set. -/
def edgesOk (c : List Sec) (edges : List (Nat × List ((Nat × Nat) × Nat × Option Nat))) (i : Nat) : Bool :=
  edges.all fun a => a.1 != i || a.2.all fun x => match x.2.2 with
    | none => true
    | some t => edges.all fun b => b.2.all fun y => y.1 != x.1 || gapOk c i (t + y.2.1)

/-- 02 Table 2-2: the paths of the Safe set at FSP0 and FSP1 that differ in nothing but FSPSTATE are told apart. -/
def fspApart (ps : List Path) : Bool :=
  (ps.filter fun p => p.env.fsp == 0).all fun p => ps.all fun q => !(q.env == { p.env with fsp := 1 }) || p.vis != q.vis

/-- 02 Table 2-2: the Safe set emits nothing, and with a DRAMMAP it carries a DRAM command stream for FSP0 and one for FSP1, told apart by COND 4,
each with its MR4 reads. Its refresh is step 24's. -/
def safeSetOk (c : List Sec) (ps : List Path) : Bool :=
  cHas c Ty.sched 3 && ps.all (fun p => p.disps.all fun d => d.kind != 4) &&
  (!cHas c Ty.drammap 0 ||
    ([0, 1].all (fun f => ps.any fun p => p.env.fsp == f && p.disps.any fun d => d.kind == 1) && fspApart ps &&
      (ps.filter fun p => p.env.fsp != 2).all fun p => mr4Ok c p.disps))

/-! ### Sparing cover (07 R197) -/

def insCmd (x : DCmd) : List DCmd → List DCmd
  | [] => [x]
  | y :: r => if x.at_ < y.at_ then y :: insCmd x r else x :: y :: r

/-- Commands in rising order of cycle. -/
def sortCmds (l : List DCmd) : List DCmd := (l.foldl (fun a x => insCmd x a) []).reverse

/-- Whether every command of a stream is legal at its cycle after those before it. -/
def streamLegal (tim : Bytes) (h : List DCmd) : List DCmd → Bool
  | [] => true
  | x :: r => (brokenAt tim h x.at_ x.kind x.rank x.bank).isNone && h.all (fun y => y.at_ < x.at_) && streamLegal tim (histAdd h x) r

/-- The shortest tick, in cycles (02 R40). -/
def shortestTick (c : List Sec) : Nat := 999000000 / u16 (cB c Ty.tick 0) 0

/-- The stream of channel `ch` over a tick walked along `q` and then one walked along `p`, as far apart as the ticks are at the least. -/
def twoTicks (c : List Sec) (ch : Nat) (q p : Path) : List (Disp × DCmd) :=
  let a := pathPlan c p.env.fsp ch q.disps
  a ++ pathPlanFrom c p.env.fsp ch (shortestTick c) (a.foldl (fun h x => histAdd h x.2) []) p.disps

/-- Whether a word accesses logical rank `lr`. -/
def accesses (lr : Nat) (d : Disp) : Bool := d.kind == 1 && decide (dwOp d.payload < 2) && dwRank d.payload == lr

/-- 07 R197: the commands of LR's words, on the spare, are legal beside the spare channel's own stream, after a tick along `q` at the same set
point. -/
def spareLegal (c : List Sec) (lr : Nat) (q p : Path) : Bool :=
  let sp := dmSpare (cDram c)
  let own := ((twoTicks c (sp / 2) q p).filter fun x => !accesses lr x.1).map (·.2)
  let moved := ((twoTicks c (dmHome (cDram c) lr / 2) q p).filter fun x => accesses lr x.1).map fun x => { x.2 with rank := sp % 2 }
  streamLegal (cB c Ty.dramtim p.env.fsp) [] (sortCmds (own ++ moved))

/-- 07 R197: the slots of LR's words on one path. -/
def spareSlots (c : List Sec) (lr : Nat) (p : Path) : Bool :=
  let sc := dmSpare (cDram c) / 2
  let held := (heldSlots (1 + sc) p.disps).1
  let spans := (p.disps.filter (accesses lr)).foldl (fun a d => a ||| (2 ^ d.span - 1) * 2 ^ d.slot) 0
  (dmHome (cDram c) lr / 2 == sc || held &&& spans == 0) && shareOk c (held ||| spans)

/-- 07 R197: logical rank `lr` is covered along every path, whichever was walked before it. -/
def covered (c : List Sec) (ps : List Path) (lr : Nat) : Bool :=
  ps.all fun p => spareSlots c lr p && (p.env.fsp == 2 || ps.all fun q => q.env.fsp != p.env.fsp || spareLegal c lr q p)

/-- DMC_SPARING.COVER. -/
def coverOf (c : List Sec) : Nat :=
  if dmSpareV (cDram c) then maskOf (idxWhere (dmNlr (cDram c)) (covered c ((cPaths c).flatMap (·.2)))) else 0

end Sys2Proof.Machine
end

