-- ==== Sys2Proof/Machine/Loader.lean ====
section
/-! DEFINITION. The loader: the container and its checks (03 R70 to R83), boot sources (R84 to R87), the apply of a base image (R88), and
hot images (R89 to R94). -/

namespace Sys2Proof.Machine

/-! ### The container (03 Tables 3-1 to 3-3) -/

def ihMagic (b : Bytes) : Nat := u32 b 0
def ihMajor (b : Bytes) : Nat := u16 b 4
def ihMinor (b : Bytes) : Nat := u16 b 6
def ihKind (b : Bytes) : Nat := u8 b 8
def ihKeyslot (b : Bytes) : Nat := u8 b 9
def ihSecver (b : Bytes) : Nat := u16 b 0xA
def ihPart (b : Bytes) : Nat := u32 b 0xC
def ihMinRev (b : Bytes) : Nat := u8 b 0x10
def ihBody (b : Bytes) : Nat := u32 b 0x14
def ihSectOff (b : Bytes) : Nat := u32 b 0x18
def ihCount (b : Bytes) : Nat := u32 b 0x1C
def ihSeq (b : Bytes) : Nat := u32 b 0x20
def ihBase (b : Bytes) : Bytes := (b.drop 0x30).take 32

def partId : Nat := 0x4E462460
/-- 00 R1: the IDCODE of revision B0. -/
def idCode : Nat := 0x32460A5D

/-- A section entry. -/
structure SEntry where
  type  : Nat
  inst  : Nat
  flags : Nat
  sver  : Nat
  off   : Nat
  len   : Nat
  crc   : Nat
  rsvd  : Bool
  deriving DecidableEq, Repr

def sectEntry (b : Bytes) (i : Nat) : SEntry :=
  let o := 128 + 32 * i
  { type := u16 b o, inst := u8 b (o + 2), flags := u8 b (o + 3), sver := u16 b (o + 4), off := u32 b (o + 8), len := u32 b (o + 12),
    crc := u32 b (o + 16), rsvd := !(zeroes b (o + 6) 2 && zeroes b (o + 20) 12) }

def sectTable (b : Bytes) : List SEntry := (List.range (ihCount b)).map (sectEntry b)

/-- 03 Table 3-4: the types of format 1, and the highest instance of each. -/
def knownType (t : Nat) : Bool := 1 ≤ t && t ≤ 18
def instMax (t : Nat) : Nat := if t = 5 then 3 else if t = 6 then 1 else if t = 8 then 3 else if t = 16 then 7 else 0

/-- 03 Table 3-4: the hot class of a section: 0 Z, 1 H, 2 G. -/
def hotClass (t i : Nat) : Nat :=
  if [4, 10, 11, 16, 17].contains t then 1 else if (t = 5 ∧ i ≠ 3) ∨ t = 9 ∨ t = 13 ∨ t = 15 then 2 else 0

def align64 (n : Nat) : Nat := (n + 63) / 64 * 64

/-- 03 R73: the first entry from place `i` on whose offset, length or order is wrong; `pos` is where its body should start. The second
part is where the last body ends. -/
def entryFault (blen : Nat) (i pos : Nat) (prev : Option (Nat × Nat)) : List SEntry → Option Nat × Nat
  | [] => (none, pos)
  | e :: r =>
    let ordered := match prev with | some p => decide (p.1 < e.type) || (p.1 == e.type && decide (p.2 < e.inst)) | none => true
    if !ordered ∨ e.off ≠ pos ∨ e.len = 0 ∨ blen < e.off + e.len then (some i, pos)
    else entryFault blen (i + 1) (align64 (e.off + e.len)) (some (e.type, e.inst)) r

/-- The first place of a list that satisfies `p`. -/
def firstAt {α : Type} (p : α → Bool) (l : List α) : Option Nat := (l.zipIdx.find? fun x => p x.1).map (·.2)

def noSect : Nat := 0xFF
def failIf (b : Bool) : Option Nat := if b then some noSect else none

/-- A check: its step and code in Table 3-6, and what it answers: the SECT of a rejection, or nothing. -/
structure Check where
  step : Nat
  code : Nat
  run  : Unit → Option Nat

/-- The first check that fails: step, code and SECT. -/
def firstFail : List Check → Option (Nat × Nat × Nat)
  | [] => none
  | c :: r => match c.run () with | some x => some (c.step, c.code, x) | none => firstFail r

/-- 03 Table 3-6 steps 1 to 7 on an image of which the source delivers `n` bytes. -/
def containerChecks (hot : Bool) (img : Bytes) (n : Nat) : List Check :=
  let cnt := ihCount img
  let blen := ihBody img
  let total := blen + 136
  let tab := sectTable img
  let ef := entryFault blen 0 (align64 (128 + 32 * cnt)) none tab
  [⟨1, 0x01, fun _ => failIf (ihMagic img != 0x4E464F4C)⟩,
   ⟨2, 0x02, fun _ => failIf (crc32 (img.take 0x7C) != u32 img 0x7C)⟩,
   ⟨3, 0x04, fun _ => failIf (ihMajor img != 1)⟩,
   ⟨4, 0x05, fun _ => failIf (ihPart img != partId || decide (0xB0 < ihMinRev img))⟩,
   ⟨5, 0x03, fun _ =>
      if ihSectOff img ≠ 128 ∨ cnt = 0 ∨ 64 < cnt ∨ blen % 64 ≠ 0 ∨ (if hot then 1048576 else 7340032) < total ∨ n < 128 + 32 * cnt
      then some noSect
      else match ef.1 with
        | some i => some i
        | none => failIf (blen != ef.2 || decide (n < total))⟩,
   ⟨6, 0x1E, fun _ =>
      if !zeroes img 0x11 3 ∨ !zeroes img 0x24 4 ∨ ihKind img ≠ b2n hot ∨ 1 < ihKeyslot img ∨ 64 < ihSecver img then some noSect
      else match firstAt (fun e => e.rsvd || decide (2 ≤ e.flags) || (knownType e.type && decide (instMax e.type < e.inst))) tab with
        | some i => some i
        | none => failIf (u32 img (blen + 4) != 0x4E465347)⟩,
   ⟨7, 0x09, fun _ => failIf (crc32 (img.take blen) != u32 img blen)⟩]

/-- 03 R76, R78: both key slots are blank and the latched BENCH_N is low. -/
def relaxedKey (s : State) : Bool := keySlot s 0 == 0 && keySlot s 1 == 0 && benchLow s

def keyOk (s : State) (img : Bytes) : Bool :=
  let blen := ihBody img
  let k := ihKeyslot img
  relaxedKey s || (keySlot s k == 1 && keyHash s k == sha256 (0x04#8 :: (img.drop (blen + 8)).take 64))

def signatureOk (img : Bytes) : Bool :=
  let blen := ihBody img
  let w (o : Nat) := beNat ((img.drop (blen + o)).take 32)
  p256KeyValid (w 8) (w 40) && p256Verify (w 8) (w 40) (w 72) (w 104) (sha256 (img.take (blen + 72)))

/-- The known sections of an image, with their places in its table. -/
def imageSecs (img : Bytes) : List (Nat × Sec) :=
  (sectTable img).zipIdx.filterMap fun (e, i) =>
    if knownType e.type then some (i, { type := e.type, inst := e.inst, body := (img.drop e.off).take e.len }) else none

/-- 03 Table 3-6 steps 8 to 14. -/
def sectionChecks (s : State) (hot : Bool) (img : Bytes) : List Check :=
  let tab := sectTable img
  [⟨8, 0x06, fun _ => failIf (!keyOk s img)⟩,
   ⟨9, 0x07, fun _ => failIf (!signatureOk img)⟩,
   ⟨10, 0x08, fun _ => failIf (decide (ihSecver img < minVer s))⟩,
   ⟨11, 0x0A, fun _ => firstAt (fun e => crc32 ((img.drop e.off).take e.len) != e.crc) tab⟩,
   ⟨12, 0x0B, fun _ => firstAt (fun e => !knownType e.type && e.flags % 2 == 0) tab⟩,
   ⟨13, 0x0E, fun _ => firstAt (fun e => knownType e.type && e.sver != 1) tab⟩,
   ⟨14, 0x0C, fun _ => failIf (!hot && sectionMissing ((imageSecs img).map (·.2)))⟩]

/-- 03 R83: the sections that stand once a hot image has applied: those in force, the pending G sections it does not supersede, and its
own. -/
def hotConfig (s : State) (mine : List Sec) : List Sec := mine.foldl putSec (s.fld.pendG.foldl putSec s.fld.secs)

/-- The sets that pending REGIME entries target. -/
def regimeTargets (s : State) : List Nat :=
  (s.tsq.mbox.filter fun e => lget e.w 0 0 / 2 ^ 24 == 1).map fun e => bits (lget e.w 0 0) 23 16

def setWords (b : Bytes) : Nat := (b.length - 64) / 16

/-- 03 R80: a SCHED body is a header of 64 bytes and 16 bytes for each slot word. -/
def schedForm (b : Bytes) : Bool := decide (64 ≤ b.length) && b.length == 64 + 16 * schedWords b

/-- 03 R80, R107: the slot words that must fit the store. -/
def storeWords (s : State) (hot : Bool) (mine : List Sec) : Nat :=
  let sum (l : List Sec) := (l.filter fun x => x.type == Ty.sched).foldl (fun a x => a + setWords x.body) 0
  sum mine + if hot then sum s.fld.secs + sum (s.fld.pendG.filter fun x => !cHas mine x.type x.inst) else 0

/-- The lowest place in an image's table of the sections at fault; 0xFF where it carries none of them. -/
def sectOf (mine : List (Nat × Sec)) (bad : List (Nat × Nat)) : Option Nat :=
  if bad.isEmpty then none
  else some (((mine.find? fun x => bad.contains (x.2.type, x.2.inst)).map (·.1)).getD noSect)

/-- 03 Table 3-6 steps 18 to 29, on the configuration `c` that would result. -/
def configChecks (s : State) (c : List Sec) (mine : List (Nat × Sec)) : List Check :=
  let t := cB c Ty.tick 0
  let rate := u16 t 0
  let ns := u16 t 4
  let ps := cPaths c
  let dram := cHas c Ty.drammap 0
  let one (ok : Bool) (ty : Nat) : List (Nat × Nat) := if ok then [] else [(ty, 0)]
  let sets (p : Nat → List Path → Bool) : List (Nat × Nat) := (ps.filter fun x => !p x.1 x.2).map fun x => (Ty.sched, x.1)
  let paths (p : List Disp → Bool) : List (Nat × Nat) := sets fun _ l => (l.filter (·.good)).all fun x => p x.disps
  let res := [1, 2, 3, 4, 5, 6, 7]
  let rm := [u8 t 12, u8 t 13, u8 t 14]
  [⟨18, 0x10, fun _ => sectOf mine (one (600 ≤ rate && rate ≤ 9600 && 1 ≤ ns && decide (ns * 256 + 2048 ≤ 999000000 / rate) &&
      8 ≤ u16 t 2 && u16 t 2 ≤ 1024 && ns % 2 ^ u8 t 6 == 0) Ty.tick)⟩,
   ⟨19, 0x11, fun _ => sectOf mine (one (8 ≤ u16 t 10 && decide (4 * u16 t 10 ≤ ns) && decide (u16 t 8 + u16 t 10 ≤ ns)) Ty.tick ++
      paths (darkOk c))⟩,
   ⟨20, 0x12, fun _ => sectOf mine (paths fun ds => res.all fun r => !(heldSlots r ds).2)⟩,
   ⟨21, 0x13, fun _ => sectOf mine (paths fun ds => res.all fun r => shareOk c (heldSlots r ds).1)⟩,
   ⟨22, 0x14, fun _ => sectOf mine (sets fun i l => i != 3 || safeSetOk c (l.filter (·.good)))⟩,
   ⟨23, 0x15, fun _ => sectOf mine (if dram then sets fun _ l => (l.filter fun x => x.good && x.env.fsp != 2).all fun x => mr4Ok c x.disps
      else [])⟩,
   ⟨24, 0x16, fun _ => sectOf mine (one (rm.all (fun m => m == 1 || m == 2 || m == 4) && u8 t 15 == 2 * rm.foldl max 0) Ty.tick ++
      if dram then
        let edges := ps.map fun x => (x.1, setEdges c x.1 x.2)
        sets fun i l => refreshOk c i l && edgesOk c edges i
      else [])⟩,
   ⟨25, 0x17, fun _ => sectOf mine (((List.range 4).filter fun e => cIsArray c e && (List.range 4).any fun k => u8 (cEngine c e) (2 + k) == 4).map
        (fun e => (Ty.engine, e)) ++ one (safetyRoles c) Ty.safety)⟩,
   ⟨26, 0x18, fun _ => sectOf mine (one (safetyCeil s c) Ty.safety)⟩,
   ⟨27, 0x1A, fun _ => sectOf mine (one (pinmapOk (cB c Ty.pinmap 0)) Ty.pinmap)⟩,
   ⟨28, 0x1B, fun _ => sectOf mine (one (domainsOk c) Ty.domains)⟩,
   ⟨29, 0x1E, fun _ => sectOf mine ((c.filter fun x => !sectionFits c x).map (fun x => (x.type, x.inst)) ++
      sets fun i l => sharedOk c i && l.all (pathFits c i))⟩]

/-- 03 Table 3-6 steps 15 to 29. -/
def resultChecks (s : State) (hot : Bool) (img : Bytes) : List Check :=
  let mine := imageSecs img
  let secs := mine.map (·.2)
  let c := if hot then hotConfig s secs else secs
  [⟨15, 0x1C, fun _ => failIf (hot && ihBase img != s.fld.cfgHash)⟩,
   ⟨16, 0x1D, fun _ => if hot then (mine.find? fun x => hotClass x.2.type x.2.inst == 0 ||
      (x.2.type == Ty.sched && (regimeTargets s).contains x.2.inst)).map (·.1) else none⟩,
   ⟨17, 0x19, fun _ => failIf (decide (65536 < storeWords s hot secs) || secs.any fun x => x.type == Ty.sched && !schedForm x.body)⟩] ++
    configChecks s c mine

/-- The image that stands in the bytes a source delivered; bytes that did not arrive read 0. -/
def imageIn (data : Bytes) : Bytes :=
  let head := padTo (128 + 32 * 64) data
  let total := ihBody head + 136
  if total ≤ 7340032 then padTo (max total head.length) data else head

/-- 03 R83 steps 1 to 7, which run while the bytes arrive: the step, code and SECT of a rejection, or none. -/
def containerFail (hot : Bool) (data : Bytes) : Option (Nat × Nat × Nat) := firstFail (containerChecks hot (imageIn data) data.length)

/-- 03 R83 steps 8 and 9: the key and the signature. -/
def verifyFail (s : State) (hot : Bool) (data : Bytes) : Option (Nat × Nat × Nat) := firstFail ((sectionChecks s hot (imageIn data)).take 2)

/-- 03 R83 steps 10 to 29. -/
def checkFail (s : State) (hot : Bool) (data : Bytes) : Option (Nat × Nat × Nat) :=
  firstFail ((sectionChecks s hot (imageIn data)).drop 2 ++ resultChecks s hot (imageIn data))

/-- 03 R83: what the whole check of an image finds. -/
def checkImage (s : State) (hot : Bool) (data : Bytes) : Option (Nat × Nat × Nat) :=
  (containerFail hot data).or ((verifyFail s hot data).or (checkFail s hot data))

/-- The bytes of an accepted image. -/
def imageBytes (data : Bytes) : Bytes := data.take (ihBody data + 136)

/-! ### Boot sources (03 R84 to R87) -/

/-- 03 Table 3-7: the sources of BOOTSEL, coded as SRC. Flash is its two slots. -/
def bootSources (sel : Nat) : List Nat := match sel with | 0 => [0, 1] | 1 => [2] | 2 => [3] | _ => [0, 1, 2, 3]

/-- The source that is being tried, while it delivers. -/
def curSource (s : State) : Option Nat := if s.fld.st = 1 then s.fld.left.head? else none

/-- 16 Table 16-3, 15 Table 15-6: a boot frame over the link. -/
def twinBoot (idx type off : Nat) (dest : Bytes) (total : Nat) (data : Bytes) : TwinTx :=
  let n := if type = 2 then data.length else 0
  { type := 7, offset := off, seq := idx,
    payload := leBytes 1 type ++ leBytes 1 1 ++ leBytes 2 0 ++ padTo 8 dest ++ leBytes 4 off ++ leBytes 4 total ++ leBytes 2 n ++
      leBytes 2 0 ++ data }

/-- 03 R86: the chip asks its partner for the first image it has not whole. -/
def twinBootReq (s : State) : State :=
  if curSource s = some 2 ∧ s.twn.up then
    let i := (firstAt (fun x => x.total == 0 || decide (lowestMissing x.got < x.total)) s.fld.rx).getD s.fld.rx.length
    let x := lget s.fld.rx i {}
    linkPut s (twinBoot i 1 (lowestMissing x.got) (uid s) x.total (leBytes 4 partId ++ leBytes 4 0xB0))
  else s

/-- The header of the image at `addr` is read (03 R89, R96). -/
def imgRead (s : State) (hot : Bool) (addr : Nat) : State := unitRead s 2 0 addr 128 (.imgHead hot addr)

/-- What an image in memory has shown. -/
def imgBuffer (s : State) (hot : Bool) (d : Bytes) : State :=
  { s with fld := if hot then { s.fld with hotBuf := some d } else { s.fld with memBuf := some d } }

/-- The header has been read: the image is read whole, unless it is too long or leaves the memory it starts in. -/
def imgHeadDone (s : State) (d : Bytes) (hot : Bool) (addr : Nat) : State :=
  let total := ihBody d + 136
  if (if hot then 1048576 else 7340032) < total ∨ decodeFa s addr total = .none then imgBuffer s hot d
  else unitRead s 2 0 addr total (.imgBody hot)

/-- The image has been read. -/
def imgBodyDone (s : State) (d : Bytes) (hot : Bool) : State := imgBuffer s hot d

/-- Takes up the first source that is left; with none left the sequence waits (R87). -/
def tryNext (s : State) : State :=
  let s := xferDrop s fun j => match j with | .imgHead hot _ => !hot | .imgBody hot => !hot | _ => false
  let s := { s with fld := { s.fld with memBuf := none, load := none } }
  match s.fld.left with
  | [] => { s with fld := { s.fld with failedAt := some s.clk.aon }, chn := { s.chn with boot := false } }
  | x :: _ =>
    let s := { s with
      fld := { s.fld with st := 1, rx := if x = 2 then [] else s.fld.rx, rxCount := none, failedAt := none }
      boot := { s.boot with step := if s.boot.step < 7 then 7 else s.boot.step }
      chn := { s.chn with boot := x == 3, total := if x = 3 then none else s.chn.total, got := if x = 3 then [] else s.chn.got,
                          reqAt := if x = 3 then none else s.chn.reqAt } }
    let s := if x = 2 then [54, 55, 56, 11].foldl cmdUp s else if x = 3 then [50, 51, 52, 53, 11].foldl cmdUp s else s
    twinBootReq (if x = 4 then imgRead s false (rwGet s (Base.fld + 4) 0x10100000) else s)

/-- 03 R97, R399: the image of source `src` is rejected, or the source timed out. -/
def sourceFails (s : State) (src code sect : Nat) (drop : Nat) : State :=
  let s := { s with fld := { s.fld with st := 6, code := code, sect := sect, source := src, left := s.fld.left.drop drop } }
  tryNext (if src = 3 then { s with chn := { s.chn with doneDue := some code } } else s)

/-- 03 R84, R85: the sequence starts over. -/
def startSources (s : State) : State :=
  tryNext { s with fld := { s.fld with left := bootSources (s.boot.straps % 4), failedAt := none } }

/-- 03 R85: the flash slot that is tried first: the one with the higher SEQ among those whose header passes the first two checks, slot A
on a tie. -/
def firstSlot (flash : Bytes) : Nat :=
  let h (k : Nat) := padTo 128 ((flash.drop (k * 0x800000)).take 128)
  let ok (k : Nat) : Bool := ihMagic (h k) == 0x4E464F4C && crc32 ((h k).take 0x7C) == u32 (h k) 0x7C
  if ok 0 && ok 1 then (if ihSeq (h 0) < ihSeq (h 1) then 1 else 0) else if ok 1 then 1 else 0

/-! ### The apply of a base image (03 R88, R81, R82, R94, 09 R266, 18 R473) -/

/-- 06 R446: the DRAM domains of the populated channels. -/
def dramDoms (s : State) : List Nat :=
  let pop := idxWhere 8 (bitAt (dmRanks (dramB s)))
  if pop.isEmpty then [] else 3 :: ((pop.map (· / 2)).eraseDups.flatMap fun c => [20 + c, 24 + c])

/-- 04 R106, R107: the store base of each set, in the order 3, 0, 1, 2. -/
def storeBases (secs : List Sec) : List Nat :=
  let n (i : Nat) := schedWords (cB secs Ty.sched i)
  [n 3, n 3 + n 0, n 3 + n 0 + n 1, 0]

/-- FALLBACK goes to SRAM bank 0 (09 R266). -/
def fallbackCopy (s : State) : State := sramPut s 0 (secB s Ty.fallback 0)

/-- The effect of the sections of an accepted base image and of the hot images that came with it. -/
def applySections (s : State) : State :=
  let s := fallbackCopy s
  let s := tcmPut s 0 ((secB s Ty.firmware 0).drop 8)
  let s := pinmapApply s
  let s := fabricLoad s
  let s := drammapApply s
  let s := (List.range 2).foldl (fun s p => if portUsed s p then s else portDown s p) s
  let s := { s with
    dmc := { s.dmc with cover := coverOf s.fld.secs }
    pins := { s.pins with ins := List.replicate (nIn (inputsB s)) {}, front := [], evq := [] }
    tsq := { s.tsq with base := storeBases s.fld.secs } }
  domainsApply ((dramDoms s).foldl (fun s d => if domOn s d then s else cmdUp s d) s)

/-- The configuration of a base image, and of hot images on top of it: sections and hash (R94). -/
def foldHots (secs : List Sec) (hash : Bytes) (hots : List Bytes) : List Sec × Bytes :=
  hots.foldl (fun a h => (((imageSecs h).map (·.2)).foldl putSec a.1, sha256 (a.2 ++ h.take (ihBody h)))) (secs, hash)

/-- 03 R88: the apply of a base image begins. -/
def applyBase (s : State) (src : Nat) (img : Bytes) (hots : List Bytes) : State :=
  let body := sha256 (img.take (ihBody img))
  let c := foldHots ((imageSecs img).map (·.2)) body hots
  let f := { s.fld with
    st := 4, source := src, keyslot := ihKeyslot img, untrusted := relaxedKey s, applied := true, secs := c.1, cfgHash := c.2
    fmtMinor := ihMinor img, secver := ihSecver img, sectCount := ihCount img, seq := ihSeq img, bodyHash := body
    hotCnt := min 65535 hots.length, pendG := [], staged := none, image := img, hots := hots, left := [], failedAt := none, rx := [] }
  let s := { s with fld := f, boot := { s.boot with step := 9 }, chn := { s.chn with boot := false, doneDue := if src = 3 then some 0 else none } }
  safApply (applySections s)

/-- 03 R97, 18 R482: the apply ends once every domain it switches has settled. Training follows where there is DRAM, and otherwise the
next boundary is the apply point. -/
def applyCheck (s : State) : State :=
  if s.fld.st = 4 ∧ domainsDone s ∧ domsOn s (dramDoms s) then
    let s := { s with fld := { s.fld with st := 5 }, boot := { s.boot with step := 10 } }
    if (dramDoms s).isEmpty then { s with tsq := { s.tsq with applyNext := true } } else s
  else s

/-- 03 R86: the hot images that came with a base image pass their checks in turn. -/
def hotsOk (s : State) : List Bytes → Option (Nat × Nat)
  | [] => none
  | h :: r =>
    match checkImage s true h with
    | some f => some (f.2.1, f.2.2)
    | none =>
      let c := foldHots s.fld.secs s.fld.cfgHash [h]
      hotsOk { s with fld := { s.fld with secs := c.1, cfgHash := c.2 } } r

/-- The boot step reached (18 R482). -/
def bootReach (s : State) (n : Nat) : State := { s with boot := { s.boot with step := max s.boot.step n } }

/-- 03 R97: the last byte of source `src` is in: steps 1 to 7 have run while the bytes arrived, and step 8 begins. -/
def lastByte (s : State) (src : Nat) (data : Bytes) (hots : List Bytes) : State :=
  match containerFail false data with
  | some f => sourceFails s src f.2.1 f.2.2 1
  | none => bootReach { s with fld := { s.fld with st := 2, load := some { src := src, data := data, hots := hots } } } 8

/-- Steps 8 and 9 end. -/
def verifyEnd (s : State) (l : Load) : State :=
  match verifyFail s false l.data with
  | some f => sourceFails s l.src f.2.1 f.2.2 1
  | none => bootReach { s with fld := { s.fld with st := 3 } } 9

/-- The checks end: the image is rejected, or its apply begins. -/
def checkEnd (s : State) (l : Load) : State :=
  match checkFail s false l.data with
  | some f => sourceFails s l.src f.2.1 f.2.2 1
  | none =>
    let img := imageBytes l.data
    let base := { s with fld := { s.fld with secs := (imageSecs img).map (·.2), cfgHash := sha256 (img.take (ihBody img)), pendG := [] } }
    match hotsOk base l.hots with
    | some (code, sect) => sourceFails s l.src code sect 1
    | none => applyBase s l.src img l.hots

/-- 03 R86: what the twin has delivered: whether it is all there, and the images, each as far as it has come. A delivery is whole once the
partner has said how many images it has and every one of them is in. -/
def twinWhole (s : State) : Bool :=
  match s.fld.rxCount with
  | some n => decide (n ≤ s.fld.rx.length) && (s.fld.rx.take n).all fun x => x.total != 0 && decide (x.total ≤ lowestMissing x.got)
  | none => false

def twinImages (s : State) : List Bytes :=
  (List.range (max 1 (s.fld.rxCount.getD s.fld.rx.length))).map fun i =>
    let x := lget s.fld.rx i {}
    x.data.take (lowestMissing x.got)

/-- The source being tried has delivered what it will. `flash` is the flash as it reads from address 0; the other sources deliver into
memory or over the link. A twin that ends its delivery early leaves its last image cut short. -/
def sourceDelivered (s : State) (flash : Bytes) (ended : Bool) (src : Nat) : State :=
  match src with
  | 2 => if twinWhole s ∨ ended then lastByte s 2 ((twinImages s).headD []) ((twinImages s).drop 1) else s
  | 3 => if bootComplete s then lastByte s 3 (readRun (sramByte s) 0x100000 (s.chn.total.getD 0)) [] else s
  | 4 => match s.fld.memBuf with | some d => lastByte s 4 d [] | none => s
  | k =>
    let k := if s.fld.left.take 2 = [0, 1] then firstSlot flash else k
    let s := if s.fld.left.take 2 = [0, 1] then { s with fld := { s.fld with left := [k, 1 - k] ++ s.fld.left.drop 2 } } else s
    lastByte s k (padTo 0x800000 (flash.drop (k * 0x800000))) []

/-- BASE_IMAGE_RECEIVED (03 R83 to R88, R97): the next stage of the load ends: the delivery, the verification, the checks. Each may last any time
within its bound (00 R540), so each is a command of its own (assumption log entry 143, DESIGN CHOICE). -/
def imageReceived (s : State) (flash : Bytes) (ended : Bool) : State :=
  if s.fld.applied then s
  else match s.fld.load with
  | some l => if s.fld.st = 2 then verifyEnd s l else if s.fld.st = 3 then checkEnd s l else s
  | none => match curSource s with | some k => sourceDelivered s flash ended k | none => s

/-- BOOT_SOURCE_TIMEOUT (03 R84, Table 3-7): flash is both its slots. A START from memory has no timeout. -/
def sourceTimeout (s : State) : State :=
  match curSource s with
  | none => s
  | some 4 => s
  | some k =>
    let n := if k < 2 then (s.fld.left.takeWhile (· < 2)).length else 1
    sourceFails s k 0x1F noSect n

/-- BOOT_RETRY (03 R87): one second after the last failure. -/
def bootRetryNow (s : State) : State :=
  match s.fld.failedAt with
  | some t => if t + 1000000 ≤ s.clk.aon ∧ !s.fld.applied then startSources s else s
  | none => s

/-- FLD_CTL.START (03 R96). What it does while sources are being tried, or another load runs, the spec does not say: it takes the place of
what is left to try (assumption log entry 145, DESIGN CHOICE). -/
def fldStartNow (s : State) (src : Nat) : State :=
  if s.fld.applied ∨ 5 ≤ src then s else tryNext { s with fld := { s.fld with left := [src], failedAt := none } }

/-! ### Twin boot (03 R86, 16 R417) -/

/-- The images that this chip can give: its base image, then each hot image it has applied. -/
def bootImages (s : State) : List Bytes := if s.fld.applied then s.fld.image :: s.fld.hots else []

/-- The frames of one image from byte `off` on. -/
def bootFrames (idx : Nat) (dest : Bytes) (total : Nat) : Nat → Nat → Bytes → List TwinTx
  | 0, _, _ => []
  | f + 1, off, b =>
    if b.isEmpty then [] else twinBoot idx 2 off dest total (b.take 8192) :: bootFrames idx dest total f (off + 8192) (b.drop 8192)

/-- A BOOT frame: a request is answered with the images from the one it names on, and with a BOOTDONE that carries their number; data joins
the image it belongs to. -/
def bootIn (s : State) (f : TwinFrame) : State :=
  let p := f.payload
  let dest := (p.drop 4).take 8
  let off := u32 p 0xC
  let total := u32 p 0x10
  let n := u16 p 0x14
  if !f.good then s
  else match u8 p 0 with
  | 1 =>
    let imgs := bootImages s
    let l := (imgs.zipIdx.drop f.seq).flatMap fun (b, i) =>
      let o := if i = f.seq then off else 0
      bootFrames i dest b.length (b.length / 8192 + 1) o (b.drop o)
    if imgs.isEmpty then s else (l ++ [twinBoot imgs.length 3 0 dest 0 []]).foldl (fun s t => linkSubmit s t 0) s
  | 2 =>
    let x := lget s.fld.rx f.seq {}
    if curSource s ≠ some 2 ∨ dest ≠ uid s ∨ s.fld.rx.length < f.seq ∨ 7340032 < total ∨ (x.total ≠ 0 ∧ x.total ≠ total) ∨ n = 0 ∨ 8192 < n ∨
        total < off + n then s
    else
      let d := (p.drop 0x18).take n
      let was := padTo total x.data
      let y : RxImg := { total := total, got := rangeAdd off (off + n) x.got, data := was.take off ++ d ++ was.drop (off + n) }
      { s with fld := { s.fld with rx := s.fld.rx.take f.seq ++ [y] ++ s.fld.rx.drop (f.seq + 1) } }
  | 3 => if curSource s = some 2 ∧ dest = uid s then { s with fld := { s.fld with rxCount := some f.seq } } else s
  | _ => s

/-! ### Hot images (03 R89 to R94) -/

/-- 03 R92: the staged image is LOCKED while a HOTAPPLY is on its way. -/
def hotLocked (s : State) : Bool := s.fld.staged.isSome && s.fld.applyPend != 0

/-- 03 R96: FLD_HOTSTAT.STATE. -/
def hotState (s : State) : Nat :=
  if hotLocked s then 3 else if s.fld.checking then 1 else if s.fld.staged.isSome then 2 else 0

/-- 03 R89: the check of the image at `addr` starts: it lies in SRAM banks 1 to 7 or in DRAM. What a check of another place finds the spec does
not say: the model reads nothing there, and so finds no MAGIC (assumption log entry 144, DESIGN CHOICE). -/
def hotStart (s : State) (addr : Nat) : State :=
  let s := { s with fld := { s.fld with checking := true, hotBuf := none } }
  if (0x10100000 ≤ addr ∧ addr < 0x10800000) ∨ 0x80000000 ≤ addr then imgRead s true addr else imgBuffer s true []

/-- 03 R91, R92: a write of FLD_HOTCTL; the answer says whether it completes OK. -/
def hotCtl (s : State) (v : Nat) : State × Bool :=
  let check := bitAt v 0
  let drop := bitAt v 1
  if !check && !drop then (s, true)
  else if s.fld.checking || hotLocked s then (s, false)
  else
    let s := if drop then { s with fld := { s.fld with staged := none } } else s
    (if check then hotStart s (rwGet s (Base.fld + 0x1C) 0) else s, true)

/-- The image `d` passes its check (03 R90, R91). -/
def hotPass (s : State) (d : Bytes) : State :=
  if hotLocked s then { s with fld := { s.fld with hotCode := 0x21, hotSect := noSect } }
  else
    let h : Hot := { seq := ihSeq d, body := d.take (ihBody d), whole := imageBytes d, secs := (imageSecs d).map (·.2) }
    { s with fld := { s.fld with staged := some h } }

/-- HOT_CHECK_DONE (03 R90, R91): the image has been read and judged. -/
def hotCheckEnd (s : State) : State :=
  match s.fld.hotBuf with
  | none => s
  | some d =>
    if !s.fld.checking then s
    else
      let s := { s with fld := { s.fld with checking := false, hotBuf := none } }
      match checkImage s true d with
      | some (_, code, sect) => { s with fld := { s.fld with hotCode := code, hotSect := sect } }
      | none => hotPass s d

/-- What an H section does at the boundary at which it applies. -/
def hotSection (s : State) (was : List Sec) (x : Sec) : State :=
  if x.type = Ty.fabric then fabricLoad s
  else if x.type = Ty.fallback then fallbackCopy s
  else if x.type = Ty.chain then
    chainRetrain s (cB was Ty.chain 0) x.body
  else s

/-- 03 R92, R94: a delivered HOTAPPLY; the answer says whether it applied. The whole image joins the list that a twin boot gives. -/
def hotApply (s : State) (seq : Nat) : State × Bool :=
  let s := { s with fld := { s.fld with applyPend := s.fld.applyPend - 1 } }
  match s.fld.staged with
  | some h =>
    if h.seq = seq then
      let hs := h.secs.filter fun x => hotClass x.type x.inst == 1
      let gs := h.secs.filter fun x => hotClass x.type x.inst != 1
      let was := s.fld.secs
      let f := { s.fld with
        staged := none, secs := hs.foldl putSec was, cfgHash := sha256 (s.fld.cfgHash ++ h.body), hotCnt := sat16 s.fld.hotCnt
        pendG := gs.foldl putSec s.fld.pendG, hots := s.fld.hots ++ [h.whole] }
      (hs.foldl (fun s x => hotSection s was x) { s with fld := f }, true)
    else ({ s with fld := { s.fld with hotCode := 0x20, hotSect := noSect } }, false)
  | none => ({ s with fld := { s.fld with hotCode := 0x20, hotSect := noSect } }, false)

/-- 03 R93: the pending G sections that apply at a boundary: `ended` is the set of the tick that ends, `change` says that a firmware
regime request takes effect. -/
def gNow (s : State) (ended : Nat) (change : Bool) : List Sec :=
  s.fld.pendG.filter fun x => if x.type = Ty.sched then x.inst != ended else change

/-- 04 R113 step 4: they apply. -/
def applyG (s : State) (ended : Nat) (change : Bool) : State :=
  let now := gNow s ended change
  let oldSrv := secB s Ty.servo 0
  let secs := now.foldl putSec s.fld.secs
  let s := { s with
    fld := { s.fld with secs := secs, pendG := s.fld.pendG.filter fun x => !now.contains x }
    dmc := if now.any fun x => x.type == Ty.sched then { s.dmc with cover := coverOf secs } else s.dmc
    saf := { s.saf with kept := ((now.find? fun x => x.type == Ty.safety).map (·.body)).getD s.saf.kept }
    tsq := { s.tsq with base := storeBases secs } }
  let s := if now.any fun x => x.type == Ty.servo then srvReplace s oldSrv else s
  if now.any fun x => x.type == Ty.calptr then calLoad s (loadedRecs s) else s

/-! ### SVBUMP and registers (03 R77, R96) -/

/-- A write of FLD_SVBUMP. R77 names no level of BENCH_N, and 12 R317's condition stands for CAL's own programming: the fuses are blown whatever
BENCH_N is (assumption log entry 146, DEDUCED). -/
def svBump (s : State) (v : Nat) : State :=
  let ver := bits v 7 0
  if bits v 31 16 = 0x5EC0 ∧ s.fld.applied ∧ minVerOf s.cal.array < ver ∧ ver ≤ s.fld.secver then
    { s with cal := { s.cal with array := patch s.cal.array 0xC8 (leBytes 8 (u64 s.cal.array 0xC8 ||| (2 ^ ver - 1))) } }
  else s

def pendWord (s : State) : Nat :=
  maskOf (s.fld.pendG.map fun x => if x.type = Ty.sched then x.inst else if x.type = Ty.servo then 4 else if x.type = Ty.safety then 5 else 6)

/-- 03 R96, R97: HOTCNT and PENDING show the last boundary's values. -/
def fldRead (s : State) (off : Nat) : Nat :=
  let f := s.fld
  match off with
  | 0x08 => f.st * 2 ^ 28 + f.code * 2 ^ 20 + f.sect * 2 ^ 12 + f.source * 2 ^ 9 + f.keyslot * 2 ^ 8 + b2n f.untrusted * 2 ^ 7
  | 0x0C => f.fmtMinor * 2 ^ 16 + f.secver * 2 ^ 8 + f.sectCount
  | 0x10 => f.seq
  | 0x14 => slotBits s
  | 0x24 => hotState s * 2 ^ 28 + f.hotCode * 2 ^ 20 + f.hotSect * 2 ^ 12
  | 0x28 => match f.staged with | some h => h.seq | none => 0
  | 0x2C => s.shown.fld.hotCnt
  | 0x30 => pendWord { s with fld := s.shown.fld }
  | _ =>
    if 0x40 ≤ off ∧ off < 0x60 then u32 f.snHash (off - 0x40)
    else if 0x60 ≤ off ∧ off < 0x80 then u32 f.bodyHash (off - 0x60)
    else 0

end Sys2Proof.Machine
end

