-- ==== Sys2Proof/Machine/Ports.lean ====
section
/-! DEFINITION. Plane ports: planes and blending, region pushes, commits and flips, strobes, training, the PSO registers (08 R215, R216;
09 R250 to R268). -/

namespace Sys2Proof.Machine

/-! ### Words of the port (09 R250) -/

def pushWord (s : State) (e : Nat) : Option Nat := (wordOf s 3 (9 + e) fun p => bits p 63 60 == 0).map swPayload
def commitWord (s : State) (e : Nat) : Option Nat := (wordOf s 3 (9 + e) fun p => bits p 63 60 == 1).map swPayload
/-- The fetch unit whose data port `e` pushes; its own while the fallback display runs. -/
def srcEng (s : State) (e : Nat) : Nat := if s.boot.fallback then e else match pushWord s e with | some p => bits p 59 58 | none => e
def pLead (s : State) (e : Nat) : Nat := if s.boot.fallback then 0 else match pushWord s e with | some p => bits p 57 54 | none => 0
/-- The pair of plane sets: first planes and length. -/
def planePair (s : State) (e : Nat) : Nat × Nat × Nat :=
  match commitWord s e with | some p => (bits p 59 54, bits p 53 48, bits p 47 42) | none => (0, 0, 0)

/-- 09 R257: the engine whose port sends the packets that port `e` sends: SRCENG's, where that port pushes its own fetch unit's data, else its
own. -/
def rootEng (s : State) (e : Nat) : Nat := let a := srcEng s e; if srcEng s a = a then a else e

/-- The engines whose ports send the same packets as `e`'s, in the same cycles (09 R257). -/
def cloneGroup (s : State) (e : Nat) : List Nat :=
  (List.range 4).filter fun m => m == e || (engKind s m == 1 && rootEng s m == rootEng s e)

/-- A plane map entry: VALID, COMP and BIT. -/
def pmap (s : State) (e p : Nat) : Nat := u8 (engB s e) (0xC0 + 4 * p)

/-- 09 R252: the planes that a push fills, in ascending order; R485's for the fallback display. -/
def pushPlanes (s : State) (e : Nat) : List Nat :=
  if s.boot.fallback then [0, 1, 2]
  else
    let (a, b, n) := planePair s e
    let back := if (psoAt s e).flip then a else b
    (List.range 64).filter fun p => (back ≤ p && p < back + n) ||
      (bitAt (pmap s e p) 7 && !((a ≤ p && p < a + n) || (b ≤ p && p < b + n)))

/-- 09 R254: the plane that a FIELD word's plane stands for. -/
def shownPlane (s : State) (e p : Nat) : Nat :=
  let (a, b, n) := planePair s e
  if (psoAt s e).flip then
    if a ≤ p ∧ p < a + n then p + b - a else if b ≤ p ∧ p < b + n then p + a - b else p
  else p

/-- 08 R216: a component value blended for its column. -/
def blend (s : State) (e x v : Nat) : Nat :=
  let b := engB s e
  let rng (i : Nat) : Option Nat :=
    let x0 := u16 b (0x10 + 8 * i)
    let x1 := u16 b (0x12 + 8 * i)
    let dir := u8 b (0x14 + 8 * i)
    if x0 ≤ x ∧ x < x1 ∧ (dir = 1 ∨ dir = 2) then
      let w := 256 * (2 * (x - x0) + 1) / (2 * (x1 - x0))
      some (if dir = 1 then w else 256 - w)
    else none
  match rng 0 with
  | some w => (v * w + 128) / 256
  | none => match rng 1 with
    | some w => (v * w + 128) / 256
    | none => v

/-- 08 R215: whether plane `p` has the bit of a mirror set, from the surface pixel of that mirror. -/
def planeBit (s : State) (e p x px : Nat) : Bool :=
  if s.boot.fallback then bitAt (comp px p) 11
  else let m := pmap s e p; bitAt (blend s e x (comp px (bits m 5 4))) (bits m 3 0)

/-! ### Packets (09 R255, R256) -/

/-- A plane packet: header fields in order, data, and the CRC over bytes [1, 16 + DLEN). -/
def planePacket (type seq : Nat) (rest data : Bytes) : Bytes :=
  let body := leBytes 1 type ++ leBytes 2 seq ++ padTo 12 rest ++ data
  0xFB :: body ++ leBytes 4 (crc32 body)

/-- The data of a band in one plane: each row ⌈W / 8⌉ bytes, mirror X0 + 8i + b in bit b of byte i. -/
def bandData (s : State) (e p : Nat) (r : Rect) (h : Nat) (px : List Nat) : Bytes :=
  (List.range h).flatMap fun j => (List.range ((r.w + 7) / 8)).map fun i =>
    BitVec.ofNat 8 (maskOf ((List.range 8).filter fun b =>
      8 * i + b < r.w && planeBit s e p (r.x + 8 * i + b) (px.getD (j * r.w + 8 * i + b) 0)))

/-- How long bytes take on the wire, in 1/16 cycle: 3.2 Gbit/s on 8 lanes (assumption log entry 148). -/
def wire16 (bytes : Nat) : Nat := 5 * bytes

/-- 09 R255: the training pattern, with the idle bytes after it. -/
def trainBytes : Bytes := (List.replicate 1024 [(0x55 : Byte), 0xAA]).flatten ++ List.replicate 256 0xBC

/-- A packet of engine `e`'s port from `a` on, in 1/16 cycle of the running tick; it takes the port's next SEQ. -/
def sendPacket (s : State) (e : Nat) (a : Int) (b : Nat → Bytes) : State :=
  modPso s e fun x => { x with
    out := (a, b x.seq) :: x.out, seq := (x.seq + 1) % 65536, pkts := sat32 x.pkts
    wire := max x.wire (a + wire16 ((b x.seq).length + 4)).toNat }

/-- A packet that starts in the running tick enters stream 1 of its digest (16 R425). -/
def sendLogged (s : State) (e a : Nat) (b : Nat → Bytes) : State :=
  let c := a / 16
  sendPacket (digLog s 1 c e (leBytes 1 e ++ leBytes 3 c ++ b (psoAt s e).seq)) e a b

/-- 09 R255, R256: the byte on the plane port of engine `e` at `t`, in 1/16 cycle of the running tick: a packet's, a pattern's, or the idle byte. -/
def portByte (s : State) (e t : Nat) : Byte :=
  match (psoAt s e).out.find? fun x => decide (x.1 ≤ (t : Int) ∧ (t : Int) < x.1 + wire16 x.2.length) with
  | some (a, b) => b.getD (((t : Int) - a).toNat / 5) 0xBC
  | none => 0xBC

/-- 09 R260, R261: the byte on the balls of plane port `e` at `t`, 24 cycles after it is formed; they are high-impedance while the port's domain
is off. -/
def portBall (s : State) (e t : Nat) : Option Byte := if domOn s (30 + 3 * e) then some (portByte s e (t - 384)) else none

/-- 09 R255, R260: the level of PPn_STB at cycle `c` of the running tick: 32 cycles from each flip that blanking does not suppress, 24 cycles
late. -/
def stbBall (s : State) (e c : Nat) : Option Bool :=
  if domOn s (30 + 3 * e) then
    some (s.lse.flips.any fun (e', _, t) =>
      e' == e && decide (t + 24 ≤ c ∧ c < t + 56) && !(match s.tsq.blank with | some b => decide (b ≤ t) | none => false))
  else none

/-! ### The pending set (09 R251) -/

def wholeModule (s : State) (e : Nat) : Rect := { x := 0, y := 0, w := engCols s e, h := engRows s e }

/-- A rectangle clipped to the module, unless nothing is left of it. -/
def clipRect (s : State) (e : Nat) (r : Rect) : Option Rect :=
  let w := min (r.x + r.w) (engCols s e) - r.x
  let h := min (r.y + r.h) (engRows s e) - r.y
  if r.w = 0 ∨ r.h = 0 ∨ w = 0 ∨ h = 0 then none else some { r with w := w, h := h }

/-- Every band of the restart has been sent on every plane. -/
def pushDone (x : PsoEng) : Bool := decide ((bandsOf x.pend).length ≤ x.band)

/-- 09 R251: a push restarts with the given pending set in tick `tc`. What an earlier restart finished counts as sent. -/
def restart (s : State) (e tc : Nat) (l : List Rect) : State :=
  let l := l.filterMap (clipRect s e)
  let l := if 256 < l.length then [wholeModule s e] else l
  let s := modPso s e fun x => { x with
    sent := if pushDone x && x.open_ then (x.sent ++ x.pend).eraseDups else x.sent
    pend := l, band := 0, pi := 0, rects := 0, bytes := 0, restartTc := tc, open_ := !l.isEmpty }
  resetFetch s (srcEng s e) 0

/-- 09 R251: the entries of a published list join the pending set. -/
def addRects (s : State) (e tc : Nat) (l : List Rect) : State :=
  let x := psoAt s e
  restart s e tc (if pushDone x then x.committed ++ l else x.pend ++ l)

/-- The push list that the fetch unit of engine `e` finds in region `r`, with the effects of the fixed read that brings it (assumption log entry
149). -/
def pushList (s : State) (e r : Nat) : State × List Rect :=
  let fa := regBase (inputsB s) r
  let (s, h, _) := fixedGet s (5 + e) none fa 4
  let n := min 256 (u16 h 0)
  if n = 0 then (s, [])
  else
    let (s, b, _) := fixedGet s (5 + e) none (fa + 4) (8 * n)
    (s, (List.range n).map fun i => { x := u16 b (8 * i), y := u16 b (8 * i + 2), w := u16 b (8 * i + 4), h := u16 b (8 * i + 6) })

/-- 09 R251, R253: a push list in region `r` is published at the boundary that starts tick `tc`. -/
def listPublished (s : State) (r tc : Nat) : State :=
  (List.range 4).foldl (fun s e =>
    let hit := engKind s e == 1 && (pushWord s e).isSome &&
      (match fetchWord s (srcEng s e) with | some p => bits p 63 60 == 0 && fetchList p == r | none => false)
    if hit then
      let (s, l) := pushList s (srcEng s e) r
      if l.isEmpty then s
      else if (psoAt s e).commitPend then modPso s e fun x => { x with later := x.later ++ l }
      else addRects s e tc l
    else s) s

/-- The push becomes the whole module: at the apply point, after a retrain, after the port's power-up (09 R251, R257). Between a commit and its
flip nothing is sent, and the push begins at the flip (09 R253). -/
def wholePush (s : State) (e tc : Nat) : State :=
  (cloneGroup s e).foldl (fun s m =>
    if engKind s m ≠ 1 then s
    else if (psoAt s m).commitPend then modPso s m fun x => { x with later := [wholeModule s m], laterAll := true }
    else restart s m tc [wholeModule s m]) s

/-! ### Strobes (08 R218, R221; 09 R254, R255) -/

/-- The FIELD words of the running tick of engine `e`, in order. -/
def fieldWords (s : State) (e : Nat) : List Disp :=
  s.tsq.disp.filter fun d => d.kind == 4 && d.unit == 0xD + e && bits d.payload 63 60 == 0 && d.finish != 0

/-- The flip cycle of a FIELD word. -/
def fieldFlip (s : State) (e : Nat) (d : Disp) : Nat := fieldStart d - engTset s e

/-- When the STROBE packet of a flip at cycle `t` starts, in 1/16 cycle: its last byte is out 64 cycles before the flip. -/
def strobeStart (t : Nat) : Int := 16 * (t : Int) - (1024 + wire16 20 : Nat)

/-- The flip cycles of the strobes that are still to be sent in the running tick. -/
def strobesAhead (s : State) (e : Nat) : List Nat :=
  let l := (fieldWords s e).drop (psoAt s e).fields
  ((l.zipIdx.filter fun x => !bitAt x.1.payload 14 || (x.2 == 0 && (lseAt s e).force)).map fun x => fieldFlip s e x.1)

/-- A strobe to plane `plane`: the packet from `a` on, the flip at cycle `t`. -/
def strobe (s : State) (e t plane : Nat) : State :=
  modLse { s with lse := { s.lse with flips := s.lse.flips ++ [(e, plane, t)] } } e fun x => { x with force := false }

/-- A STROBE packet. -/
def strobePacket (plane seq : Nat) : Bytes := planePacket 2 seq (leBytes 1 plane) []

/-- 08 R218, R221: the next FIELD word of engine `e` is settled: it strobes, or its plane is the one already shown. The packet starts at its time,
or where the port's training pattern ends after it. -/
def settleField (s : State) (e : Nat) (d : Disp) : State :=
  let s := modPso s e fun x => { x with fields := x.fields + 1 }
  if (bitAt d.payload 14 && !(lseAt s e).force) || !domOn s (30 + 3 * e) then s
  else
    let plane := shownPlane s e (bits d.payload 55 50)
    let t := fieldFlip s e d
    strobe (sendLogged s e (max (strobeStart t).toNat (psoAt s e).wire) (strobePacket plane)) e t plane

/-- FIELD words of engine `e` whose strobe is due before `upTo`, in 1/16 cycle, are settled. -/
def settleDue (e upTo : Nat) : List Disp → State → State
  | [], s => s
  | d :: r, s => if strobeStart (fieldFlip s e d) < upTo then settleDue e upTo r (settleField s e d) else s

def strobesTo (s : State) (e upTo : Nat) : State := settleDue e upTo ((fieldWords s e).drop (psoAt s e).fields) s

/-- 09 R255: a strobe so early in the tick that its packet leaves in the guard band before it: the engine and the packet's first cycle, counted
back from the boundary, with the state that has sent it. -/
def guardStrobe (s : State) (e : Nat) : Option (Nat × State) :=
  match (fieldWords s e)[0]? with
  | some d =>
    let t := fieldFlip s e d
    let a := strobeStart t
    if engKind s e ≠ 1 ∨ 0 ≤ a ∨ 0 < (psoAt s e).wire ∨ (psoAt s e).fields ≠ 0 ∨ (bitAt d.payload 14 && !(lseAt s e).force) ∨ !domOn s (30 + 3 * e) then none
    else
      let plane := shownPlane s e (bits d.payload 55 50)
      let s := modPso s e fun x => { x with fields := 1 }
      some (((15 - a) / 16).toNat, strobe (sendPacket s e a (strobePacket plane)) e t plane)
  | none => none

/-- The strobes of the tick that has been walked in `n` whose packets leave before it, and what they add to the digest of the tick `s` that
ends, of `len` cycles. -/
def guardStrobes (s n : State) (len : Nat) : State × State :=
  (List.range 4).foldl (fun (p : State × State) e =>
    match guardStrobe p.2 e with
    | some (k, n') =>
      let c := len - k
      (digLog p.1 1 c e (leBytes 1 e ++ leBytes 3 c ++ ((psoAt n' e).out.head?.map (·.2)).getD []), n')
    | none => p) (s, n)

/-! ### Sending (09 R252, R255, R263) -/

/-- The first time at or after `a`, in 1/16 cycle, at which a packet of `n` bytes delays no strobe packet of 20 bytes, with 4 idle bytes on
either side. `l` are the flip cycles. -/
def clearOf (l : List Nat) (n a : Nat) : Nat :=
  ((l.map fun t => (strobeStart t).toNat).mergeSort fun x y => decide (x ≤ y)).foldl (fun a d =>
    if a < d + wire16 24 ∧ d < a + wire16 (n + 4) then d + wire16 24 else a) a

/-- The same on every port of the group of `e`. -/
def groupClear (s : State) (e n a : Nat) : Nat := clearOf ((cloneGroup s e).flatMap (strobesAhead s)) n a

/-- When the wires of the group of `e` are free. -/
def groupWire (s : State) (e : Nat) : Nat := (cloneGroup s e).foldl (fun a m => max a (psoAt s m).wire) 0

/-- A packet on every port of the group of `e` whose domain is on. -/
def groupSend (s : State) (e a : Nat) (b : Nat → Bytes) : State :=
  (cloneGroup s e).foldl (fun s m => if domOn s (30 + 3 * m) then sendLogged s m a b else s) s

/-- 09 R257, R262, R263: the underrun abort of the array ports that push one fetch unit's data. -/
def pushAbort (s : State) (e c : Nat) : State :=
  (cloneGroup s e).foldl (fun s m =>
    let s := match (psoAt s m).pushWin with
      | some (w, _, _) => raiseStarve s c m (9 + m) (some w)
      | none => s
    let s := modPso s m fun x => { x with starved := x.pushWin.isSome, aborts := satAdd 65535 x.aborts 1 }
    modLse s m fun x => { x with force := true }) (modPso s (srcEng s e) fun x => { x with waiting := true })

/-- The next REGION packet of engine `e`'s port: its first byte at the earliest, its rectangle, first row and rows. -/
def regionNext (s : State) (e : Nat) : Option (Nat × Rect × Nat × Nat) :=
  let x := psoAt s e
  match x.pushWin, (bandsOf x.pend)[x.band]? with
  | some (_, slot, finish), some (r, y, h) =>
    let n := h * ((r.w + 7) / 8)
    let a := groupClear s e (n + 20) (max (groupWire s e) (4096 * slot))
    if rootEng s e ≠ e ∨ !domOn s (30 + 3 * e) ∨ x.starved ∨ x.commitPend ∨ !x.open_ ∨ s.tsq.tc < x.restartTc + pLead s e ∨
        pushPlanes s e = [] ∨ 4096 * finish < a + wire16 (n + 20) then none
    else some (a, r, y, h)
  | _, _ => none

/-- One packet of the open PUSH window, if it starts before `upTo`, in 1/16 cycle: the state, and whether there may be more. Clones send the same
packet in the same cycle, each under its own SEQ (09 R257). -/
def pushStep (s : State) (e upTo : Nat) : State × Bool :=
  match regionNext s e with
  | none => (s, false)
  | some (a, r, y, h) =>
    if upTo ≤ a then (s, false)
    else
      let x := psoAt s e
      match (psoAt s (srcEng s e)).rows.find? fun w => w.no == x.band with
      | none => (pushAbort s e (a / 16), false)
      | some row =>
        let s := (cloneGroup s e).foldl (fun s m => strobesTo s m a) s
        let planes := pushPlanes s e
        let n := h * ((r.w + 7) / 8)
        let p := planes.getD x.pi 0
        let hdr := leBytes 1 p ++ leBytes 2 r.x ++ leBytes 2 y ++ leBytes 2 r.w ++ leBytes 2 h ++ leBytes 2 n
        let data := bandData s e p r h row.px
        let s := groupSend s e a fun q => planePacket 1 q hdr data
        let s := if row.poison then degrade s 1 else s
        let last := decide (planes.length ≤ x.pi + 1)
        let over_ := last && y + h == r.y + r.h
        let s := (cloneGroup s e).foldl (fun s m => modPso s m fun z => { z with
          regEnd := a + wire16 (n + 20), bytes := z.bytes + n, pi := if last then 0 else x.pi + 1
          band := if last then x.band + 1 else x.band, rects := if over_ then z.rects + 1 else z.rects }) s
        (if last then modPso s (srcEng s e) fun z => { z with rows := z.rows.filter fun w => x.band + 1 ≤ w.no } else s, true)

/-- Packets of the open PUSH window that start before `upTo`, in 1/16 cycle. -/
def pushRun (e upTo : Nat) : Nat → State → State
  | 0, s => s
  | f + 1, s => match pushStep s e upTo with | (s, true) => pushRun e upTo f s | (s, false) => s

/-- How many packets a tick can hold at most. -/
def pushFuel : Nat := 131072

/-- A window whose FINISH has come closes. -/
def pushClose (s : State) (e upTo : Nat) : State :=
  modPso s e fun x => match x.pushWin with
    | some (_, _, f) => if f * 256 ≤ upTo then { x with pushWin := none, starved := false } else x
    | none => x

/-! ### Commits (09 R253) -/

/-- 09 R253: the cycle at which the COMMIT packet of engine `e`'s port is sent, as far as it is settled: the first in the window at which the
pending set is empty, every packet of the restart has left the ball, and nothing else is on the wire. -/
def commitAt (s : State) (e : Nat) : Option Nat :=
  let x := psoAt s e
  match x.commitWin with
  | some (a, b) =>
    let c := (groupClear s e 20 (max (4096 * a) (max (x.regEnd + 384) (groupWire s e))) + 15) / 16
    if rootEng s e = e ∧ domOn s (30 + 3 * e) ∧ x.open_ ∧ !x.commitPend ∧ pushDone x ∧ x.regEnd + 384 ≤ 4096 * b ∧ c < 256 * b then some c else none
  | none => none

/-- The COMMIT packet is sent, if its cycle is before `upTo`, on every port of the group. COMMITSEQ counts the commits since the apply point. -/
def commitSend (s : State) (e upTo : Nat) : State :=
  match commitAt s e with
  | some c =>
    if upTo ≤ c then s
    else
      let s := (cloneGroup s e).foldl (fun s m => strobesTo s m (16 * c)) s
      let x := psoAt s e
      let hdr := leBytes 4 (x.commits + 1) ++ leBytes 1 0 ++ leBytes 2 x.frames
      let s := groupSend s e (16 * c) fun q => planePacket 3 q hdr []
      (cloneGroup s e).foldl (fun s m => modPso s m fun x => { x with commitPend := true, commitWin := none }) s
  | none => s

/-- A commit of the group of `e` that did not succeed by its commit-close, at or before cycle `upTo`, is late. -/
def commitLate (s : State) (e upTo : Nat) : State :=
  match (psoAt s e).commitWin with
  | some (_, b) =>
    if 256 * b ≤ upTo then
      (cloneGroup s e).foldl (fun s m => modPso s m fun x =>
        let x := { x with commitWin := none }
        if x.open_ && !x.commitPend then { x with late := sat32 x.late, lateNow := sat16 x.lateNow } else x) s
    else s
  | none => s

/-- What the light and the port of an engine do up to cycle `upTo`; `ends` path elements may end. -/
def scanEng (upTo ends : Nat) (s : State) (e : Nat) : State :=
  let s := lightRun e upTo lightFuel ends s
  let s := pushRun e (16 * upTo) pushFuel s
  let s := commitLate (commitSend s e upTo) e upTo
  pushClose (strobesTo s e (16 * upTo)) e upTo

/-- What the light and the ports of the engines do up to cycle `upTo`. The ports that push their own fetch unit's data go first: clones send
with them. -/
def scanTo (s : State) (upTo ends : Nat) : State :=
  let l := (List.range 4).filter fun e => rootEng s e == e
  (l ++ (List.range 4).filter fun e => rootEng s e != e).foldl (scanEng upTo ends) s

/-- The same up to the present cycle, before anything new reaches them. -/
def scanNow (s : State) : State := scanTo s s.clk.cyc 0

/-- 09 R252: a PUSH word opens its window. -/
def pushOpenWin (s : State) (e : Nat) (d : Disp) : State :=
  pushRun e (16 * s.clk.cyc) pushFuel (modPso s e fun x => { x with pushWin := some (d.word, d.slot, d.finish), starved := false })

/-- 09 R253, R257: a COMMIT word opens its window; a clone's commits are its source's. -/
def commitOpen (s : State) (e : Nat) (d : Disp) : State :=
  if rootEng s e = e then modPso s e fun y => { y with commitWin := some (d.slot, d.finish) } else s

/-! ### Flips (09 R253, R254, R265) -/

/-- 09 R253, R265: the flip of engine `e` at a boundary that starts tick `tc`, whose frame phase is 0. -/
def flipNow (s : State) (e tc : Nat) : State :=
  let x := psoAt s e
  if !x.commitPend then s
  else
    let s := modPso s e fun x => { x with
      flip := !x.flip
      commitPend := false, open_ := false, committed := (x.sent ++ x.pend).eraseDups, sent := [], commits := (x.commits + 1) % 2 ^ 32
      flipRec := [(x.commits + 1) % 2 ^ 32, x.rects % 65536 * 65536 + x.lateNow, x.bytes % 2 ^ 32, 0, 0, 0], flipNew := true, lateNow := 0 }
    let s := modLse s e fun x => { x with force := true }
    let y := psoAt s e
    let s := modPso s e fun x => { x with later := [], laterAll := false }
    if y.later.isEmpty then s else if y.laterAll then restart s e tc y.later else addRects s e tc y.later

/-- 09 R265: the strobes that reached the module give the flip record its first edge. -/
def flipEdges (s : State) : State :=
  s.lse.flips.foldl (fun s (e, _, t) =>
    let gone := match s.tsq.blank with | some b => decide (b ≤ t) | none => false
    if !gone && (psoAt s e).flipNew then
      modPso s e fun x => { x with flipNew := false, flipRec := x.flipRec.take 3 ++ [t, s.tsq.tc % 2 ^ 32, s.tsq.tc / 2 ^ 32 % 2 ^ 32] }
    else s) s

/-- 09 R255: the training pattern from cycle `c` of the running tick on: 2048 bytes and 256 idle bytes. -/
def trainPort (s : State) (e tc c : Nat) : State :=
  let s := wholePush s e tc
  modLse (modPso s e fun x => { x with
    trained := true, retrain := false, wire := 16 * c + wire16 2304, out := ((16 * c : Nat), trainBytes) :: x.out }) e fun x => { x with force := true }

/-- A set that asks for lines of the other kind begins their fetch anew, at the line that comes next. -/
def linesTurn (s : State) (e : Nat) : State :=
  let m := linesMode s e
  if m = (psoAt s e).mode then s
  else resetFetch (modPso s e fun x => { x with mode := m }) e (if m = 1 then (lseAt s e).line else (lseAt s e).k)

/-- The port at a boundary: its windows are over, and what of a packet or pattern is still to be sent goes on. `len` is the length of the tick
that ends. -/
def portTurn (len : Nat) (x : PsoEng) : PsoEng :=
  { x with
    wire := x.wire - 16 * len, regEnd := x.regEnd - 16 * len, fields := 0, taken := 0, tag := 0, pushWin := none, starved := false
    out := (x.out.map fun (y : Int × Bytes) => (y.1 - 16 * (len : Int), y.2)).filter fun y => decide (0 < y.1 + wire16 y.2.length) }

/-- 09 R248: a raster latches the front buffer at frame phase 0, and what it latched before is released. -/
def rasterLatch (s : State) (e : Nat) : State :=
  match fetchWord s e with
  | some p =>
    if isRaster s e ∧ ahas s.pins.front (fetchSurf p) then
      modPso (resetFetch s e 0) e fun x => { x with latch := some (fetchSurf p, alook s.pins.front (fetchSurf p)) }
    else modPso s e fun x => { x with latch := none }
  | none => s

/-- What a boundary does to Scan-Out, after the list publishes: retrains, flips, frames and latches. `len` is the length of the tick that ends.
Frames count from the apply point (09 R265). -/
def psoBoundary (s : State) (tc len : Nat) : State :=
  let s := { s with dmc := { s.dmc with bufIn := s.dmc.bufIn.filter fun x => decide (s.clk.mclk ≤ x.2.2.1) } }
  (List.range 4).foldl (fun s e =>
    let s := modPso s e (portTurn len)
    if engKind s e = 0 then s
    else
      let s := if (psoAt s e).retrain then trainPort s e tc 0 else s
      let s := if engKind s e = 2 then linesTurn s e else s
      let s := if framePhase s tc = 0 ∧ s.tsq.run then
          let s := flipNow s e tc
          let s := modPso s e fun x => { x with frames := (x.frames + 1) % 2 ^ 64 }
          let s := modLse s e fun x => { x with line := 0, abort := false }
          if engKind s e = 2 then rasterLatch s e else s
        else s
      modPso s e fun x => { x with bad := badSurf s e }) s

/-- 09 R248: PATHREG of a scanner is published: the path's surface is latched and its lines start again. A raster's frame is not touched. -/
def pathLatch (s : State) (e : Nat) : State :=
  match fetchWord s e with
  | some p =>
    let s := if isRaster s e then s else resetFetch s e 0
    modPso s e fun x => { x with
      platch := if ahas s.pins.front (fetchSurf p) then some (fetchSurf p, alook s.pins.front (fetchSurf p)) else none }
  | none => s

/-- 09 R246: elastic reads stop at a boundary at which the running set has no FETCH word. -/
def fetchStop (s : State) : State :=
  (List.range 4).foldl (fun s e => if setHas s s.tsq.set 2 (5 + e) 16 then s else modPso s e fun x => { x with go := false, waiting := false }) s

/-! ### Registers (09 R267) -/

def psoSnap (s : State) : State :=
  { s with pso := { s.pso with sn := (psoAt s (bits (rwGet s Base.pso 0) 17 16)).flipRec } }

def psoRead (s : State) (off : Nat) : Nat :=
  if 0x08 ≤ off ∧ off < 0x20 then lget s.pso.sn ((off - 8) / 4) 0
  else if 0x100 ≤ off ∧ off < 0x200 then
    let e := (off - 0x100) / 0x40
    let x := lget s.shown.pso.eng e {}
    let y := psoAt s e
    match (off - 0x100) % 0x40 with
    | 0x00 =>
      if engKind s e = 0 then 0 else
      engKind s e * 2 ^ 30 + (if engKind s e = 1 then srcEng s e else 0) * 2 ^ 28 + b2n x.flip * 2 ^ 27 + b2n x.commitPend * 2 ^ 26 +
        b2n x.bad * 2 ^ 25 + b2n (x.latch.isSome || x.platch.isSome) * 2 ^ 24 + urgency s e * 2 ^ 22 + fill y
    | 0x04 => y.wmhi * 65536 + y.wmlo
    | 0x08 => x.frames % 2 ^ 32
    | 0x0C => x.frames / 2 ^ 32 % 2 ^ 32
    | 0x10 => (x.pend.length - x.rects) * 65536 + x.rects % 65536
    | 0x14 => x.late
    | 0x18 => x.aborts * 65536 + x.poison
    | 0x1C => b2n x.trained * 2 ^ 30
    | 0x20 => x.pkts
    | _ => 0
  else 0

/-- 09 R267: a write of PSO_BUFCFGe or PSO_PORTe. -/
def psoWrite (s : State) (off v : Nat) : State :=
  if 0x100 ≤ off ∧ off < 0x200 then
    let e := (off - 0x100) / 0x40
    match (off - 0x100) % 0x40 with
    | 0x04 => if bits v 31 16 ≤ bits v 15 0 then s else modPso s e fun x => { x with wmhi := bits v 31 16, wmlo := bits v 15 0 }
    | 0x1C => if bitAt v 31 then modPso s e fun x => { x with retrain := true } else s
    | _ => s
  else s

end Sys2Proof.Machine
end

