-- ==== Sys2Proof/Machine/WriteVerify.lean ====
section
/-! DEFINITION. Write jobs, write-verify and failure records (11 R301 to R309). -/

namespace Sys2Proof.Machine

/-- A failure record on its way to the ring: its segment and its eight words (11 Table 11-7). -/
abbrev FailRec := Nat × List Nat

/-- 11 R309: the record of a segment closed at the boundary that starts tick `tc`. Causes: 1 PASSLIMIT, 2 DOSELIMIT, 3 ABANDONED, 4 BADENTRY. -/
def failRec (s : State) (tc : Nat) (v : WvSeg) (cause jobSeq : Nat) : FailRec :=
  (v.seg,
   [v.facing, v.seg % 4096 * 2 ^ 20 + v.op % 16 * 2 ^ 16 + cause * 2 ^ 12 + v.pass * 2 ^ 8 + v.flags, v.clast * 2 ^ 16 + v.profile * 2 ^ 8,
    writeDose s v.seg, eraseDose s v.seg, jobSeq, tc % 2 ^ 32, tc / 2 ^ 32 % 2 ^ 32])

/-- What a segment's step leaves: the segment, and its record if it failed. -/
abbrev WvOut := WvSeg × Option FailRec

/-- The dose of a segment's phase. -/
def phaseDose (s : State) (v : WvSeg) : Nat := if v.write then writeDose s v.seg else eraseDose s v.seg

/-- The target contrast of an entry. -/
def wvTarget (s : State) (v : WvSeg) : Nat := if v.ctgt = 0 then u16 (mediaB s v.profile) 0x20 else v.ctgt

/-- 11 R304: a phase starts. -/
def startPhase (s : State) (v : WvSeg) (write : Bool) : WvSeg :=
  let b := mediaB s v.profile
  let d := if write then writeDose s v.seg else eraseDose s v.seg
  let goal := if write then mediaInv b true (wvTarget s v) else mediaInv b false (u16 b 0x24)
  { v with write := write, pass := 1, base := d, n := 0, tgt := d + goal * u16 b 0x26 / 65536, st := 1 }

/-- 11 R304: fail(cause). -/
def wvFail (s : State) (tc : Nat) (v : WvSeg) (cause : Nat) : WvOut :=
  let v := { v with st := 5, flags := if v.write then v.flags else v.flags ||| 8 }
  (v, some (failRec s tc v cause s.lse.jobSeq))

/-- 11 R304: retry(next). -/
def wvRetry (s : State) (tc : Nat) (v : WvSeg) (next : Nat) : WvOut :=
  if u8 (mediaB s v.profile) 0x16 ≤ v.pass then wvFail s tc v 1 else ({ v with pass := v.pass + 1, st := next, n := 0 }, none)

/-- 11 R304: a valid contrast `c` is judged. -/
def wvJudge (s : State) (tc : Nat) (v : WvSeg) (c : Nat) : WvOut :=
  let b := mediaB s v.profile
  let v := { v with clast := c }
  if v.write ∧ wvTarget s v ≤ c + u16 b 0x22 then ({ v with st := 4 }, none)
  else if !v.write ∧ c ≤ u16 b 0x24 then (if v.op = 3 then startPhase s v true else { v with st := 4 }, none)
  else
    let d := phaseDose s v
    let goal : Int := if v.write then (mediaInv b true (wvTarget s v) : Int) - mediaInv b true c
                      else (mediaInv b false (u16 b 0x24) : Int) - mediaInv b false c
    let t := max (u32 b 0x28 : Int) goal
    let lim : Int := (if v.write then u32 b 0x2C else u32 b 0x30 : Nat)
    let used : Int := (d : Int) - v.base
    let t := if lim < used + t then lim - used else t
    if t ≤ 0 then wvFail s tc v 2
    else if u8 b 0x16 ≤ v.pass then wvFail s tc v 1
    else ({ v with pass := v.pass + 1, tgt := d + t.toNat, st := 1, n := 0 }, none)

/-- 11 R304, R305: one segment at the boundary that starts tick `tc`; `recs` are the contrast records of the tick that ended. -/
def wvSeg (s : State) (tc : Nat) (recs : List Contrast) (v : WvSeg) : WvOut :=
  let b := mediaB s v.profile
  match v.st with
  | 1 =>
    if v.tgt ≤ phaseDose s v then ({ v with st := 2, n := 0 }, none)
    else if u32 b 0x40 ≤ v.n + 1 then wvRetry s tc { v with n := v.n + 1, flags := v.flags ||| 1 } 1
    else ({ v with n := v.n + 1 }, none)
  | 2 => if u16 b 0x3C ≤ v.n + 1 then ({ v with st := 3, m0 := tc, n := 0 }, none) else ({ v with n := v.n + 1 }, none)
  | 3 =>
    match (recs.filter fun r => r.seg == v.seg).getLast? with
    | some r =>
      if v.m0 ≤ r.tc then
        if r.valid then wvJudge s tc v r.c
        else wvRetry s tc { v with flags := v.flags ||| 2 ||| (if r.blocked then 4 else 0) } 3
      else if u16 b 0x3E ≤ v.n + 1 then wvRetry s tc { v with n := v.n + 1, flags := v.flags ||| 2 } 3
      else ({ v with n := v.n + 1 }, none)
    | none =>
      if u16 b 0x3E ≤ v.n + 1 then wvRetry s tc { v with n := v.n + 1, flags := v.flags ||| 2 } 3
      else ({ v with n := v.n + 1 }, none)
  | _ => (v, none)

/-- 11 R309: records of one boundary go into the ring in rising order of segment. -/
def putFails (s : State) (l : List FailRec) : State :=
  (l.mergeSort fun a b => decide (a.1 ≤ b.1)).foldl (fun s r =>
    { s with lse := { s.lse with fr := (r.2 :: s.lse.fr).take 64, frTotal := (s.lse.frTotal + 1) % 2 ^ 32 } }) s

/-- 11 R304: write-verify after a tick of set 1. -/
def wvRun (s : State) (tc : Nat) (recs : List Contrast) : State × List FailRec :=
  let out := s.lse.wv.map (wvSeg s tc recs)
  let fails := out.filterMap (·.2)
  ({ s with lse := { s.lse with wv := out.map (·.1), closed := satAdd 65535 s.lse.closed fails.length } }, fails)

/-- Entry `i` of a job, as a segment that has not started. -/
def jobEntry (b : Bytes) (i : Nat) : WvSeg :=
  let o := 0x10 + 16 * i
  { seg := u16 b o, op := u8 b (o + 2), profile := u8 b (o + 3), facing := u32 b (o + 4), ctgt := u16 b (o + 8),
    st := 0, write := true, pass := 0, tgt := 0, base := 0, flags := 0, clast := 0, n := 0, m0 := 0 }

/-- 11 R304: a segment that starts keeps the FLAGS, and the CLAST, that it had. -/
def keepMarks (s : State) (v : WvSeg) : WvSeg :=
  match s.lse.wv.find? fun x => x.seg == v.seg with
  | some x => { v with flags := x.flags, clast := x.clast }
  | none => v

/-- 11 R302: whether entry `i` may start. A SEG above 4095 is no segment. -/
def jobEntryOk (s : State) (b : Bytes) (i : Nat) : Bool :=
  let v := jobEntry b i
  1 ≤ v.op && v.op ≤ 3 && hasSec s Ty.media v.profile && zeroes b (0x10 + 16 * i + 10) 6 && v.seg < 4096 &&
    (List.range i).all fun j => u16 b (0x10 + 16 * j) != v.seg

/-- 11 R302: the job of a published buffer is taken at the boundary that starts tick `tc`. -/
def jobTake (s : State) (tc : Nat) (b : Bytes) : State × List FailRec :=
  let n := min 4096 (u16 b 0)
  let q := u16 b 2
  let gone := (s.lse.wv.filter fun v => v.st != 4 && v.st != 5 && v.st != 0).map fun v =>
    failRec s tc { v with flags := if v.write then v.flags else v.flags ||| 8 } 3 s.lse.jobSeq
  let good := (List.range n).filter (jobEntryOk s b)
  let bad := (List.range n).filter fun i => !jobEntryOk s b i
  let badRecs := bad.map fun i =>
    let v := jobEntry b i
    failRec s tc { v with op := if 1 ≤ v.op ∧ v.op ≤ 3 then v.op else 0 } 4 q
  let new := good.map fun i => let v := keepMarks s (jobEntry b i); startPhase s v (v.op == 1)
  let idle := (s.lse.wv.filter fun v => !new.any fun x => x.seg == v.seg).map fun v => { v with st := 0 }
  let segs := (new ++ idle).mergeSort fun x y => decide (x.seg ≤ y.seg)
  ({ s with lse := { s.lse with wv := segs, jobSeq := q, jobCount := n, closed := bad.length } }, gone ++ badRecs)

/-- 11 R301: the job part of a scanner engine's PATHREG, as a fixed read of its front buffer brings it. -/
def jobBytes (s : State) (e : Nat) : State × Bytes :=
  let r := fixedGet s (0xD + e) none (regBase (inputsB s) (scPathReg s e) + 0x10000) (0x10 + 16 * 4096)
  (r.1, r.2.1)

/-- What a boundary does to write-verify: `ran1` says that the tick that ends ran set 1, `pubs` names the engines whose PATHREG is
published; engines that share a PATHREG share its job. The tick that ends counts for the job that ran in it. -/
def wvBoundary (s : State) (tc : Nat) (ran1 : Bool) (recs : List Contrast) (pubs : List Nat) : State :=
  let (s, f) := if ran1 then wvRun s tc recs else (s, [])
  let own := pubs.filter fun e => (pubs.find? fun x => scPathReg s x == scPathReg s e) == some e
  let (s, f) := own.foldl (fun (a : State × List FailRec) e =>
    let (s, b) := jobBytes a.1 e
    let (s, g) := jobTake s tc b
    (s, a.2 ++ g)) (s, f)
  putFails s f

end Sys2Proof.Machine
end

