-- ==== Sys2Proof/Machine/Twin.lean ====
section
/-! DEFINITION. The input record of a tick and the bundle that carries it, the state digest, the capture, and the twin's seat: joining,
lock, takeover, loss and detach (16 R420 to R441). -/

namespace Sys2Proof.Machine

/-! ### The input record (16 R422, R423) -/

/-- Everything the input guard delivers to the machine for one logical tick, with the lead's outcome of its own boundary. -/
structure InRec where
  /-- Length of the tick that the events fell in. -/
  len : Nat
  evs : List Ev
  mbox : List MboxEntry
  stripes : List Stripe
  doms : Nat
  /-- Samples by input index and sample point (in sixteenths of the tick; boundary samples at 0), with the fallback flag. -/
  samples : List (Nat × Nat × Int × Bool)
  /-- The calibration records that are loaded at this boundary, if it loads any. -/
  recs : Option (List (Nat × Bytes))
  faultSet : Bool
  join : Bool
  mseq : Nat
  deriving DecidableEq, Repr

/-- The index of the mailbox input (04 R108). -/
def mboxIdx (s : State) : Nat := (inputIdx s 1 0).getD 0

/-- The boundary samples that the guard holds now, as samples. -/
def boundaryRecs (s : State) : List (Nat × Nat × Int × Bool) :=
  (idxWhere (nIn (inputsB s)) fun i => inIsBoundary (inSrc (inputsB s) i) && inSrc (inputsB s) i != 2).map fun i =>
    let x := lget s.pins.ins i {}
    (i, 0, x.val, x.fb)

/-- The record of the chip's own guard, its boundary samples taken. STRIPE events go with their stripes. -/
def ownRec (s : State) (len : Nat) (recs : Option (List (Nat × Bytes))) (faultSet : Bool) : InRec :=
  let evs := deliverOrder (evsBefore len s.pins.evq)
  { len := len, evs := evs, mbox := s.tsq.mbox.filter fun m => decide (m.stamp < len)
    stripes := s.lpe.ready.filter fun x => decide (x.stamp < len), doms := domMask s, samples := boundaryRecs s, recs := recs
    faultSet := faultSet, join := isLead s && evs.any (fun e => inSrc (inputsB s) e.idx == 0xE && !e.stale), mseq := s.twn.mseq }

/-! ### Bundles (16 R421, R422) -/

def evRec (s : State) (len : Nat) (e : Ev) : Rec :=
  { type := 1, flags := b2n e.stale + 2 * b2n e.ovr, idx := e.idx
    body := leBytes 4 e.stamp ++ leBytes 4 (pat 32 e.val) ++ (if inSrc (inputsB s) e.idx = 8 then leBytes 4 (len - e.stamp) else []) }

/-- FLAGS of the record of an event that has a form of its own: whether the guard marked it with OVERRUN. -/
def overOf (evs : List Ev) (idx stamp : Nat) (v : Int) : Nat :=
  2 * b2n (evs.any fun e => e.idx == idx && e.stamp == stamp && e.val == v && !e.stale && e.ovr)

def mboxRec (s : State) (evs : List Ev) (m : MboxEntry) : Rec :=
  { type := 1, flags := overOf evs (mboxIdx s) m.stamp (mboxEv 0 m).val, idx := mboxIdx s, body := leBytes 4 m.stamp ++ m.w.flatMap (leBytes 4) }

/-- A stripe as an event of its receiver's input. -/
def stripeEv (s : State) (t : Stripe) : Ev :=
  { idx := (inputIdx s 0xD t.rx).getD 0, stamp := t.stamp, val := t.k, stale := false, ovr := false }

def stripeRec (s : State) (evs : List Ev) (t : Stripe) : Rec :=
  { type := 3, flags := overOf evs (stripeEv s t).idx t.stamp t.k, idx := (stripeEv s t).idx
    body := leBytes 1 t.ctx ++ leBytes 1 (b2n t.damaged + 2 * b2n t.unsync + 4 * b2n t.full) ++ leBytes 2 t.k ++ leBytes 4 t.frame ++
      leBytes 8 t.etc ++ leBytes 4 t.stamp ++ leBytes 4 0 ++ t.lines.flatMap fun l => l.flatMap (leBytes 2) }

def sampleRec (x : Nat × Nat × Int × Bool) : Rec :=
  { type := 2, flags := 0, idx := x.1, body := leBytes 1 x.2.1 ++ leBytes 1 (b2n x.2.2.2) ++ leBytes 2 0 ++ leBytes 4 (pat 32 x.2.2.1) }

/-- Where a record of types 1 and 3 stands in delivery order. -/
def recKey (r : Rec) : Nat := (if r.type = 3 then u32 r.body 16 else u32 r.body 0) * 65536 + r.idx

/-- The records of a bundle that its boundary forms, in stream order. -/
def openRecs (s : State) (i : InRec) : List Rec :=
  let ctl : Rec := { type := 6, flags := 0, idx := 0, body := leBytes 4 (b2n i.faultSet + 2 * b2n i.join) ++ leBytes 8 i.mseq }
  let cal := (i.recs.getD []).map fun (k, b) => ({ type := 4, flags := b2n i.recs.isSome, idx := k, body := b } : Rec)
  let evs := (i.evs.filter fun e => e.stale || (inSrc (inputsB s) e.idx != 0xD && inSrc (inputsB s) e.idx != 1)).map (evRec s i.len)
  let all := (evs ++ i.mbox.map (mboxRec s i.evs) ++ i.stripes.map (stripeRec s i.evs)).mergeSort fun x y => decide (recKey x ≤ recKey y)
  ctl :: { type := 5, flags := 0, idx := 0, body := leBytes 8 i.doms } :: cal ++ all ++ i.samples.map sampleRec

/-- Records join the running bundle and become ready. -/
def bundlePut (s : State) (l : List Rec) : State :=
  let b := l.flatMap recBytes
  { s with twn := { s.twn with
      bun := s.twn.bun ++ b, bunN := s.twn.bunN + l.length, unsent := s.twn.unsent ++ [(s.tsq.tc, s.twn.bun.length, b)] } }

/-- END closes the running bundle, which is kept for 16 ticks (16 R431). -/
def bundleEnd (s : State) : State :=
  if s.twn.bunEnd then s
  else
    let s := bundlePut s [{ type := 7, flags := 0, idx := 0
                            body := leBytes 4 s.twn.bunN ++ leBytes 4 s.twn.bun.length ++ s.twn.dig.flatMap (leBytes 4) }]
    { s with twn := { s.twn with bunEnd := true, sent := ((s.tsq.tc, s.twn.bun) :: s.twn.sent).take 16 } }

/-- 16 R421: a lead's boundary opens the bundle of the tick that it starts; what the last tick left unsent goes first. -/
def bundleOpen (s : State) (i : InRec) : State :=
  let s := { s with twn := { s.twn with overflow := if s.twn.unsent.isEmpty then s.twn.overflow else sat16 s.twn.overflow } }
  if isLead s then
    bundlePut { s with twn := { s.twn with bun := [], bunN := 0, bunEnd := false, faultSet := i.faultSet, join := i.join } } (openRecs s i)
  else { s with twn := { s.twn with bun := [], bunN := 0, bunEnd := true, unsent := [], join := i.join, faultSet := i.faultSet } }

/-- The input index behind a channel of the servo engine's samples. -/
def sampInput (s : State) (ch : Nat) : Nat :=
  (if ch < 100 then inputIdx s 5 ch else if ch < 200 then inputIdx s 0xA (ch - 100) else inputIdx s 0xC (ch - 200)).getD 0

/-- The samples taken since there were `n` join the lead's bundle, in order of input index. -/
def bundleSamples (s : State) (n : Nat) : State :=
  if isLead s ∧ !s.twn.bunEnd then
    let new := ((s.srv.samp.drop n).map fun (ch, j, v, fb) => (sampInput s ch, j, v, fb)).mergeSort fun x y => decide (x.1 ≤ y.1)
    if new.isEmpty then s else bundlePut s (new.map sampleRec)
  else s

/-- Bytes of `unsent` as frames, up to a number of bytes; what is left of it. -/
def sendUnsent : Nat → Nat → List Seg → List TwinTx × List Seg
  | 0, _, l => ([], l)
  | _, _, [] => ([], [])
  | f + 1, cap, (k, off, b) :: r =>
    if cap = 0 then ([], (k, off, b) :: r)
    else
      let n := min cap b.length
      let q := sendUnsent f (cap - n) (if n < b.length then (k, off + n, b.drop n) :: r else r)
      (cutFrames 1 k off (b.take n) ++ q.1, q.2)

/-- 16 R419, R421: a BUNDLE word at place `d`: the lead sends what is ready, END with the tick's last such word; any other state sends an
ACK. The link carries 6746 bytes per slot. -/
def bundleWord (s : State) (d : Nat) (x : Disp) : State :=
  if isLead s then
    let isLast := ((s.tsq.disp.drop (d + 1)).all fun y => !(y.kind == 7 && y.unit == 0x25 && bits y.payload 63 60 == 1))
    let s := if isLast then bundleEnd s else s
    let (fr, left) := sendUnsent (2 * s.twn.unsent.length + 2) (x.span * 6746) s.twn.unsent
    fr.foldl linkPut { s with twn := { s.twn with unsent := left } }
  else linkPut s (ackFrame s 0 0 0)

/-! ### A bundle as an input record (16 R423, R424) -/

def evOf (r : Rec) : Ev :=
  { idx := r.idx, stamp := u32 r.body 0, val := i32 r.body 4, stale := bitAt r.flags 0, ovr := bitAt r.flags 1 }

def stripeOf (s : State) (r : Rec) : Stripe :=
  let b := r.body
  let c := u8 b 0
  let px := (chunks (b.length + 1) 2 (b.drop 24)).map leNat
  { rx := inArg (inputsB s) r.idx, ctx := c, frame := u32 b 4, k := u16 b 2, etc := u64 b 8, damaged := bitAt (u8 b 1) 0,
    unsync := bitAt (u8 b 1) 1, full := bitAt (u8 b 1) 2, lines := chunks (px.length + 1) (max 1 (cxW (lpeB s) c)) px,
    stamp := u32 b 16, place := false }

/-- The record that a complete bundle gives; `len` stands where no crossing tells the length of the lead's tick. -/
def recOf (s : State) (l : List Rec) (len : Nat) : InRec :=
  let src (r : Rec) : Nat := inSrc (inputsB s) r.idx
  let ev := l.filter fun r => r.type == 1
  let zx := ev.find? fun r => src r == 8 && !bitAt r.flags 0
  let ctl := ((l.find? fun r => r.type == 6).map (·.body)).getD []
  let cal := l.filter fun r => r.type == 4
  { len := match zx with | some r => u32 r.body 0 + u32 r.body 8 | none => len
    evs := (ev.filter fun r => src r != 1 || bitAt r.flags 0).map evOf
    mbox := (ev.filter fun r => src r == 1 && !bitAt r.flags 0).map fun r =>
      { stamp := u32 r.body 0, src := 0, w := (List.range 4).map fun i => u32 r.body (4 + 4 * i) }
    stripes := (l.filter fun r => r.type == 3).map (stripeOf s)
    doms := ((l.find? fun r => r.type == 5).map fun r => u64 r.body 0).getD 0
    samples := (l.filter fun r => r.type == 2).map fun r => (r.idx, u8 r.body 0, i32 r.body 4, bitAt (u8 r.body 1) 0)
    recs := if cal.isEmpty then none else some (cal.map fun r => (r.idx, r.body))
    faultSet := bitAt (u32 ctl 0) 0, join := bitAt (u32 ctl 0) 1, mseq := u64 ctl 4 }

/-- The digest that a bundle's END carries. -/
def recDigest (l : List Rec) : List Nat :=
  match l.find? fun r => r.type == 7 with | some r => (List.range 8).map fun i => u32 r.body (8 + 4 * i) | none => []

/-- The servo engine's channel behind an input. -/
def inputChan (s : State) (i : Nat) : Option Nat :=
  let b := inputsB s
  match inSrc b i with | 5 => some (inArg b i) | 0xA => some (100 + inArg b i) | 0xC => some (200 + inArg b i) | _ => none

/-- The conversions of a calibration run in the bundle that opens or runs: SAMPLE records of the target, with POINT 0x80 and up (assumption log
entry 150). -/
def bundleRaws (s : State) (raws : List Nat) : State :=
  if isLead s ∧ !s.twn.bunEnd then
    let r := s.cal.run
    let idx := if r.code = 3 then 0xFFFF else sampInput s r.target
    bundlePut s ((raws.take 16).zipIdx.map fun x => sampleRec (idx, 0x80 + x.2, (x.1 : Int), false))
  else s

/-- The samples of a bundle reach the guard and the servo engine of the shadow, and a run's conversions its calibration (12 R335). -/
def recSamples (s : State) (i : InRec) : State :=
  let s := { s with cal := { s.cal with raws := (i.samples.filter fun x => decide (0x80 ≤ x.2.1)).map fun x => x.2.2.1.toNat } }
  (i.samples.filter fun x => decide (x.2.1 < 0x80)).foldl (fun s (k, j, v, fb) =>
    let s := modIn s k fun x => { x with val := v, fb := fb, valid := if fb then x.valid else some v, seen := x.seen || !fb }
    match inputChan s k with
    | some ch => putSamp s ch j v fb
    | none => s) s

/-! ### The digest (16 R425, Table 16-9) -/

/-- Stream 0. -/
def digLanes (s : State) : Bytes :=
  let l := (List.range 16).flatMap fun n => (laneChanges s n).map fun (c, v) => (c, n, v)
  (l.mergeSort fun x y => decide (x.1 < y.1 ∨ (x.1 = y.1 ∧ x.2.1 ≤ y.2.1))).flatMap fun (c, n, v) =>
    leBytes 3 c ++ leBytes 1 n ++ leBytes 2 v

/-- A logged stream. -/
def digStream (s : State) (w : Nat) : Bytes :=
  ((s.twn.digEv.reverse.filter fun x => x.1 == w).mergeSort fun x y =>
    decide (x.2.1 < y.2.1 ∨ (x.2.1 = y.2.1 ∧ x.2.2.1 ≤ y.2.2.1))).flatMap fun x => x.2.2.2

/-- Stream 3: the accounts that differ from what they were. -/
def digDoses (was now : Lse) : Bytes :=
  let ks := ((now.wAcc ++ now.eAcc ++ was.wAcc ++ was.eAcc).map (·.1)).eraseDups.mergeSort fun a b => decide (a ≤ b)
  (ks.filter fun k => alook now.wAcc k != alook was.wAcc k || alook now.eAcc k != alook was.eAcc k).flatMap fun k =>
    leBytes 2 k ++ leBytes 8 (alook now.wAcc k) ++ leBytes 8 (alook now.eAcc k)

/-- Stream 4. -/
def digLoops (s : State) : Bytes :=
  (List.range 16).flatMap fun l =>
    let x := lget s.srv.loops l {}
    if loopIn s s.tsq.set l then leBytes 1 l ++ leBytes 4 (pat 32 x.r) ++ leBytes 4 (pat 32 (asr x.i 16)) ++ leBytes 2 (pat 16 x.u) ++ leBytes 4 (pat 32 x.v)
    else []

/-- Stream 5. -/
def digWv (was now : Lse) : Bytes :=
  let old (g : Nat) : Option (Nat × Nat × Nat) := (was.wv.find? fun v => v.seg == g).map fun v => (v.st, v.pass, v.tgt)
  ((now.wv.filter fun v => old v.seg != some (v.st, v.pass, v.tgt)).flatMap fun v =>
    leBytes 2 v.seg ++ leBytes 1 v.st ++ leBytes 1 v.pass ++ leBytes 4 v.tgt) ++
    ((now.fr.take ((now.frTotal + 2 ^ 32 - was.frTotal) % 2 ^ 32)).reverse.flatMap fun r => r.flatMap (leBytes 4))

/-- A fault record as its six words (04 Table 4-12). -/
def flogWords (f : Option FaultRec) : List Nat :=
  match f with
  | none => [0, 0, 0, 0, 0, 0]
  | some f =>
    [f.seq * 65536 + f.code * 4096 + f.cls * 1024 + f.set * 256 + f.unit * 4 + 2 * b2n f.insafe + 1, f.cycle, f.detail,
     f.word.getD (2 ^ 31), f.tc % 2 ^ 32, f.tc / 2 ^ 32 % 2 ^ 32]

/-- A mailbox result as its four words. -/
def mresWords (r : Option MboxRes) : List Nat :=
  match r with
  | none => [0, 0, 0, 0]
  | some r => [r.tag * 65536 + r.op * 256 + r.status, r.detail, r.tc % 2 ^ 32, r.tc / 2 ^ 32 % 2 ^ 32]

/-- Stream 6: the boundary's results and the fault records of the tick that ends. -/
def digSeq (was s : State) (faults : List FaultRec) : Bytes :=
  leBytes 1 s.tsq.set ++ leBytes 2 s.tsq.age ++
    ((s.tsq.res.take ((s.tsq.resTotal + 2 ^ 32 - was.tsq.resTotal) % 2 ^ 32)).reverse.flatMap fun r => (mresWords (some r)).flatMap (leBytes 4)) ++
    (faults.flatMap fun f => (flogWords (some f)).flatMap (leBytes 4)) ++ s.fld.cfgHash

/-- 16 R425: D of the tick that a boundary closed. `was` is the state before the boundary, `now` the one after it. -/
def digestOf (was now : State) (faults : List FaultRec) : List Nat :=
  let streams := [digLanes was, digStream was 1, digStream was 2, digDoses was.lse now.lse, digLoops was, digWv was.lse now.lse,
                  digSeq was now faults, digStream was 7]
  List.zipWith (fun d b => crc32 (leBytes 4 d ++ b)) was.twn.dig streams

/-! ### The capture (16 R437 to R439) -/

/-- The machine state that a lead hands to a joiner. -/
structure Capture where
  tsq : Tsq
  fld : Fld
  pins : Pins
  lse : Lse
  pso : Pso
  srv : Srv
  lpe : Lpe
  cal : Cal
  vis : Cells
  visGen : Nat
  deriving DecidableEq, Repr

end Sys2Proof.Machine

namespace Sys2Proof.Config

/-- FREE VALUE (16 R438). The bytes of block `b` (1 TSQ, 2 FLD, 3 the input guard, 4 LSE, 5 PSO, 6 SRV, 7 LPE, 8 CAL) of a capture: their
encoding "is that of silicon revision B0" and the spec does not give it. -/
opaque captureBlock (c : Sys2Proof.Machine.Capture) (b : Nat) : List Byte

/-- FREE VALUE (16 R438). What the blocks of a capture say. -/
opaque captureOf (blocks : List (List Byte)) : Option Sys2Proof.Machine.Capture

end Sys2Proof.Config

namespace Sys2Proof.Machine

/-- The capture of a state. -/
def capture (s : State) : Capture :=
  { tsq := s.tsq, fld := s.fld, pins := s.pins, lse := s.lse, pso := s.pso, srv := s.srv, lpe := s.lpe, cal := s.cal, vis := s.mem.vis,
    visGen := alook s.pwr.memGen 49 }

/-- A block with its head. -/
def blockBytes (n : Nat) (b : Bytes) : Bytes := leBytes 4 n ++ leBytes 4 b.length ++ leBytes 8 0 ++ b

/-- The STATE stream: the capture's blocks, then the digest. -/
def stateStream (c : Capture) (dig : List Nat) : Bytes :=
  ((List.range 8).flatMap fun i => blockBytes (i + 1) (Config.captureBlock c (i + 1))) ++ blockBytes 9 (dig.flatMap (leBytes 4))

/-- The blocks that stand whole in a run of bytes. -/
def blocksOf : Nat → Bytes → List Bytes
  | 0, _ => []
  | f + 1, b =>
    let n := u32 b 4
    if b.length < 16 ∨ b.length < 16 + n then [] else (b.drop 16).take n :: blocksOf f (b.drop (16 + n))

/-- 16 R437, R438: a lead sends its capture for lock point `b`. -/
def captureSend (s : State) (c : Capture) (b : Nat) : State :=
  (cutFrames 5 b 0 (stateStream c s.twn.dig)).foldl (fun s t =>
    linkSubmit { s with twn := { s.twn with keep := s.twn.keep ++ [t] } } t 3) s

/-- 16 R438: a STATE frame. A joiner stores it; a gap is named. -/
def stateIn (s : State) (f : TwinFrame) : State :=
  if !f.good ∨ s.twn.st ≠ 4 then s
  else
    let s := { s with twn := { s.twn with
        stage := 2, rxs := (s.twn.rxs.filter fun x => x.1 == f.seq) ++ [(f.seq, f.offset, f.payload)] } }
    let n := (assemble s.twn.rxs f.seq).length
    if s.twn.rxs.any fun x => decide (n < x.2.1 + x.2.2.length) then sendNak s 5 n f.seq else s

/-- The complete capture that a joiner holds: its lock point, the blocks and the digest. -/
def captureHeld (s : State) : Option (Nat × Capture × List Nat) :=
  match s.twn.rxs.head? with
  | none => none
  | some x =>
    let l := blocksOf 10 (assemble s.twn.rxs x.1)
    if l.length = 9 then
      (Config.captureOf (l.take 8)).map fun c => (x.1, c, (List.range 8).map fun i => u32 (lget l 8 []) (4 * i))
    else none

/-- The capture becomes the machine's state. What belongs to the chip and not to the machine stays: its balls' levels, its flash port, its
loader and its image, its OTP and its NVM. -/
def captureLoad (s : State) (c : Capture) : State :=
  { s with
    tsq := { c.tsq with stage := s.tsq.stage, last := s.tsq.last, drop := s.tsq.drop, mbox := [] }
    fld := { s.fld with secs := c.fld.secs, cfgHash := c.fld.cfgHash, seq := c.fld.seq, hotCnt := c.fld.hotCnt, pendG := c.fld.pendG }
    pins := { c.pins with gpin := s.pins.gpin, flBusy := s.pins.flBusy, evq := [] }
    lse := c.lse, pso := c.pso, srv := c.srv
    lpe := { c.lpe with ready := [] }
    cal := { s.cal with live := c.cal.live, gen := c.cal.gen, src := c.cal.src, die := c.cal.die, dieStale := c.cal.dieStale, ofs := c.cal.ofs,
                        gain := c.cal.gain, run := c.cal.run, reqOut := c.cal.reqOut, reqLast := c.cal.reqLast, reqSeen := c.cal.reqSeen,
                        resGain := c.cal.resGain, resOfs := c.cal.resOfs, ratios := c.cal.ratios }
    mem := { s.mem with vis := c.vis }
    pwr := { s.pwr with memGen := aset s.pwr.memGen 49 c.visGen } }

/-! ### The seat (16 R427 to R435, R439 to R441) -/

/-- What a boundary makes of the twin before the machine takes its inputs. -/
inductive Seat where
  /-- The machine runs on the chip's own inputs. -/
  | own
  /-- It runs on a bundle. -/
  | bundle (l : List Rec)
  /-- It takes over with its own inputs: a new apply point. -/
  | takeover
  /-- It takes over late, in set 3: a new apply point. -/
  | late
  /-- A joiner's lock point. -/
  | lock (b : Nat) (c : Capture) (d : List Nat) (l : List Rec)
  /-- It enters DETACHED: set 3 is chosen. -/
  | detached
  /-- It stands still. -/
  | hold
  deriving DecidableEq, Repr

/-- A twin state is entered, with an event or none. -/
def enter (s : State) (st ev ltc : Nat) : State :=
  let s := { s with twn := { s.twn with st := st } }
  if ev = 0 then s else twnEvent s ev ltc

/-- What a chip that stops being a lead, or loses its shadow, forgets. -/
def stopCopy (s : State) : State :=
  { s with twn := { s.twn with copy := none, copied := false, forward := false, stage := 0, pass := 0, redo := none, keep := [], busy := false,
                               copyFail := false } }

/-- What a chip that stops running from bundles forgets. -/
def dropRx (s : State) : State := { s with twn := { s.twn with rxb := [], rxs := [], held := [], stage := 0, agree := 0, delay := 0 } }

/-- The partner's seat wins over this chip's (16 R429): this chip's SEAT is low, or the SEATs are equal and its UID is higher. -/
def seatLoses (s : State) : Bool :=
  let me := bitAt s.boot.straps 2
  !me || (match s.twn.beat with | some b => b.seat == 1 && decide (b.uid < leNat (uid s)) | none => false)

/-- LTC that the lead runs now, from its last BEAT. -/
def leadLtc (s : State) : Nat := match s.twn.beat with | some b => b.ltc + s.twn.beatAge | none => 0

/-- 16 R428: the ways out of SEAT. -/
def seatStep (s : State) : State × Seat :=
  let seat := bitAt s.boot.straps 2
  let other := match s.twn.beat with | some b => b.seat == 1 | none => false
  let ouid := match s.twn.beat with | some b => b.uid | none => 0
  let wait := (if seat then 1 else 2) * twSeatWait (twinB s)
  let equal := seat == other
  if partnerLead s then (dropRx (enter s 4 0 0), .own)
  else if partnerValid s ∧ partnerSt s = 1 ∧ ((seat && !other) || (equal && decide (leNat (uid s) < ouid))) then
    let s := enter s 2 0 0
    ({ s with twn := { s.twn with seatErr := s.twn.seatErr || equal } }, .own)
  else if !partnerValid s ∧ !s.twn.leadIn ∧ wait ≤ s.twn.seatTicks then (enter s 2 0 0, .own)
  else if partnerHere s ∧ !partnerValid s then
    ({ (enter s 8 0 0) with twn := { (enter s 8 0 0).twn with cfgMism := true } }, .detached)
  else ({ s with twn := { s.twn with seatErr := s.twn.seatErr || (partnerValid s && partnerSt s == 1 && equal) } }, .own)

/-- A lead at a boundary that starts logical tick `m` (16 R429, R434, R435, R441). -/
def leadStep (s : State) (m : Nat) : State × Seat :=
  if s.twn.yield_ then (stopCopy { (enter s 8 8 m) with twn := { (enter s 8 8 m).twn with yield_ := false } }, .detached)
  else if (s.twn.leadIn ∨ partnerLead s) ∧ seatLoses s then (stopCopy (enter s 8 5 m), .detached)
  else if s.twn.detachNow then
    (stopCopy { (enter s 2 7 m) with twn := { (enter s 2 7 m).twn with detachNow := false, joinReq := false } }, .own)
  else
    let s := if s.twn.copyFail then stopCopy (enter s 2 6 m) else s
    let lost := !partnerValid s || partnerSt s == 7 || partnerSt s == 8 || decide (twBeatTo (twinB s) ≤ s.twn.ackAge)
    let s := if s.twn.st = 3 ∧ lost then stopCopy (enter s 2 0 0) else s
    let s := if s.twn.joinReq ∧ partnerValid s then
        if s.twn.st = 2 ∧ accepts s then copyStart { (enter s 3 0 0) with twn := { (enter s 3 0 0).twn with ackAge := 0 } }
        else { s with twn := { s.twn with busy := s.twn.st == 3 } }
      else s
    let s := if s.twn.stage = 2 ∧ 5 ≤ partnerSt s then { s with twn := { s.twn with stage := 0, keep := s.twn.keep.filter fun t => t.type != 5 } } else s
    ({ s with twn := { s.twn with joinReq := false } }, .own)

/-- JOINING (16 R433, R439). -/
def joinStep (s : State) (m : Nat) : State × Seat :=
  match captureHeld s with
  | some (b, c, d) =>
    if b + 16 < leadLtc s then (dropRx (enter s 7 6 b), .hold)
    else match bundleRecs s b with
    | some l => (s, .lock b c d l)
    | none => (s, .own)
  | none => if partnerValid s then (s, .own) else (dropRx (enter s 7 3 m), .hold)

/-- CONFIRM and LOCKED (16 R432, R433). -/
def shadowStep (s : State) (m : Nat) : State × Seat :=
  match bundleRecs s m with
  | some l => (s, .bundle l)
  | none =>
    let s := { s with twn := { s.twn with late := sat16 s.twn.late } }
    if s.twn.leadIn then (dropRx (enter s 7 3 m), .hold) else (dropRx (enter s 2 1 m), .takeover)

/-- LOST (16 R433, R434). -/
def lostStep (s : State) (m : Nat) : State × Seat :=
  if !s.twn.leadIn then (dropRx (enter s 2 2 m), .late)
  else if autoJoin s ∧ partnerLead s then (dropRx (enter s 4 0 0), .own)
  else (s, .hold)

/-- DETACHED (16 R429). -/
def detachedStep (s : State) : State × Seat :=
  let s := { s with twn := { s.twn with detachNow := false } }
  if autoJoin s ∧ partnerLead s then (dropRx (enter s 4 0 0), .own) else (s, .own)

/-- The twin at the boundary that starts logical tick `m`. `halted` says that a sequencer halt takes effect there (19 R507). A chip that is no lead
leaves its state for DETACHED where a detach takes effect (16 R441); a lead's step says what a lead does. -/
def twinStep (s : State) (m : Nat) (halted : Bool) : State × Seat :=
  if !hasTwin s ∨ s.twn.st = 0 then (s, .own)
  else if halted ∧ isLead s then (stopCopy (enter s 8 8 m), .detached)
  else if halted ∧ 4 ≤ s.twn.st ∧ s.twn.st ≤ 6 then (dropRx (enter s 7 3 m), .hold)
  else if s.twn.detachNow ∧ !isLead s ∧ s.twn.st ≠ 8 then
    (dropRx (enter { s with twn := { s.twn with detachNow := false } } 8 7 m), .detached)
  else match s.twn.st with
  | 1 => seatStep s
  | 2 => leadStep s m
  | 3 => leadStep s m
  | 4 => joinStep s m
  | 5 => shadowStep s m
  | 6 => shadowStep s m
  | 7 => lostStep s m
  | _ => detachedStep s

/-- 16 R426, R440: the shadow compares its digest with the bundle's, and enters LOCKED once it may. `m` is the tick it starts. -/
def digCompare (s : State) (m : Nat) (l : List Rec) : State :=
  let s := { s with twn := { s.twn with delay := min 255 (leadLtc s - m), rxb := s.twn.rxb.filter fun x => decide (m < x.1) } }
  if recDigest l = s.twn.dig then
    let s := { s with twn := { s.twn with agree := sat32 s.twn.agree } }
    if s.twn.st = 5 ∧ s.twn.delay = twD (twinB s) ∧ twLockN (twinB s) ≤ s.twn.agree then
      enter { s with twn := { s.twn with stage := 0 } } 6 9 m
    else s
  else dropRx { (enter s 7 4 m) with twn := { (enter s 7 4 m).twn with pairFault := true } }

/-- 16 R440: while CONFIRM stands beyond D the correction of the tick is -CMAX. -/
def glideFast (s : State) : State :=
  if s.twn.st = 5 ∧ twD (twinB s) < s.twn.delay then
    let d := - cMax s - s.clk.c
    { s with clk := { s.clk with c := - cMax s, len := ((s.clk.len : Int) + d).toNat, e := s.clk.e - d,
                                 phase := s.clk.phase.map fun p => p.map (· - d) } }
  else s

/-- A boundary ages what the twin counts in ticks; the frames of the tick that ended are off the link. -/
def twinAge (s : State) : State :=
  { s with twn := { s.twn with
      link := [], digEv := [], joinEv := false, beatAge := satAdd 1024 s.twn.beatAge 1, ackAge := satAdd 1024 s.twn.ackAge 1
      seatTicks := satAdd 131070 s.twn.seatTicks 1 } }

/-- 16 R427: a chip with a TWIN section is in SEAT from the apply point; its digest starts at zero (R425). -/
def twinApplyPoint (s : State) : State :=
  let s := { s with twn := { s.twn with dig := List.replicate 8 0 } }
  if hasTwin s then { s with twn := { s.twn with st := 1, seatTicks := 0 } } else { s with twn := { s.twn with st := 0 } }

end Sys2Proof.Machine
end

