-- ==== Sys2Proof/Machine/Reset.lean ====
section
/-! DEFINITION. Resets and what each keeps (18 R481, 20 R518), the boot flow up to the apply point (18 R482), what powering a domain up
or down does to the blocks it holds (17 R452, R541), safe-dark (17 R460, R461), the fallback display's start (18 R485), and the
boundary-scan port (19 R509). -/

namespace Sys2Proof.Machine

/-! ### Resets -/

/-- 17 R541: SRAM, TCM and vision memory become undefined, and DRAM is trained again before it is next read. -/
def memLose (s : State) : State :=
  let s := tcmLose (visLose ((List.range 8).foldl sramLose s))
  { s with mem := { s.mem with dram := [] } }

/-- The RW registers of one block. -/
def rwOf (s : State) (base : Nat) : Amap := s.rw.filter fun p => p.1 / 0x10000 == base / 0x10000

/-- 20 R518: the evidence that AON keeps of the watchdog. -/
def wdgKept (w : Wdg) : Wdg :=
  { evCount := w.evCount, pcv := w.pcv, evCause := w.evCause, evPc := w.evPc, evTc := w.evTc, evCyc := w.evCyc, evSvTc := w.evSvTc,
    evSv := w.evSv, outAt := w.outAt }

/-- 18 R481, 20 Table 20-2: every domain but AON and SAF starts again, at boot step 5, with RSTCAUSE.CAUSE `cause`. What it keeps is named
here; everything else takes its reset value. -/
def coreRestart (s : State) (cause : Nat) : State :=
  { State.reset with
    pending := s.pending
    free := s.free
    mem := { nvm := s.mem.nvm }
    clk := { aclk := s.clk.aclk, aon := s.clk.aon }
    pwr := { wakeCfg := s.pwr.wakeCfg, wakeCause := s.pwr.wakeCause, memGen := (memLose s).pwr.memGen }
    boot := { straps := s.boot.straps, benchLive := s.boot.benchLive, cause := cause, count := satAdd 255 s.boot.count 1, step := 5,
              at1 := s.boot.at1, brown := s.boot.brown }
    cal := { array := s.cal.array, otp := s.cal.otp }
    saf := s.saf
    wdg := wdgKept s.wdg
    twn := { ofs := s.twn.ofs, leadIn := s.twn.leadIn }
    tsq := { tc := pat 64 (- s.twn.ofs) }
    dbg := { reply := s.dbg.reply }
    tap := s.tap
    rw := rwOf s Base.saf }

/-- A reset other than PORST_N: Aperture fires CORERESET, and the core restarts. -/
def resetCore (s : State) (cause : Nat) : State := coreRestart (coreReset s) cause

/-- 18 R481, 21 R522: PORST_N is asserted: everything is at its reset value, the non-volatile arrays and the level of LEAD_IN apart. -/
def porstHold (s : State) : State :=
  { State.reset with
    pending := s.pending
    free := s.free
    mem := { nvm := s.mem.nvm }
    pwr := { memGen := (memLose s).pwr.memGen }
    cal := { array := s.cal.array }
    twn := { leadIn := s.twn.leadIn } }

/-- Boot steps 1 to 4 (18 R482): PORST_N releases; the straps and the OTP are latched and Aperture arms. `fuses` are bits of the OTP array
that were blown outside the machine, which programs what firmware asks for. -/
def porstRelease (s : State) (straps : BitVec 4) (fuses : Bytes) : State :=
  let s := porstHold s
  let otp := (List.range 512).map fun i => lget s.cal.array i 0 ||| lget fuses i 0
  let s := { s with
    cal := { s.cal with array := otp, otp := otp }
    boot := { s.boot with straps := straps.toNat, benchLive := bitAt straps.toNat 3, step := 5 } }
  safArm s

/-- 21 R522: VAON is out of range, and with it AON and SAF are off until PORST_N releases. -/
def vaonLow (s : State) : State :=
  let s := porstHold s
  { s with pwr := { s.pwr with doms := s.pwr.doms.map fun d => { d with phase := .off } } }

/-- The core is held and PLL0 does not start: a brown-out, EXTEST, or safe-dark. -/
def coreHeld (s : State) : Bool := s.boot.brown || s.tap.extest || s.pwr.deep || !domOn s 0

/-- Boot step 5 (18 R482): PLL0 has locked. MCLK and the tick timebase run, and domains 4 to 8 and 12 are to come up. -/
def pll0Locked (s : State) : State :=
  if coreHeld s ∨ s.clk.on then s
  else
    let s := { s with clk := { s.clk with on := true } }
    let s := modDom s 2 fun x => { x with phase := .on, ups := satAdd 4095 x.ups 1 }
    [4, 5, 6, 7, 8, 12].foldl cmdUp s

/-- Boot steps 6 and 7: the boot ROM runs once its domains are on, a watchdog that WDGHW starts runs, and the image is fetched. -/
def bootRom (s : State) : State :=
  if s.boot.step = 5 ∧ domsOn s [2, 4, 5, 6, 7, 8, 12] then
    let s := { s with boot := { s.boot with step := 6 }, wdg := { s.wdg with run := s.wdg.run || wdgHw s } }
    startSources s
  else s

/-! ### Domains that come up and go down (17 R452, R454, R455, R541) -/

/-- Firmware's words in [lo, hi) go back to their reset values. -/
def rwClear (s : State) (lo hi : Nat) : State := { s with rw := s.rw.filter fun p => !(decide (lo ≤ p.1) && decide (p.1 < hi)) }

/-- FAB slice 1: the DMC's common registers and MIG. No DRAM domain is on without it. -/
def upDmc (s : State) : State :=
  drammapApply (rwClear { s with dmc := { cover := s.dmc.cover } } Base.dmc (Base.dmc + 0x10000))

/-- FAB slice 2: the common registers of LSE, PSO and SRV, the dose accounts and the write job. -/
def upLight (s : State) : State :=
  let s := rwClear (rwClear (rwClear s Base.lse (Base.lse + 0x10000)) Base.pso (Base.pso + 0x10000)) Base.srv (Base.srv + 0x10000)
  let keep : Srv := { drv := s.srv.drv, parked := s.srv.parked, owner := s.srv.owner, park0 := s.srv.park0, parkEv := s.srv.parkEv }
  { s with lse := {}, pso := {}, srv := keep, shown := { s.shown with lse := {}, pso := {}, srv := {} } }

/-- FAB slice 3: the common registers of Loupe and of the chain. -/
def upStreams (s : State) : State :=
  let s := rwClear (rwClear s Base.lpe (Base.lpe + 0x10000)) Base.chn (Base.chn + 0x10000)
  let c := s.chn
  { s with lpe := {}, chn := { boot := c.boot, total := c.total, got := c.got, reqAt := c.reqAt, doneDue := c.doneDue }
           shown := { s.shown with lpe := {} } }

/-- The fetch unit of engine `e`. -/
def upFetch (s : State) (e : Nat) : State :=
  { s with pso := { s.pso with eng := lmod s.pso.eng e fun _ => {} }
           shown := { s.shown with pso := { s.shown.pso with eng := lmod s.shown.pso.eng e fun _ => {} } } }

/-- The LSE slice of engine `e`: its tracker starts at PNOM. -/
def upTiming (s : State) (e : Nat) : State :=
  { s with lse := { s.lse with eng := lmod s.lse.eng e fun _ => { p := scPnom s e } }
           shown := { s.shown with lse := { s.shown.lse with eng := lmod s.shown.lse.eng e fun _ => { p := scPnom s e } } } }

/-- The port of engine `e`: its beam lanes start, and a plane port sends its training pattern (09 R255, R259). -/
def upPort (s : State) (e : Nat) : State :=
  let s := modPso s e fun x => { x with laneAt := some s.clk.mclk }
  if engKind s e = 1 then
    trainPort (modPso s e fun x => { x with commitPend := false, flip := false, later := [], laterAll := false }) e s.tsq.tc s.clk.cyc
  else s

/-- 09 R261: the plane and beam balls of the port are high-impedance; nothing is on its wire. -/
def downPort (s : State) (e : Nat) : State :=
  modPso s e fun x => { x with laneAt := none, trained := false, wire := 0, regEnd := 0, out := [], commitWin := none, pushWin := none }

/-- The contexts of the Loupe pipeline. -/
def upPipeline (s : State) : State :=
  { s with lpe := { s.lpe with ctx := List.replicate 8 {}, ctxLast := none }
           shown := { s.shown with lpe := { s.shown.lpe with ctx := List.replicate 8 {}, ctxLast := none } } }

/-- Chain port `p`. -/
def upChain (s : State) (p : Nat) : State := modPort s p fun _ => {}

/-- The twin's link layer: its counters, rings and streams start again. The seat does not move. -/
def upTwin (s : State) : State :=
  let t := s.twn
  let s := rwClear s Base.twn (Base.twn + 0x10000)
  { s with twn := { t with up := false, downs := 0, uncorr := 0, corr := 0, late := 0, overflow := 0, resent := 0, naks := 0, theta := 0,
                           rxHead := 0, txHead := 0, digSn := List.replicate 8 0, unsent := [], keep := [], link := [], rxb := [], rxs := [],
                           held := [], txBeat := [], rxBeat := [] } }

/-- CAL: its registers start again and its tables are loaded from the record copies. -/
def upCal (s : State) : State :=
  let c := s.cal
  let s := rwClear s Base.cal (Base.cal + 0x10000)
  recStatus { s with cal := { array := c.array, otp := c.otp, live := c.live, die := c.die, ofs := c.ofs, gain := c.gain, dieStale := c.dieStale } }

/-- DBG: its breakpoints and selectors. -/
def upDbg (s : State) : State := rwClear { s with dbg := { s.dbg with cause := 0 } } Base.dbg (Base.dbg + 0x10000)

/-- 17 R452: what a domain that comes up starts with. `kept` says that its memory was at retention. -/
def domainUpEffect (s : State) (d : Nat) (kept : Bool) : State :=
  if d = 3 then { s with clk := { s.clk with pll1 := true } }
  else if d = 8 then { s with latch := [], staged := [] }
  else if d = 9 then upDmc s
  else if d = 10 then upLight s
  else if d = 11 then upStreams s
  else if 12 ≤ d ∧ d ≤ 19 then (if kept then s else sramLose s (d - 12))
  else if 28 ≤ d ∧ d ≤ 39 then
    let e := (d - 28) / 3
    (if (d - 28) % 3 = 0 then upFetch s e else if (d - 28) % 3 = 1 then upTiming s e else upPort s e)
  else if 40 ≤ d ∧ d ≤ 43 then srvSliceUp s d
  else if d = 44 ∨ d = 45 then modRx s (d - 44) fun _ => {}
  else if d = 46 then upPipeline s
  else if d = 48 then { s with lpe := { s.lpe with mapNext := none, recs := [], map := none, mapWas := none } }
  else if d = 49 then visLose s
  else if d = 52 ∨ d = 53 then upChain s (d - 52)
  else if d = 56 then upTwin s
  else if d = 58 then upCal s
  else if d = 59 then upDbg s
  else if d = 62 ∨ d = 63 then srvConvUp s d
  else s

/-- 17 R454, R455: what a domain loses when its switch opens. -/
def domainDownEffect (s : State) (d : Nat) : State :=
  if d = 2 then { s with clk := { s.clk with on := false, pll1 := false } }
  else if d = 3 then { s with clk := { s.clk with pll1 := false } }
  else if 28 ≤ d ∧ d ≤ 39 ∧ (d - 28) % 3 = 2 then downPort s ((d - 28) / 3)
  else if 50 ≤ d ∧ d ≤ 53 then portDown s ((d - 50) % 2)
  else if 54 ≤ d ∧ d ≤ 56 then (if s.twn.up then twinDown s else s)
  else if d = 59 then dbgEnd s
  else if d = 62 ∨ d = 63 then srvConvDown s d
  else s

/-- What goes on once a domain has settled: the way down of other domains, the plan, the apply of a base image. -/
def powerGoes (s : State) : State := applyCheck (bootRom (downStep (planStep s false)))

/-- 19 R497, R499: a CONNECT that waits for domain 59 is answered. -/
def connectReady (s : State) : State :=
  if s.dbg.connWait ∧ domOn s 59 then
    sdpReply { s with dbg := { s.dbg with conn := true, connWait := false } } 1 0 0xFF []
  else s

/-- 17 R452 step 5: the domain is fully on; a down command that waited takes effect. -/
def domainFullyOn (s : State) (d : Nat) : State :=
  let x := domAt s d
  if x.phase ≠ .powering then s
  else
    let kept := s.pwr.retained.contains d
    let s := modDom s d fun x => { x with phase := .on }
    let s := { s with pwr := { s.pwr with retained := s.pwr.retained.filter (· != d) } }
    let s := domainUpEffect s d kept
    let s := if x.queued = 2 then cmdDown (modDom s d fun x => { x with queued := 0 }) d else s
    connectReady (powerGoes s)

/-- 17 R454: the power switch has opened: the domain is off, or at retention, and a command that waited starts. -/
def powerSwitchOpen (s : State) (d : Nat) : State :=
  let x := domAt s d
  if x.phase = .isolate ∧ x.opening then
    let keep := domRetain s d && !x.quick
    let s := modDom s d fun x => { x with phase := if keep then .retain else .off, opening := false, want := x.queued == 1, queued := 0 }
    let s := if keep then { s with pwr := { s.pwr with retained := d :: s.pwr.retained } } else s
    powerGoes (domainDownEffect s d)
  else s

/-- 17 R456: power-good of a domain that is fully on has failed. -/
def powerGoodFailed (s : State) (d : Nat) : State :=
  if domOn s d then startDown (modDom s d fun x => { x with fault := true }) d true else s

/-! ### Safe-dark (17 R460, R461) -/

/-- A write of SYS_DEEP. -/
def deepWrite (s : State) (v : Nat) : State :=
  if bits v 31 16 = 0xDEE9 ∧ bitAt v 0 ∧ !s.pwr.deep then
    let s := fire s 12 0 0 0
    let down := idxWhere 64 fun d => decide (2 ≤ d) && !domIsOff (domAt s d)
    let quiet (x : Dom) : Dom := { x with want := false, queued := 0 }
    let s := { s with pwr := { s.pwr with deep := true, deepAt := s.clk.aon, planSt := if s.pwr.planSt = 0 then 0 else 5
                                          planLeft := [], doms := s.pwr.doms.map quiet } }
    downStep { s with pwr := { s.pwr with downLeft := down } }
  else s

/-- A wake from safe-dark other than PORST_N and RESET_N. -/
def wake (s : State) (cause : Nat) : State :=
  let s := coreRestart s 5
  { s with pwr := { s.pwr with wakeCause := cause } }

/-- A RESET_N release. In safe-dark it is a wake. -/
def resetN (s : State) : State :=
  if !domOn s 0 then s
  else if s.pwr.deep then wake (coreReset s) 1
  else resetCore s 1

def wakeTimerNow (s : State) : State :=
  let n := bits s.pwr.wakeCfg 19 0
  if s.pwr.deep ∧ bitAt s.pwr.wakeCfg 31 ∧ n ≠ 0 ∧ s.pwr.deepAt + n * 1000000 ≤ s.clk.aon then wake s 2 else s

def wakeGp0Now (s : State) : State := if s.pwr.deep ∧ bitAt s.pwr.wakeCfg 30 then wake s 3 else s

/-! ### Brown-out (21 R522) -/

def brownOut (s : State) : State :=
  if s.boot.brown ∨ !domOn s 0 then s
  else let s := resetCore s 1; { s with boot := { s.boot with brown := true } }

def railsBack (s : State) : State := { s with boot := { s.boot with brown := false } }

/-! ### Training and the fallback display (18 R482, R485) -/

/-- The servo loops that are gated on a channel of engine `e`. -/
def gatedLoops (s : State) (e : Nat) : List Nat :=
  idxWhere 16 fun l =>
    let c := loopB (srvB s) l
    lpEn c && (match lpGate c with | some n => n / 4 == e | none => false)

/-- 18 Table 18-8: the domains of the L1 set. -/
def l1Doms (s : State) : List Nat :=
  let e := fallbackEng s
  let loops := gatedLoops s e
  [0, 1, 2, 4, 5, 6, 7, 8, 10, 12, 28 + 3 * e, 29 + 3 * e, 30 + 3 * e] ++ loops.map (fun l => 40 + l / 4) ++
    loops.map (fun l => snsDom (lpSns (loopB (srvB s) l))) ++
    loops.flatMap fun l => match lpDrv (loopB (srvB s) l) with | some d => [drvDom d] | none => []

/-- The fallback display starts: its domains come up, the others go down, and its port and loops start as at an apply point. -/
def fallbackStart (s : State) : State :=
  let l1 := l1Doms s
  let b : Boot := { s.boot with fallback := true, hkpRun := true }
  let s : State := { s with boot := b }
  let s := l1.foldl (fun s d => if domOn s d then s else cmdUp s d) s
  let down := idxWhere 64 fun d => !l1.contains d && !domIsOff (domAt s d)
  let s := downStep { s with pwr := { s.pwr with downLeft := down } }
  wholePush (srvApplyPoint s) (fallbackEng s) s.tsq.tc

/-- Boot step 10 ends (07 R209, R210): the next boundary is the apply point, or the fallback display starts, or the head stays at L0. -/
def bootTrained (s : State) (bad : Byte) (rfm : List (Nat × Nat)) : State :=
  if s.fld.st = 5 ∧ !s.tsq.run ∧ !s.tsq.applyNext ∧ !s.boot.fallback ∧ !(dramDoms s).isEmpty then
    let s := trainDone s bad rfm
    if !s.dmc.trainFail then { s with tsq := { s.tsq with applyNext := true } }
    else if trimOk s ∧ engKind s (fallbackEng s) = 1 then fallbackStart s
    else s
  else s

/-! ### The boundary-scan port (19 R509) -/

/-- EXTEST takes effect only on an unlocked part with BENCH_N low. -/
def extestAllowed (s : State) : Bool := benchLow s && !dbgLock s

/-- 00 R1, 19 R509: the data register that instruction `ir` puts between TDI and TDO, as Capture-DR loads it: IDCODE's word, or BYPASS's one
bit of 0, which a code without a meaning selects too, and EXTEST where it is not allowed. EXTEST's and SAMPLE's is the boundary register, whose
cells the spec does not list (assumption log entry 156). -/
def tapData (s : State) (ir : BitVec 4) : Option (Nat × Nat) :=
  if ir = 1 then some (32, idCode)
  else if ir = 2 ∨ (ir = 0 ∧ extestAllowed s) then none
  else some (1, 0)

/-- A new instruction: a code without a meaning acts as BYPASS. -/
def tapLoad (s : State) (ir : BitVec 4) : State :=
  let ext := ir == 0 && extestAllowed s
  if ext ∧ !s.tap.extest then
    let s := resetCore s 3
    { s with tap := { ir := ir, extest := true } }
  else { s with tap := { ir := ir, extest := ext } }

end Sys2Proof.Machine
end

