-- ==== Sys2Proof/Machine/Regs.lean ====
section
/-! DEFINITION. The register windows: what a read of each register returns and what a write does (00 R4 to R14, 20 R513 to R518), the
high-word latches, the staged high words, the snapshots and the mailbox's push. A register belongs to the block whose window its
address lies in; the block's own chapter gives its fields. -/

namespace Sys2Proof.Machine

/-! ### Masks of the plain RW fields -/

/-- The part of a register that is plain storage (access code RW): its mask and reset value, by block number (the row of 00 Table 0-6)
and offset. A field whose value lives elsewhere in the state, or whose write has an effect of its own, is not in the table. -/
def rwField (blk off : Nat) : Nat × Nat :=
  match blk, off with
  | 0, 0x128 => (0x3F, 0) | 0, 0x214 => (0xFFFFFFFF, 0) | 0, 0x218 => (0x7FF, 0) | 0, 0x220 => (0x1FF, 0) | 0, 0x22C => (0x3F, 0)
  | 0, 0x240 => (0xFFFF1FFF, 0) | 0, 0x244 => (0xFFFFFF, 0) | 0, 0x248 => (0xFFFFFFFC, 0)
  | 2, 0xA0 => (0x3F, 0) | 2, 0x108 => (0x3F, 0)
  | 3, 0x04 => (0xFF, 0x40) | 3, 0x08 => (0x3F, 0) | 3, 0x40 => (0x71F, 0) | 3, 0x80 => (0x1F, 0) | 3, 0x84 => (0xFFFFFFE0, 0)
  | 3, 0x88 => (0xFFFF, 0)
  | 3, o => if 0xA0 ≤ o ∧ o ≤ 0xB8 ∧ o % 4 = 0 then (0xFFFFFFFF, 0) else (0, 0)
  | 4, 0x04 => (0x3F, 0) | 4, 0x224 => (0x1F, 0)
  | 5, 0x00 => (0x30000, 0)
  | 6, 0x04 => (0xFFF, 0) | 6, 0x420 => (0x3F, 0) | 6, 0x490 => (0x1F0F, 0)
  | 7, 0x00 => (0xF00, 0)
  | 8, 0x00 => (0x30700, 0)
  | 9, 0x10 => (0xFFFFFFC0, 0) | 9, 0x20 => (0xFFFFFFC0, 0) | 9, 0x14 => (0xFFFF1FFF, 0) | 9, 0x24 => (0xFFFF1FFF, 0)
  | 9, 0x1C => (0xFFFFFFFF, 0) | 9, 0x2C => (0xFFFFFFFF, 0) | 9, 0x30 => (0xFFFFFFFF, 0) | 9, 0x34 => (0xFFFFFFFF, 0)
  | 9, 0x38 => (0x8000FFFF, 0)
  | 10, 0x34 => (0xFFFFFFC0, 0) | 10, 0x38 => (0xFFFFFFC0, 0) | 10, 0x3C => (0x1FFF1FFF, 0) | 10, 0x64 => (0xFFFFFFFF, 0)
  | 10, 0x6C => (0xFFFFFFFF, 0)
  | 11, 0x04 => (0xFFFFFFC0, 0) | 11, 0x18 => (0x1FC, 0) | 11, 0x50 => (0x1F, 0)
  | 12, 0x2C => (0x3, 0) | 12, 0x30 => (0xF, 0) | 12, 0x38 => (0xF, 0) | 12, 0x70 => (0xF, 0)
  | 13, 0x10 => (0xFFFFFFFF, 0xFFFFFFFF) | 13, 0x14 => (0xFFFFFFFF, 0) | 13, 0x18 => (0xFFFFFFFF, 0)
  | 14, 0x10 => (0xFFFFFFFF, 0) | 14, 0x14 => (0xFFFFFFFF, 0) | 14, 0x18 => (0xFFFFFFFF, 0) | 14, 0x1C => (0xFFFFFFFF, 0)
  | 14, 0x20 => (0xFFFFFFFF, 0) | 14, 0x24 => (0xFFFFFFFF, 0) | 14, 0x28 => (0xC0001FFF, 0) | 14, 0x30 => (0x3F, 0)
  | 15, 0x00 => (0x7, 0) | 15, 0x04 => (0xFFFFFFC0, 0x10100000) | 15, 0x1C => (0xFFFFFFC0, 0)
  | _, _ => (0, 0)

/-- The block of a register window, by the row of 00 Table 0-6. -/
def blkOf (addr : Nat) : Nat := addr / 0x10000 % 16

/-- What the plain RW fields of a register hold. -/
def rwPart (s : State) (addr : Nat) : Nat :=
  let f := rwField (blkOf addr) (addr % 0x10000)
  if f.1 = 0 then 0 else rwGet s addr f.2 &&& f.1

/-- A write of them. -/
def rwStore (s : State) (addr v : Nat) : State :=
  let f := rwField (blkOf addr) (addr % 0x10000)
  if f.1 = 0 then s else rwPut s addr (v &&& f.1)

/-! ### Reads -/

/-- SYS_STATE (01 Table 1-9): the levels and the role as they stood at the last boundary, DARK live. -/
def sysState (s : State) : Nat :=
  let z := s.shown
  let st := z.twn.st
  let level := if !trimOk s then 0 else if z.tsq.run then (if st = 3 ∨ st = 5 ∨ st = 6 then 3 else 2) else if z.boot.fallback then 1 else 0
  let role := if st = 0 then 0 else if st = 1 ∨ st = 8 then 3 else if st = 2 ∨ st = 3 then 1 else 2
  level * 32 + role * 8 + b2n s.saf.dark * 4 + z.tsq.set

/-- The SYS registers. -/
def sysRead (s : State) (off : Nat) : Nat :=
  match off with
  | 0x00 => 0x4E462460
  | 0x04 => revId
  | 0x08 => 0x00122244
  | 0x0C => sysState s
  | 0x240 => b2n s.pins.flBusy * 2 ^ 15 + b2n s.pins.flBusy * 2 ^ 14
  | _ => if 0x100 ≤ off ∧ off < 0x140 then pwrRead s off else pinsRead s off

/-- The TSQ registers (02 R68, 04 R120) for source port `src`. -/
def tsqRead (s : State) (src off : Nat) : Nat :=
  let z := s.shown.tsq
  let lo (v : Nat) := v % 2 ^ 32
  let hi (v : Nat) := v / 2 ^ 32 % 2 ^ 32
  let sched (n : Nat) := secB s Ty.sched n
  match off with
  | 0x00 => if s.fld.applied then fTick s * 2 ^ 16 + frameLen s else 0
  | 0x04 => if s.fld.applied then nSlot s * 2 ^ 16 + srvMax s else 0
  | 0x08 => if s.fld.applied then darkStart s * 2 ^ 16 + darkLen s else 0
  | 0x0C => z.lastLen
  | 0x10 => s.tsq.guardMin
  | 0x14 => if z.run then framePhase s (z.tc - 1) else 0
  | 0x18 => z.degrCause
  | 0x1C => b2n z.clean
  | 0x20 => lo (tcReg { s with tsq := z, twn := s.shown.twn })
  | 0x24 => hi (tcReg { s with tsq := z, twn := s.shown.twn })
  | 0x28 => lo z.degrCnt
  | 0x2C => hi z.degrCnt
  | 0x30 => lo z.lastDegr
  | 0x34 => hi z.lastDegr
  | 0x38 => lo z.cleanFrom
  | 0x3C => hi z.cleanFrom
  | 0x40 => z.age * 2 ^ 21 + (if s.shown.dmc.fspLeft ≠ 0 then 2 else z.fsp) * 2 ^ 16 + z.prev * 2 ^ 10 + z.set * 2 ^ 8
  | 0x94 => s.tsq.mbox.length * 2 ^ 8 + alook s.tsq.last src
  | 0x98 => s.tsq.drop
  | 0xA4 => z.resTotal
  | 0x100 => b2n z.pend * 2 ^ 31 + z.seq
  | 0x104 => z.ack
  | 0x10C => z.flogTotal
  | 0x158 => (List.range 4).foldl (fun a e => a + lget z.starve e 0 * 2 ^ (8 * e)) 0
  | _ =>
    if 0x48 ≤ off ∧ off < 0x58 then
      let n := (off - 0x48) / 4
      if hasSec s Ty.sched n then lget s.tsq.base n 0 * 2 ^ 16 + schedEntry (sched n) else 0
    else if 0x58 ≤ off ∧ off < 0x68 then (let n := (off - 0x58) / 4; if hasSec s Ty.sched n then schedWords (sched n) else 0)
    else if 0x80 ≤ off ∧ off < 0x90 then alook s.tsq.stage (4 * src + (off - 0x80) / 4)
    else if 0xB0 ≤ off ∧ off < 0xC0 then lget s.tsq.mres ((off - 0xB0) / 4) 0
    else if 0x110 ≤ off ∧ off < 0x128 then lget s.tsq.flogSn ((off - 0x110) / 4) 0
    else if 0x140 ≤ off ∧ off < 0x158 then lget z.fcnt ((off - 0x140) / 4) 0
    else 0

/-- What each block shows at an offset beside its plain RW fields. -/
def blockRead (s : State) (src blk off : Nat) : Nat :=
  match blk with
  | 0 => sysRead s off
  | 1 => clkRead s.shown.clk s.clk (offers { s with twn := s.shown.twn, clk := s.shown.clk }) off
  | 2 => tsqRead s src off
  | 3 => fabRead s off
  | 4 => dmcRead s off
  | 5 => psoRead s off
  | 6 => lseRead s off
  | 7 => srvRead s off
  | 8 => lpeRead s off
  | 9 => chnRead s off
  | 10 => twnRead s off
  | 11 => calRead s off
  | 12 => if off = 0x10 then s.saf.ena else safRead s off
  | 13 => wdgRead s off
  | 14 => dbgRead s off
  | _ => fldRead s off

/-- The place of a block's SNAP bit in its register at offset 0 (00 R12). -/
def snapBit (s : State) (blk : Nat) : Nat :=
  if snapRuns s blk then
    (if blk = 15 then 32 else if 5 ≤ blk ∧ blk ≤ 8 then 2 else 0)
  else 0

/-- The value of the register at `addr` as a whole. -/
def regValue (s : State) (src addr : Nat) : Nat :=
  let blk := blkOf addr
  let off := addr % 0x10000
  (rwPart s addr ||| blockRead s src blk off ||| (if off = 0 then snapBit s blk else 0)) % 2 ^ 32

/-- Whether the register at `addr` is the low word of a 64-bit pair with codes RS and RL. -/
def isWideLow (addr : Nat) : Bool :=
  let off := addr % 0x10000
  match blkOf addr with
  | 1 => off == 0x20
  | 2 => off == 0x20 || off == 0x28 || off == 0x30 || off == 0x38
  | 4 => decide (0x100 ≤ off ∧ off < 0x200) && ((off - 0x100) % 0x40 == 0x10 || (off - 0x100) % 0x40 == 0x18)
  | 5 => decide (0x100 ≤ off ∧ off < 0x200) && (off - 0x100) % 0x40 == 8
  | 9 => decide (0x100 ≤ off ∧ off < 0x180) && ((off - 0x100) % 0x40 == 8 || (off - 0x100) % 0x40 == 0x10)
  | 10 => off == 0x10 || off == 0x18
  | 12 => off == 0x58
  | 13 => off == 0x28 || off == 0x34
  | 14 => off == 0x38
  | _ => false

/-- The key under which a source keeps something of a register. -/
def srcKey (src addr : Nat) : Nat := 2 ^ 32 * src + addr

/-- A read of the register at `addr` by source port `src` (00 R9, R10): the low word of a pair latches the high word for that source, and
the high word shows what it latched. A read of CAL_NVMDATA moves CAL_NVMADDR on (12 R337). -/
def regRead (s : State) (src addr : Nat) : Nat × State :=
  if isWideLow addr then
    (regValue s src addr, { s with latch := aset s.latch (srcKey src (addr + 4)) (regValue s src (addr + 4)) })
  else if 4 ≤ addr ∧ isWideLow (addr - 4) then (alook s.latch (srcKey src addr), s)
  else if addr = Base.cal + 0x78 then (regValue s src addr, nvmNext s)
  else (regValue s src addr, s)

/-! ### The snapshots (00 R12, R13) -/

/-- What a block copies. -/
def snapCopy (s : State) (blk : Nat) : State :=
  match blk with
  | 5 => psoSnap s
  | 6 => lseSnap s
  | 7 => srvSnap s
  | 8 => lpeSnap s
  | 10 => twnSnap s
  | 15 => { s with fld := { s.fld with snHash := s.fld.cfgHash } }
  | _ => s

/-- A SNAP write: ignored while the block's copy runs. -/
def snapWrite (s : State) (blk : Nat) : State :=
  if snapRuns s blk then s else { snapCopy s blk with snapBusy := (blk, s.clk.mclk) :: s.snapBusy.filter fun x => x.1 != blk }

/-- The copy is complete and SNAP reads 0. -/
def snapDone (s : State) (blk : Nat) : State := { s with snapBusy := s.snapBusy.filter fun x => x.1 != blk }

/-! ### The mailbox (04 R108, R109) -/

/-- The word `n` of a source's staged entry. -/
def stagedWord (s : State) (src n : Nat) : Nat := alook s.tsq.stage (4 * src + n)

/-- Why a push is refused: 1 FULL, 2 BAD_OP, 3 SHADOW_ROLE; 0 where it is accepted. -/
def mboxRefusal (s : State) (src : Nat) : Nat :=
  let op := bits (stagedWord s src 0) 31 24
  if 32 ≤ s.tsq.mbox.length then 1 else if op = 0 ∨ 6 < op then 2 else if isShadow s then 3 else 0

/-- The stamp of an accepted push: no two entries carry the same. -/
def mboxStamp (s : State) : Nat :=
  match s.tsq.mbox.getLast? with
  | some e => max s.clk.cyc (e.stamp + 1)
  | none => s.clk.cyc

/-- A push of the source's staged entry, and the completion status. -/
def mboxPush (s : State) (src : Nat) : State × Nat :=
  let why := mboxRefusal s src
  let last := aset s.tsq.last src why
  if why ≠ 0 then ({ s with tsq := { s.tsq with last := last, drop := sat32 s.tsq.drop } }, 6)
  else
    let e : MboxEntry := { stamp := mboxStamp s, src := src, w := (List.range 4).map (stagedWord s src) }
    let s := { s with tsq := { s.tsq with last := last, mbox := s.tsq.mbox ++ [e] } }
    (if bits (stagedWord s src 0) 31 24 = 2 then { s with fld := { s.fld with applyPend := s.fld.applyPend + 1 } } else s, 0)

/-- A write of TSQ_MRESSEL copies a result, one of TSQ_FLOGSEL a fault record (04 R120). -/
def mresSel (s : State) (v : Nat) : State :=
  let z := s.shown.tsq
  { s with tsq := { s.tsq with mres := mresWords (ringAt z.res z.resTotal 64 (v % 64)) } }

def flogSel (s : State) (v : Nat) : State :=
  let z := s.shown.tsq
  { s with tsq := { s.tsq with flogSn := flogWords (ringAt z.flog z.flogTotal 64 (v % 64)) } }

/-! ### Writes -/

/-- The key of a field in bits [31:16]. -/
def keyIs (v k : Nat) : Bool := bits v 31 16 == k

def sysWrite (s : State) (off v : Nat) : State :=
  match off with
  | 0x118 => pwrCmd s v (dbgLock s)
  | 0x120 => planGo s v
  | 0x12C => if bitAt v 27 then modDom s (rwGet s (Base.sys + 0x128) 0) fun d => { d with fault := false } else s
  | 0x130 => deepWrite s v
  | 0x134 => { s with pwr := { s.pwr with wakeCfg := v &&& 0xE00FFFFF } }
  | 0x208 => if keyIs v 0x5E7A && bitAt v 0 then resetCore s 4 else s
  | 0x240 =>
    if s.pins.flBusy then s
    else
      let s := rwStore s (Base.sys + off) v
      if bitAt v 15 then { s with pins := { s.pins with flBusy := true } } else s
  | _ => rwStore s (Base.sys + off) v

/-- A write of a TSQ register, and the completion status. -/
def tsqWrite (s : State) (src off v : Nat) : State × Nat :=
  match off with
  | 0x10 => (if bitAt v 31 then { s with tsq := { s.tsq with guardMin := 0x1FFFFF } } else s, 0)
  | 0x18 =>
    ({ s with tsq := { s.tsq with degrCause := clrMask s.tsq.degrCause (v % 32) }
              shown := { s.shown with tsq := { s.shown.tsq with degrCause := clrMask s.shown.tsq.degrCause (v % 32) } } }, 0)
  | 0x90 => if bitAt v 0 then mboxPush s src else (s, 0)
  | 0xA0 => (mresSel (rwStore s (Base.tsq + off) v) v, 0)
  | 0x108 => (flogSel (rwStore s (Base.tsq + off) v) v, 0)
  | _ =>
    if 0x80 ≤ off ∧ off < 0x90 then ({ s with tsq := { s.tsq with stage := aset s.tsq.stage (4 * src + (off - 0x80) / 4) v } }, 0)
    else (s, 0)

def lseWrite (s : State) (off v : Nat) : State :=
  match off with
  | 0x00 =>
    let s := if bitAt v 2 then lseClrMax s else s
    if bitAt v 1 then snapWrite s 6 else s
  | 0x420 => frselWrite s v
  | 0x490 => colselWrite s v
  | _ => rwStore s (Base.lse + off) v

/-- The registers whose write does nothing but store and, with bit 1, take a snapshot. -/
def snapCtlWrite (s : State) (addr blk v : Nat) : State :=
  let s := rwStore s addr v
  if addr % 0x10000 = 0 ∧ bitAt v 1 then snapWrite s blk else s

def chnWrite (s : State) (off v : Nat) : State :=
  let s := rwStore s (Base.chn + off) v
  if off = 0x2C then txPump s
  else if off = 0x30 ∨ off = 0x34 ∨ off = 0x38 then ptpForget s
  else s

def twnWrite (s : State) (off v : Nat) : State :=
  if off = 0 then (let s := twnCtlWrite s v; if bitAt v 5 then snapWrite s 10 else s)
  else
    let s := rwStore s (Base.twn + off) v
    if off = 0x6C then fwPump s else s

def calWrite (s : State) (off v : Nat) : State :=
  match off with
  | 0x00 => if bitAt v 0 then importStart s else s
  | 0x0C => if bitAt v 25 then { s with cal := { s.cal with progErr := false } } else s
  | 0x1C => rwPut s (Base.cal + off) v
  | 0x20 => otpProg s v
  | 0x50 => ratioSel s v
  | 0x74 => { s with cal := { s.cal with nvmAddr := v &&& 0x1FFFC } }
  | _ => rwStore s (Base.cal + off) v

/-- A write of an Aperture register. `lat` is the latency that TEST measures. -/
def safWrite (s : State) (off v lat : Nat) : State :=
  match off with
  | 0x08 => if keyIs v 0xA9E2 && bitAt v 0 then { s with saf := { s.saf with rearmReq := true } } else s
  | 0x0C => if keyIs v 0xDA2C && bitAt v 0 then fire s 12 0 0 0 else s
  | 0x10 => { s with saf := { s.saf with ena := v % 65536 } }
  | 0x20 => if keyIs v 0x7E57 then testFire s (v % 16) lat else s
  | 0x2C => zoneSel s v
  | 0x30 => logSel s v
  | _ => rwStore s (Base.saf + off) v

/-- A bite of the watchdog: its evidence, then the reset of the core (19 R493). -/
def bite (s : State) (cause pc : Nat) : State := resetCore (wdgEvidence s cause pc) 2

/-- A write of a WDG register from a port, with the PC that a bite would capture. -/
def wdgWrite (s : State) (src off v pc : Nat) : State × Nat :=
  match off with
  | 0x00 => if src ≤ 1 then (wdgCtl s v, 0) else (s, 6)
  | 0x04 =>
    if src = 0 then (let r := wdgKey s v; (if r.2 = 0 then r.1 else bite r.1 r.2 pc, 0)) else (s, 0)
  | 0x08 =>
    ({ s with wdg := { s.wdg with warned := s.wdg.warned && !bitAt v 29, cfgErr := s.wdg.cfgErr && !bitAt v 26 } }, 0)
  | _ => (rwStore s (Base.wdg + off) v, 0)

/-- A write of a DBG register: only the serial debug port writes here (19 R500). -/
def dbgWrite (s : State) (src off v : Nat) (view : List Nat) : State × Nat :=
  if src ≠ 1 then (s, 6)
  else match off with
    | 0x00 => (dbgCmd s v view, 0)
    | 0x34 => (hkpPoke s v, 0)
    | _ => (rwStore s (Base.dbg + off) v, 0)

def fldWrite (s : State) (off v : Nat) : State × Nat :=
  match off with
  | 0x00 =>
    let s := rwStore s Base.fld v
    let s := if bitAt v 5 then snapWrite s 15 else s
    (if bitAt v 4 then fldStartNow s (v % 8) else s, 0)
  | 0x18 => (svBump s v, 0)
  | 0x20 => let r := hotCtl s v; (r.1, if r.2 then 0 else 6)
  | _ => (rwStore s (Base.fld + off) v, 0)

/-- What a write can need from outside the chip: Aperture's test latency, the PC at a bite and the HKP's registers where it stops. -/
structure Outside where
  lat : Nat
  pc : Nat
  view : List Nat
  deriving DecidableEq, Repr

/-- Where the command that writes brings none of it, each is a free value. -/
def freeOutside (s : State) : Outside :=
  { lat := Config.freeNat s.free % 65536, pc := Config.freeNat (s.free + 1) % 2 ^ 32
    view := (List.range 33).map fun i => Config.freeNat (s.free + 2 + i) % 2 ^ 32 }

/-- The free values of one write have been used. -/
def useOutside (s : State) : State := { s with free := s.free + 35 }

/-- A write of the register at `addr` by source port `src`, and its completion status. -/
def regWriteRaw (s : State) (src addr v : Nat) (o : Outside) : State × Nat :=
  let off := addr % 0x10000
  match blkOf addr with
  | 0 => (sysWrite s off v, 0)
  | 1 => (s, 0)
  | 2 => tsqWrite s src off v
  | 3 => (if off = 8 ∨ (0x80 ≤ off ∧ off < 0xC0) then rwStore s addr v else fabWrite s off v, 0)
  | 4 => (if off = 4 then rwStore s addr v else dmcWrite s off v, 0)
  | 5 => (psoWrite (snapCtlWrite s addr 5 v) off v, 0)
  | 6 => (lseWrite s off v, 0)
  | 7 => (snapCtlWrite s addr 7 v, 0)
  | 8 => (snapCtlWrite s addr 8 v, 0)
  | 9 => (chnWrite s off v, 0)
  | 10 => (twnWrite s off v, 0)
  | 11 => (calWrite s off v, 0)
  | 12 => (safWrite s off v o.lat, 0)
  | 13 => wdgWrite s src off v o.pc
  | 14 => dbgWrite s src off v o.view
  | _ => fldWrite s off v

/-- The high word of a writable 64-bit register, by the address of its low word (00 R11). -/
def widePair (addr : Nat) : Option Nat :=
  if addr = Base.chn + 0x30 then some (addr + 4) else if addr = Base.dbg + 0x20 then some (addr + 4) else none

/-- Whether `addr` is the high word of one. -/
def isWideHigh (addr : Nat) : Bool := addr == Base.chn + 0x34 || addr == Base.dbg + 0x24

/-- Whether a source may write the register at all: only port 1 writes the DBG window (19 R500). -/
def mayWrite (src addr : Nat) : Bool := blkOf addr != 14 || src == 1

/-- 00 R11: a write to the high word is staged for its source; a write to the low word applies what the same source staged. -/
def regWriteWith (s : State) (src addr v : Nat) (o : Outside) : State × Nat :=
  if !mayWrite src addr then (s, 6)
  else if isWideHigh addr then ({ s with staged := aset s.staged (srcKey src addr) v }, 0)
  else match widePair addr with
    | some h =>
      if ahas s.staged (srcKey src h) then
        let hv := alook s.staged (srcKey src h)
        let s := { s with staged := adel s.staged (srcKey src h) }
        regWriteRaw (regWriteRaw s src h hv o).1 src addr v o
      else regWriteRaw s src addr v o
    | none => regWriteRaw s src addr v o

/-- Whether a write can take a value from outside. -/
def takesOutside (addr : Nat) : Bool := addr == Base.saf + 0x20 || addr == Base.wdg + 4 || addr == Base.dbg

/-- A write that brings nothing of it. -/
def regWrite (s : State) (src addr v : Nat) : State × Nat :=
  if takesOutside addr then regWriteWith (useOutside s) src addr v (freeOutside s)
  else regWriteWith s src addr v { lat := 0, pc := 0, view := [] }

end Sys2Proof.Machine
end

