-- ==== Sys2Proof/Machine/Telemetry.lean ====
section
/-! DEFINITION. Queue telemetry (05 R140 to R142). Its records are elastic writes of the fabric's own source (assumption log entry 134). -/

namespace Sys2Proof.Machine

def telSize (s : State) : Nat := rwGet s (Base.fab + 0x88) 0
def telBase (s : State) : Nat := rwGet s (Base.fab + 0x84) 0
def telMask (s : State) (e : Nat) : Nat := rwGet s (Base.fab + 0xA0 + 4 * e) 0
def telCtl (s : State) : Nat := rwGet s (Base.fab + 0x80) 0

/-- Whether the target of egress `e` takes the packet at a head now (05 R137). -/
def targetTakes (s : State) (e : Nat) (p : Pkt) : Bool :=
  if e < 4 then dmcRoom s e p && !settleHeld s p
  else if e < 6 then chnReady s (e - 4) p
  else linkReady s

/-- 05 R141: the record of queue `i` of egress `e`. -/
def telRecord (s : State) (e i : Nat) : Bytes :=
  let g := lget s.fab.eg e {}
  let q := lget g.qs i {}
  let now := s.clk.mclk
  let blocked := match q.pk with | [] => false | p :: _ => !targetTakes s e p
  let flags := b2n (!q.pk.isEmpty && !shaperOk q now) + 2 * b2n blocked + 4 * b2n q.pk.isEmpty
  let age := match q.pk with | [] => 0 | p :: _ => min 0xFFFFFFFF (now - p.enq)
  leBytes 1 i ++ leBytes 1 e ++ leBytes 1 flags ++ leBytes 1 0 ++ leBytes 4 (queueEff g q) ++ leBytes 2 q.pk.length ++
    leBytes 2 s.fab.telNum ++ leBytes 4 age ++ leBytes 4 q.telDly ++ leBytes 4 q.telDeq ++ leBytes 8 (tcReg s)

/-- How many records the sample under way has still to write. -/
def telLeft (s : State) : Nat := (s.fab.xfers.filter fun x => x.job == .tel).length

/-- One record starts on its way into the ring, and its queue's running figures start again. -/
def telWrite (s : State) (e i : Nat) : State :=
  let n := telSize s
  let s := if n = 0 then s
    else unitWrite s 24 0 (telBase s / 32 * 32 + (s.fab.telPtr + telLeft s) % n * 32) (telRecord s e i) .tel
  { s with fab := { s.fab with eg := lmod s.fab.eg e fun g => { g with qs := lmod g.qs i fun q => { q with telDly := 0, telDeq := 0 } } } }

/-- The queues that a sample covers, in its order. -/
def telQueues (s : State) : List (Nat × Nat) :=
  (List.range 7).flatMap fun e => ((List.range 32).filter fun i => bitAt (telMask s e) i).map fun i => (e, i)

/-- 05 R140, R142: the sample of a boundary that starts tick `tc`, skipped while a record of the one before it is still to be written. The
spec does not say whether a skipped sample takes a SAMPLE number: it takes none (assumption log entry 141, DESIGN CHOICE). -/
def telemetry (s : State) (tc : Nat) : State :=
  let c := telCtl s
  if bitAt c 4 && tc % 2 ^ (min 10 (bits c 3 0)) == 0 then
    if 0 < telLeft s then { s with fab := { s.fab with telMiss := sat32 s.fab.telMiss } }
    else
      let s := (telQueues s).foldl (fun s x => telWrite s x.1 x.2) s
      { s with fab := { s.fab with telNum := (s.fab.telNum + 1) % 2 ^ 32 } }
  else s

/-- A record has been written. -/
def telDone (s : State) : State := { s with fab := { s.fab with telPtr := (s.fab.telPtr + 1) % 2 ^ 32 } }

end Sys2Proof.Machine
end

