-- ==== Sys2Proof/Machine/Transfer.lean ====
section
/-! DEFINITION. What each unit does once the responses to one of its transfers have all come (05 R125, R127), and the words of the serial
debug port (19 R498). -/

namespace Sys2Proof.Machine

/-! ### Words of the serial debug port (19 R498, R505) -/

/-- The request of the next word of a memory command, from port 1 with CLASS 0. -/
def sdpWord (m : SdpMem) : XReq :=
  { req := { src := 1, kind := if m.write then .write else .read, fa := m.fa + 4 * m.i, flen := 4, tag := 0, cls := 0, dst := 0
             data := if m.write then leBytes 4 (m.data.getD m.i 0).toNat else [] }
    tgt := none, bad := [], forced := m.forced }

/-- The next word goes out, or the reply. -/
def sdpNext (s : State) (m : SdpMem) : State :=
  if m.i < m.cnt then xferAdd { s with dbg := { s.dbg with mem := some m } } 1 .sdp [sdpWord m]
  else
    let s := { s with dbg := { s.dbg with mem := none } }
    match m.bad with
    | some (st, i) => sdpReply s 6 st i m.got
    | none => sdpReply s 1 0 0xFF m.got

/-- The completion of a word. -/
def sdpWordDone (s : State) (x : Xfer) : State :=
  match s.dbg.mem with
  | none => s
  | some m =>
    let st := (x.inOrder.head?.map fun y => y.2.1).getD 0
    sdpNext s { m with i := m.i + 1, bad := if m.bad.isNone ∧ st ≠ 0 then some (st, m.i) else m.bad, got := m.got ++ x.data }

/-- MEMRD, MEMWR and MEMWRF: what the request meets first, then its words. -/
def debugMem (s : State) (q : SdpReq) (write forced : Bool) : State :=
  match sdpCheck s q true with
  | some r => sdpReply s r 0 0xFF []
  | none =>
    if !domOn s 59 then sdpReply s 5 0 0xFF []
    else sdpNext s { write := write, forced := forced, fa := q.arg, cnt := q.cnt, i := 0, data := q.data, bad := none, got := [] }

/-- Domain 59 goes while a memory command is under way: its words end with their source, and the port answers that it is not there. -/
def sdpLost (s : State) : State :=
  if s.dbg.mem.isSome ∧ portCut s 1 then sdpReply { s with dbg := { s.dbg with mem := none } } 5 0 0xFF [] else s

/-! ### The transfers' ends -/

/-- Every response of a transfer has come. -/
def jobDone (s : State) (x : Xfer) : State :=
  match x.job with
  | .none => s
  | .migRead d => migReadDone s x d
  | .migWrite d => migWriteDone s x d
  | .chnRx _ => s
  | .txDesc => txDescDone s x.data
  | .txBody d => txBodyDone s d x.data
  | .txMsg d => if x.error.isSome then txWriteBack s d none 2 else s
  | .txBack => txBackDone s
  | .fwd _ => s
  | .link _ => s
  | .copy fa mseq => mirrorSend s mseq fa x.data 0
  | .fwRx _ => s
  | .fwDesc => fwDescDone s x.data
  | .fwBody d => fwBodyDone s d x.data
  | .fwBack => fwBackDone s
  | .tel => telDone s
  | .fetch e no stage l have_ bad => fetchDone s x e no stage l have_ bad
  | .imgHead hot addr => imgHeadDone s x.data hot addr
  | .imgBody hot => imgBodyDone s x.data hot
  | .impHead => impHeadDone s x.data
  | .impBody => impBodyDone s x.data
  | .out _ _ => s
  | .sdp => sdpWordDone s x

/-- A response reaches the transfer that waits for it. -/
def xferResponse (s : State) (i : Nat) (r : Rsp) : State :=
  match s.fab.xfers[i]? with
  | none => s
  | some x =>
    let x := x.take r
    if x.whole then jobDone { s with fab := { s.fab with xfers := s.fab.xfers.eraseIdx i } } x
    else { s with fab := { s.fab with xfers := lmod s.fab.xfers i fun _ => x } }

end Sys2Proof.Machine
end

