-- ==== Sys2Proof/Machine/Access.lean ====
section
/-! DEFINITION. Accesses by fabric address: the requests of the sources and their completion (00 R5 to R8; 05 R123 to R129, R131, R139,
R144, R148). -/

namespace Sys2Proof.Machine

/-- The data of a write, in the packet's length. -/
def wrData (q : Req) : Bytes := padTo q.flen q.data

/-- A write to memory, and its status (02 R51; a forced one: 19 R505). -/
def memWriteAt (s : State) (p : Pkt) : State × Nat :=
  if barred s p.tgt p.req.flen && !p.forced then (s, 3)
  else (memSet (if p.forced then forcedMark s p.tgt p.req.flen else s) p.tgt (wrData p.req) false, 0)

/-- A read or write that its target performs at once: the state after it, the completion status, and the data of a read. R5 gives
ACCESS_ERR to narrower and unaligned accesses of a register window and is silent on wider ones; the model answers these alike (assumption log
entry 142, DESIGN CHOICE). -/
def perform (s : State) (p : Pkt) : State × Nat × Bytes :=
  let q := p.req
  let isRead := q.kind == .read
  match p.tgt with
  | .reg a =>
    if q.flen ≠ 4 ∨ a % 4 ≠ 0 then (s, 5, [])
    else if isRead then (let r := regRead s q.src a; (r.2, 0, leBytes 4 r.1))
    else (let r := regWrite s q.src a (leNat (wrData q)); (r.1, r.2, []))
  | .rom _ => if isRead then (s, 0, memGet s p.tgt q.flen) else (s, 6, [])
  | .sram _ => if isRead then (s, 0, memGet s p.tgt q.flen) else (let r := memWriteAt s p; (r.1, r.2, []))
  | .tcm _ => if isRead then (s, 0, memGet s p.tgt q.flen) else (let r := memWriteAt s p; (r.1, r.2, []))
  | .none => (s, 1, [])
  | .dram _ => (s, 5, [])
  | .rank _ _ => (s, 5, [])

/-- 05 R129: the grant pointer of a packet's destination moves past its source. -/
def moveGrant (s : State) (p : Pkt) : State := { s with fab := { s.fab with grant := aset s.fab.grant p.req.dst ((p.req.src + 1) % 25) } }

/-- A granted request is performed and its response is on its way; it counts for the domains in DRAIN (05 R151). A write that resets the
core leaves nobody to answer. -/
def grantPkt (s : State) (p : Pkt) : State :=
  let r := perform (countDrained (moveGrant s p) p.doms) p
  if !r.1.fab.tags.contains (p.req.src, p.req.tag) then r.1
  else if r.2.1 = 0 then answer r.1 p.req p.seq 0 r.2.2 []
  else answer r.1 p.req p.seq r.2.1 [] []

/-- A request for a target without an elastic egress: the fabric completes what has no target or is fenced (05 R125, R144), and grants the
rest. -/
def performPkt (s : State) (p : Pkt) : State :=
  if p.tgt = .none then complete s p.req p.seq 1
  else if !pktTaken s p then complete s p.req p.seq 2
  else grantPkt s p

/-- A source issues a request (05 R123, R131) under a TAG that none of its outstanding ones carries (R124). -/
def issue (s : State) (q : Req) : State :=
  if !mayIssue s q.src ∨ s.fab.tags.contains (q.src, q.tag) then s
  else
    let n := takeSeq s
    let p := mkPkt s q none [] false n.1
    let s := outAdd n.2 q.src q.tag
    if (pktEgress p).isSome then submitPkt s p else holdPkt s p

/-- The held requests for targets without a queue that are their sources' oldest. -/
def readyAll (l : List Pkt) : List Pkt :=
  l.filter fun p => (pktEgress p).isNone &&
    match l.find? (fun x => x.req.src == p.req.src) with | some x => x.seq == p.seq | none => false

/-- 05 R129: how far a source stands behind the grant pointer of its request's destination. -/
def grantTurn (s : State) (p : Pkt) : Nat := (p.req.src + 25 - alook s.fab.grant p.req.dst) % 25

/-- The held request that is granted next: round robin among the sources at the destination of the first one that may go (05 R129). -/
def readyHeld (s : State) : Option Pkt :=
  match readyAll s.fab.held with
  | [] => none
  | p :: l =>
    some (l.foldl (fun a b => if b.req.dst = p.req.dst ∧ grantTurn s b < grantTurn s a then b else a) p)

/-- Held requests enter their queues, or are performed, as far as they now can. -/
def pumpHeld : Nat → State → State
  | 0, s => releaseHeld s
  | f + 1, s =>
    let s := releaseHeld s
    match readyHeld s with
    | none => s
    | some p => pumpHeld f (performPkt { s with fab := { s.fab with held := s.fab.held.filter fun x => x.seq != p.seq } } p)

/-- 05 R139, R148: the next response reaches its source, or is dropped there. -/
def respond (s : State) (src : Nat) : State :=
  match nextRsp s src with
  | none => s
  | some i =>
    match s.fab.rsp[i]? with
    | none => s
    | some r =>
      let lost := portCut s src
      let j := xferOf s src r.tag
      let s := { s with fab := { s.fab with rsp := s.fab.rsp.eraseIdx i, rspDrop := if lost then sat32 s.fab.rspDrop else s.fab.rspDrop } }
      let s := outSub s src r.tag
      match j with
      | some j => if lost then s else xferResponse s j r
      | none => s

end Sys2Proof.Machine
end

