-- ==== Sys2Proof/Machine/Monitor.lean ====
section
/-! DEFINITION. The contract monitor's checks of dispatches (04 R102, R103, R115) and the mailbox, regime and fault log parts of a
boundary (04 R112, R113, R117; 02 R57 to R68). -/

namespace Sys2Proof.Machine

/-! ### Checks -/

/-- 13 R358: a METRIC word never raises SLOT_OVERRUN. -/
def isMetric (x : Disp) : Bool := x.kind == 6 && bits x.payload 63 60 == 2

/-- 04 R115: at the first cycle of its FINISH slot dispatch `i` is still outstanding. -/
def overrunNow (s : State) (i : Nat) : State :=
  match s.tsq.disp[i]? with
  | some x =>
    if doneBy x (256 * x.finish) ∨ x.overrun ∨ isMetric x then s
    else
      let s := raiseFaultAt s (256 * x.finish) 1 (unitClass x.unit) x.unit x.finish (some x.word)
      { s with tsq := { s.tsq with disp := lmod s.tsq.disp i fun x => { x with overrun := true } } }
  | none => s

/-- 04 R103, R115: at the first cycle of its deadline slot the result of dispatch `i` is not ready. -/
def deadlineNow (s : State) (i : Nat) : State :=
  match s.tsq.disp[i]? with
  | some x =>
    if doneBy x (256 * x.deadline) ∨ x.late ∨ x.deadline = 0 then s
    else
      let s := raiseFaultAt s (256 * x.deadline) 2 (if x.feedx then 3 else 2) x.unit x.deadline (some x.word)
      { s with tsq := { s.tsq with disp := lmod s.tsq.disp i fun x => { x with late := true } } }
  | none => s

/-- Whether unit `u` has an action outstanding among the dispatches before a control word; what the tick before left is not of this
tick (04 R102). -/
def unitLate (s : State) (c : Ctl) (u : Nat) : Bool :=
  (s.tsq.disp.take c.before).any fun x => x.unit == u && !doneBy x (256 * c.slot) && x.finish != 0

/-- The units that a WAIT or a BARRIER finds late, with the class of the fault against each (04 R103). -/
def lateUnits (s : State) (c : Ctl) : List (Nat × Nat) :=
  if c.isWait then (if unitLate s c c.src then [(c.src, unitClass c.dst)] else [])
  else (idxWhere 0x27 fun u => bitAt c.mask u && unitLate s c u).map fun u => (u, unitClass u)

/-- 04 R102: the check of control word `k` of the tick, at the first cycle of its SLOT. -/
def ctlNow (s : State) (k : Nat) : State :=
  match s.tsq.ctl[k]? with
  | some c =>
    if c.done then s
    else
      let s := (lateUnits s c).foldl (fun s (u, cls) => raiseFaultAt s (256 * c.slot) 2 cls u c.slot (some c.word)) s
      { s with tsq := { s.tsq with ctl := lmod s.tsq.ctl k fun c => { c with done := true } } }
  | none => s

/-- What the checks find at the end of a tick that no command has reported. -/
def monitorEnd (s : State) : State :=
  let s := (List.range s.tsq.disp.length).foldl (fun s i => deadlineNow (overrunNow s i) i) s
  (List.range s.tsq.ctl.length).foldl ctlNow s

/-- What a tick leaves outstanding: held at the head of the next one, its windows past (02 R52); an action that has acted and ends later is
outstanding until then. A unit whose domain went off has nothing outstanding. -/
def carryOver (s : State) : List Disp :=
  (s.tsq.disp.filter fun x => !doneBy x s.clk.len && unitOn s x.unit).map fun x =>
    { x with slot := 0, finish := 0, deadline := 0, overrun := true, late := true, endAt := x.endAt - s.clk.len }

/-! ### The fault log -/

/-- The faults of a tick with their numbers, and the last number given (04 R117). -/
def numberFaults (q : Nat) : List FaultRec → List FaultRec × Nat
  | [] => ([], q)
  | f :: r =>
    let n := if 0xFFFF ≤ q then 1 else q + 1
    let a := numberFaults n r
    ({ f with seq := n } :: a.1, a.2)

/-- The tick that ends is closed: its faults are logged, and a degraded tick is counted (02 R64, R67, 04 R117). -/
def closeFaults (s : State) : State × List FaultRec :=
  let (fs, q) := numberFaults s.tsq.seq s.tsq.faults
  let bad := s.tsq.degr != 0
  let t := { s.tsq with
    seq := q, faults := fs, flog := (fs.reverse ++ s.tsq.flog).take 64, flogTotal := (s.tsq.flogTotal + fs.length) % 2 ^ 32
    degrCause := s.tsq.degrCause ||| s.tsq.degr, degrCnt := s.tsq.degrCnt + b2n bad
    lastDegr := if bad then s.tsq.tc else s.tsq.lastDegr, clean := s.tsq.clean && !bad }
  ({ s with tsq := t }, fs)

/-- 04 R116: the end of a frame. -/
def starveFrame (s : State) : State :=
  if framePhase s (s.tsq.tc + 1) = 0 then
    { s with tsq := { s.tsq with
        starve := List.zipWith (fun n (b : Bool) => if b then n else 0) s.tsq.starve s.tsq.starved
        starved := [false, false, false, false] } }
  else s

/-! ### Mailbox entries (04 R110 to R113 steps 2 and 3) -/

def mbOp (m : MboxEntry) : Nat := bits (lget m.w 0 0) 31 24
def mbArg (m : MboxEntry) : Nat := bits (lget m.w 0 0) 23 16
def mbTag (m : MboxEntry) : Nat := bits (lget m.w 0 0) 15 0

/-- What step 2 gathers besides the state: the results, the regions published and the values of CALPARAM. -/
structure Taken where
  res : List MboxRes
  pubs : List Nat
  cal : List Nat
  deriving DecidableEq, Repr

def mbRes (m : MboxEntry) (status detail tc : Nat) : MboxRes :=
  { tag := mbTag m, op := mbOp m, status := status, detail := detail, tc := tc }

/-- PUBLISH: the buffer named becomes the front one. -/
def mbPublish (s : State) (a : Taken) (m : MboxEntry) (tc : Nat) : State × Taken :=
  let r := mbArg m
  if r < 64 ∧ regValid (inputsB s) r then
    ({ s with pins := { s.pins with front := aset s.pins.front r (b2n (bitAt (lget m.w 1 0) 0)) } },
     { a with res := a.res ++ [mbRes m 0 0 tc], pubs := a.pubs ++ [r] })
  else (s, { a with res := a.res ++ [mbRes m 7 0 tc] })

/-- PARAM: the parameter is set; a value of CALPARAM is a request (12 R329). -/
def mbParam (s : State) (a : Taken) (m : MboxEntry) (tc : Nat) : State × Taken :=
  let v := lget m.w 2 0 * 2 ^ 32 + lget m.w 1 0
  let req := hasSec s Ty.calptr 0 && mbArg m == calParam s
  ({ s with tsq := { s.tsq with params := aset s.tsq.params (mbArg m) v } },
   { a with res := a.res ++ [mbRes m 0 0 tc], cal := if req then a.cal ++ [v] else a.cal })

/-- FAULTACK: PENDING is cleared when the newest fault is named (04 R118). -/
def mbAck (s : State) (a : Taken) (m : MboxEntry) (tc : Nat) : State × Taken :=
  let q := bits (lget m.w 1 0) 15 0
  ({ s with tsq := { s.tsq with ack := q, pend := s.tsq.pend && q != s.tsq.seq } }, { a with res := a.res ++ [mbRes m 0 0 tc] })

/-- One entry at its delivery at the boundary that starts tick `tc`. The result of a REGIME entry waits for step 3. -/
def mbTake (tc : Nat) (p : State × Taken) (m : MboxEntry) : State × Taken :=
  let (s, a) := p
  match mbOp m with
  | 2 =>
    let (s, ok) := hotApply s (lget m.w 1 0)
    (s, { a with res := a.res ++ [mbRes m (if ok then 0 else 6) 0 tc] })
  | 3 => mbPublish s a m tc
  | 4 =>
    let (s, bad) := pinswap s (bits (lget m.w 1 0) 10 0) (bits (lget m.w 2 0) 7 0)
    (s, { a with res := a.res ++ [mbRes m (if bad.isSome then 7 else 0) (bad.getD 0) tc] })
  | 5 => mbParam s a m tc
  | 6 => mbAck s a m tc
  | _ => (s, { a with res := a.res ++ [mbRes m 0 (mbArg m) tc] })

/-- Step 2 of R113. -/
def mbTakeAll (s : State) (tc : Nat) (l : List MboxEntry) : State × Taken :=
  l.foldl (mbTake tc) (s, { res := [], pubs := [], cal := [] })

/-- The highest multiplier that an MR4 poll demands. -/
def topDemand (s : State) : Nat := s.dmc.ranks.foldl (fun m r => max m (demandMult r.demand)) 1

/-- DOMREQ of a set as it will run (R113 step 3). -/
def domreqOf (s : State) (ended set : Nat) : Nat :=
  match (gNow s ended true).find? fun x => x.type == Ty.sched && x.inst == set with
  | some x => schedDomreq x.body
  | none => schedDomreq (secB s Ty.sched set)

/-- Step 3 of R113 for its candidate: STATUS and DETAIL. `doms` are the domain states of the input record; `fault` says that the tick
that ends raised a class S or X fault, `det` that the twin enters DETACHED here. -/
def regimeTest (s : State) (tgt doms : Nat) (fault det : Bool) : Nat × Nat :=
  let cur := s.tsq.set
  let leaves := cur == 3 && tgt != 3
  let lack := domsOf (clrMask (domreqOf s cur tgt) doms)
  if fault then (3, 0)
  else if det then (8, s.twn.st)
  else if tgt = cur then (1, 0)
  else if leaves ∧ (s.twn.st = 1 ∨ s.twn.st = 8) then (8, s.twn.st)
  else if leaves ∧ (s.tsq.pend ∨ refMult s tgt < topDemand s ∨ !s.tsq.run) then (4, topDemand s)
  else if !lack.isEmpty then (5, lack.headD 0)
  else (0, 0)

/-- Step 3 of R113: the results with the outcome of the REGIME entries, the set chosen, and whether a firmware request takes effect. -/
def regimeStep (s : State) (res : List MboxRes) (doms : Nat) (fault det : Bool) : List MboxRes × Nat × Bool :=
  let isReg (r : MboxRes) : Bool := r.op == 1
  let good (r : MboxRes) : Bool := isReg r && hasSec s Ty.sched r.detail
  let forced := if fault || det then 3 else s.tsq.set
  let last := (idxWhere res.length fun i => match res[i]? with | some r => good r | none => false).getLast?
  let tgt := match last with | some i => (match res[i]? with | some r => r.detail | none => 0) | none => 0
  let t := regimeTest s tgt doms fault det
  let out := res.zipIdx.map fun (r, i) =>
    if !isReg r then r
    else if !good r then { r with status := 7 }
    else if last = some i then { r with status := t.1, detail := t.2 }
    else { r with status := 2, detail := 0 }
  match last with
  | some _ => if t.1 = 0 then (out, tgt, true) else (out, forced, false)
  | none => (out, forced, false)

/-- The results enter the ring (R112). -/
def putResults (s : State) (l : List MboxRes) : State :=
  { s with tsq := { s.tsq with res := (l.reverse ++ s.tsq.res).take 64, resTotal := (s.tsq.resTotal + l.length) % 2 ^ 32 } }

/-! ### Steps 4 to 7 of R113 -/

/-- 08 R221: the next FIELD word of every engine strobes. -/
def strobeAll (s : State) : State := { s with lse := { s.lse with eng := s.lse.eng.map fun x => { x with force := true } } }

/-- Step 5: PREVSET and AGE. -/
def enterSet (s : State) (new : Nat) : State :=
  let old := s.tsq.set
  if new = old then { s with tsq := { s.tsq with age := satAdd 2047 s.tsq.age 1 } }
  else srvSetChange (strobeAll { s with tsq := { s.tsq with set := new, prev := old, age := 0 } }) old new

/-- Step 6, after the ticks of a running change have counted. -/
def fspBoundary (s : State) : State :=
  fspRequest (fspTick s) (if s.tsq.set = 3 then none else some (schedFsp (secB s Ty.sched s.tsq.set)))

/-- Step 7: the walk of the tick; its words are named by store index (R107). A halted sequencer walks set 3 for its DRAM maintenance words alone (19 R503). -/
def walkTick (s : State) (carried : List Disp) : State :=
  let env : WalkEnv := { phase := framePhase s s.tsq.tc, prev := s.tsq.prev, age := s.tsq.age, fsp := s.tsq.fsp, param := s.tsq.params }
  let set := if s.dbg.halted then 3 else s.tsq.set
  let (ds, cs) := splitItems carried.length (walkSet env (secB s Ty.sched set)).1
  let ds := ds.map fun d => { d with word := storeIdx s d.word }
  let cs := cs.map fun c => { c with word := storeIdx s c.word }
  let maint (d : Disp) : Bool := d.kind == 1 && decide (2 ≤ bits d.payload 63 60) && decide (bits d.payload 63 60 ≤ 9)
  { s with tsq := { s.tsq with
      disp := carried ++ (if s.dbg.halted then ds.filter maint else ds), ctl := if s.dbg.halted then [] else cs } }

/-- 04 R114, 17 R459: DOMREQ domains of the running set that are not fully on raise DOMAIN_ORDER at the first cycle of the tick. -/
def domreqCheck (s : State) : State :=
  (domsOf (clrMask (schedDomreq (secB s Ty.sched s.tsq.set)) (domMask s))).foldl (fun s d => raiseFaultAt s 0 6 2 0 d none) s

end Sys2Proof.Machine
end

