-- ==== Sys2Proof/Machine/Boundary.lean ====
section
/-! DEFINITION. The tick boundary (04 R113): the tick that runs is closed, the twin says whose inputs the machine takes, the set is
settled and walked, and every block begins its new tick. -/

namespace Sys2Proof.Machine

/-! ### The tick that ends -/

/-- The light, the ports and the commits of the tick up to its end. -/
def endLight (s : State) : State := scanTo s s.clk.len lightFuel

/-- 13 R361, 14 R377 code 5: the map that waits is handed over; a valid one may show a lit zone occupied. -/
def mapHand (s : State) : State :=
  match s.lpe.mapNext with
  | some m => if m.valid then presenceFire (mapHandoverNow s) else mapHandoverNow s
  | none => s

/-- Loupe's part of the tick up to its end: its pulses have counted (13 R346), and the map of a PRESENCE word that is complete is handed over. -/
def endLoupe (s : State) : State :=
  let s := pulsesTo s s.clk.len
  if s.tsq.disp.any fun x => x.kind == 6 && bits x.payload 63 60 == 3 && doneBy x s.clk.len then mapHand s else s

/-- 02 R68: the length and the guard band of the tick that ends. -/
def noteLength (s : State) : State :=
  let g := s.clk.len - 256 * nSlot s
  { s with tsq := { s.tsq with lastLen := s.clk.len, guardMin := if s.tsq.run then min g s.tsq.guardMin else s.tsq.guardMin } }

/-- Everything that ends with the tick before inputs are taken; the answer says whether a sequencer halt takes effect here. -/
def endTick (s : State) : State × Bool :=
  let s := endLoupe (endLight s)
  let s := if s.tsq.run then monitorEnd s else s
  let s := if isLead s then bundleEnd s else s
  haltBoundary (noteLength s) ((tcReg s + 1) % 2 ^ 64)

/-- How the machine takes the boundary. -/
structure Turn where
  i : InRec
  /-- The inputs come from a bundle. -/
  bundle : Bool
  /-- The apply point of a base image (03 R88). -/
  base : Bool
  /-- A takeover, late or not, or a lock point: a new apply point (16 R432, R433, R439). -/
  fresh : Bool
  /-- Set 3 is chosen without a fault: DETACHED is entered, or a late takeover. -/
  det : Bool
  /-- The tick that ends raised a class S or X fault. -/
  fault : Bool
  /-- The tick that ends ran set 1. -/
  ran1 : Bool
  /-- The tick that ends was degraded. -/
  bad : Bool
  /-- The records that are loaded here (12 R325). -/
  recs : Option (List (Nat × Bytes))
  deriving DecidableEq, Repr

/-- The input record of a boundary under a seat. `leaves` says that the chip leaves the shadow role here, where it loads its own records
(12 R325). -/
def turnRec (s : State) (seat : Seat) (leaves : Bool) (b : BoundaryIn) : State × InRec :=
  match seat with
  | .bundle l => (s, recOf s l s.clk.len)
  | .lock _ _ _ l => (s, recOf s l s.clk.len)
  | _ =>
    let s := boundarySamples s b
    let load := s.tsq.applyNext || leaves
    (s, ownRec s s.clk.len (if load then some (loadedRecs s) else none) (decide (2 ≤ topClass s)))

def mkTurn (s : State) (seat : Seat) (i : InRec) : Turn :=
  let fed := match seat with | .bundle _ => true | .lock _ _ _ _ => true | _ => false
  let lock := match seat with | .lock _ _ _ _ => true | _ => false
  { i := i, bundle := fed, base := s.tsq.applyNext, fresh := seat == .takeover || seat == .late || lock
    det := seat == .detached || seat == .late, fault := i.faultSet || (!lock && decide (2 ≤ topClass s))
    ran1 := s.tsq.run && s.tsq.set == 1, bad := s.tsq.degr != 0, recs := i.recs }

/-- The enables' transitions in the tick that ends, as the guard delivers them. -/
def lenEvents (s : State) (i : InRec) : List (Nat × Nat × Bool) := (eventsOf s i.evs 0x09).map fun (n, c, v) => (n, c, v != 0)

/-- The tick closes: doses, counts, the flip records and the fault log. -/
def closeTick (s : State) (i : InRec) : State × List FaultRec :=
  let ev := lenEvents s i
  let s := { s with lse := { s.lse with lenEv := ev } }
  let s := flipEdges (settleCounts (settleDose s i.len ev))
  let (s, f) := closeFaults s
  (starveFrame s, f)

/-! ### The tick that starts -/

/-- Causes of degradation that a tick starts with (02 R64): recovery from a tick loss, and a sequencer halted or stepped. -/
def startDegr (s : State) : Nat := 4 * b2n (bitAt s.saf.cond 6) + 8 * b2n (s.dbg.halted || s.dbg.stepping)

/-- R113 step 1. -/
def newTick (s : State) : State :=
  { s with
    clk := { s.clk with cyc := 0 }
    tsq := { s.tsq with tc := (s.tsq.tc + 1) % 2 ^ 64, blank := none, faults := [], degr := startDegr s } }

/-- R113 step 2, the record apart from its mailbox entries. -/
def turnInputs (s : State) (t : Turn) : State :=
  let late := (s.tsq.mbox.filter fun m => decide (s.clk.len ≤ m.stamp)).map fun m => { m with stamp := m.stamp - s.clk.len }
  let s := { s with tsq := { s.tsq with mbox := late } }
  let evs := if t.bundle then t.i.evs ++ t.i.mbox.map (mboxEv (mboxIdx s)) ++ t.i.stripes.map (stripeEv s) else t.i.evs
  let s := deliverEvents (if t.bundle then followEvents s evs else s) evs
  let s := stripesDeliver (if t.bundle then stripesFollow s t.i.stripes else s) t.i.stripes
  let zx := eventsOf s t.i.evs 0x08
  let s := (List.range 4).foldl (fun s e =>
    if engKind s e = 2 ∧ domOn s (29 + 3 * e) then trackEngine s e t.i.len ((zx.filter fun x => x.1 == e).map fun x => (x.2.1, x.2.2 != 0)) else s) s
  let s := srvTick s
  if t.bundle then recSamples s t.i else s

/-- The apply point of a base image (03 R88). -/
def applyPoint (s : State) : State :=
  let s := { s with
    tsq := { s.tsq with run := true, applyNext := false, set := 3, prev := 3, age := 0, params := [], clean := true, cleanFrom := s.tsq.tc }
    boot := { s.boot with step := 11, hkpRun := true, ms := min 0xFFFFFF ((s.clk.aon - s.boot.at1) / 1000) }
    pins := { s.pins with front := [] } }
  let s := lpeApplyPoint (srvApplyPoint (twinApplyPoint s))
  (List.range 4).foldl (fun s e =>
    let s := modPso s e fun x => { x with frames := 0, commits := 0 }
    if engKind s e = 2 then modLse s e fun x => { x with p := scPnom s e, m := 0, lk := false, a := 0 }
    else if engKind s e = 1 then wholePush s e s.tsq.tc
    else s) (strobeAll s)

/-- R113 steps 3 to 6: the set is settled, pending sections apply, and the point is an apply point where it is one. The answer says whether
the set changes, and which records the boundary loads. -/
def turnRegime (s : State) (t : Turn) (res : List MboxRes) : State × Bool × Option (List (Nat × Bytes)) :=
  let ended := s.tsq.set
  let (out, new, took) := regimeStep s res t.i.doms t.fault t.det
  let ptr := (gNow s ended took).any fun x => x.type == Ty.calptr
  let s := applyG (putResults s out) ended took
  let recs := if t.recs.isSome ∨ t.bundle ∨ !ptr then t.recs else some (loadedRecs s)
  if t.base then (applyPoint s, false, recs)
  else if !s.tsq.run then (s, false, recs)
  else
    let s := if t.fresh then { s with tsq := { s.tsq with clean := true, cleanFrom := s.tsq.tc } } else s
    (fspBoundary (enterSet s new), new != ended, recs)

/-- Calibration at a boundary (12 R325 to R331), and the colour values that follow the trimmed inputs. -/
def turnCal (s : State) (t : Turn) (change : Bool) (recs : Option (List (Nat × Bytes))) (reqs : List Nat) : State :=
  let s := match recs with | some r => calLoad s r | none => s
  let s := reqs.foldl calRequest (runClose s s.tsq.tc change t.bad)
  colourBoundary (if hasSec s Ty.calptr 0 then calTrims s else s)

/-- What a boundary does to the units that follow the walk: publishes, write-verify, pushes and ports, Loupe and the light. -/
def turnUnits (s : State) (t : Turn) (pubs : List Nat) : State :=
  let tc := s.tsq.tc
  let engs := (List.range 4).filter fun e => engKind s e == 2 && pubs.contains (scPathReg s e)
  let s := pubs.eraseDups.foldl (fun s r => surfPublished (listPublished s r tc) r) s
  let s := engs.foldl (fun s e => pathLatch (pathPublished s e) e) s
  let s := wvBoundary s tc t.ran1 s.lpe.recs engs
  let s := if t.i.join then (List.range 4).foldl (fun s e =>
      if engKind s e = 1 then modLse (wholePush s e tc) e fun x => { x with force := true } else s) s else s
  let len0 := if t.bundle then s.lse.lenEv.foldl (fun m (n, _, v) => setBit m n v) s.lse.len0 else s.saf.drive
  clearTick (lpeTick (psoBoundary s tc s.clk.len)) len0

/-- The machine enters its next tick on an input record. `carried` is what the tick before left outstanding. -/
def takeTurn (s : State) (t : Turn) (carried : List Disp) : State :=
  let s := turnInputs (newTick s) t
  let (s, a) := mbTakeAll s s.tsq.tc t.i.mbox
  let (s, change, recs) := turnRegime s t a.res
  let s := turnCal s t change recs a.cal
  let s := if s.tsq.run then walkTick s carried else { s with tsq := { s.tsq with disp := [], ctl := [] } }
  let s := if s.tsq.run ∧ !change ∧ !t.base then domreqCheck s else s
  let s := turnUnits (fetchStop (runTick s)) t a.pubs
  if isLead s then
    let s := bundleOpen s { t.i with recs := recs }
    if t.i.join then { s with twn := { s.twn with forward := true, copy := none, copied := false, stage := 2 } } else s
  else bundleOpen s t.i

/-! ### The fallback display (18 R485) -/

/-- The channel of role `r` of engine `e`, if it has one. -/
def roleChan (s : State) (e r : Nat) : Option Nat := (List.range 4).find? fun i => chanRole s (4 * e + i) == r

/-- One of the three intervals of the display's tick: its light, and the dispatch of a FIELD word that has acted, whose strobe the port sends
in time. -/
def fallbackField (s : State) (e c : Nat) : State :=
  let w := (darkStart s - 2) / 3
  let tset := engTset s e
  let d : Disp :=
    { word := 0, kind := 4, unit := 0xD + e, res := 0, slot := 2 + c * w, deadline := 0, span := 0, feedx := false, early := false
      finish := 2 + (c + 1) * w, payload := c * 2 ^ 50 + tset * 2 ^ 36 + (256 * w - tset) * 2 ^ 15, reps := [], done := true, overrun := true
      late := true, held := false, endAt := 0 }
  let st := fieldStart d
  let stop := st + fieldLen d
  let s := { s with tsq := { s.tsq with disp := s.tsq.disp ++ [d] } }
  match roleChan s e (c + 1) with
  | some i =>
    let sp : Span := { chan := 4 * e + i, a := st, b := stop, q := 4095, acct := 0, seg := 0, puw := 0, eta := 0 }
    { s with lse := { s.lse with
        spans := s.lse.spans ++ [sp], shows := s.lse.shows ++ [{ eng := e, a := st, b := stop, cut := false }] } }
  | none => s

/-- A COMPUTE of the display: loop `l` at sample `j`, at slot s_j + 2·2^OSR, to be complete by the next sample. -/
def fallbackCompute (s : State) (l j : Nat) : Disp :=
  let c := loopB (srvB s) l
  let m := lpM c
  { word := 0, kind := 5, unit := 0x11 + l, res := 0, slot := samplePoint s m j + 2 * 2 ^ snsOsr s (lpSns c), deadline := 0, span := 0
    feedx := false, early := false, finish := samplePoint s m (j + 1), payload := j * 2 ^ 56, reps := [], done := false, overrun := true
    late := true, held := false, endAt := 0 }

/-- The tick of the fallback display. -/
def fallbackTick (s : State) : State :=
  let e := fallbackEng s
  let s := (List.range 3).foldl (fun s c => fallbackField s e c) s
  let f := modPso s e fun x => { x with go := true, pushWin := some (0, 0, nSlot s), starved := false }
  { f with tsq := { f.tsq with
      disp := f.tsq.disp ++ (gatedLoops s e).flatMap fun l => (List.range (lpM (loopB (srvB s) l))).map (fallbackCompute s l) } }

/-! ### A machine that stands still (16 R433) -/

/-- A LOST chip's boundary: the machine holds its last computed tick; its TC counts on. -/
def holdTick (s : State) (close : Bool) (i : InRec) : State :=
  let s := if close then (closeTick s i).1 else s
  let s := { s with
    clk := { s.clk with cyc := 0 }
    tsq := { s.tsq with disp := [], ctl := [], faults := [], blank := none, degr := 0, mbox := [] }
    twn := { s.twn with ofs := s.twn.ofs + 1 } }
  let s := srvTick (stripesDeliver (deliverEvents s []) [])
  clearTick (lpeTick { s with pso := { s.pso with eng := s.pso.eng.map fun x =>
    { x with pushWin := none, commitWin := none, go := false, waiting := false } } }) s.saf.drive

/-- A shadow that finds its digest to differ stands still at once: the tick it was to start is not computed. -/
def freeze (s : State) : State :=
  { s with
    tsq := { s.tsq with tc := (s.tsq.tc + 2 ^ 64 - 1) % 2 ^ 64, disp := [], ctl := [] }
    twn := { s.twn with ofs := s.twn.ofs + 1 } }

/-- 16 R439: the capture becomes the machine's state, and the LTC of the pair is taken up. -/
def lockPoint (s : State) (b : Nat) (c : Capture) (d : List Nat) : State :=
  let ofs : Int := (tcReg s : Int) + 1 - b
  let s := enter (captureLoad s c) 5 0 0
  { s with twn := { s.twn with ofs := ofs, dig := d, stage := 3, agree := 0, rxs := [] } }

/-- The machine's part of a boundary, under a seat. -/
def runTurn (s : State) (seat : Seat) (i : InRec) (held : Bool) : State :=
  match seat with
  | .hold => holdTick s (!held) i
  | .lock b c d _ =>
    let t := mkTurn s seat i
    takeTurn (lockPoint s b c d)
      { t with fault := i.faultSet, bad := c.tsq.degr != 0, ran1 := c.tsq.run && c.tsq.set == 1 } []
  | _ =>
    let t := mkTurn s seat i
    let carried := carryOver s
    let (x, f) := closeTick s i
    let cap := capture x
    let (s, n) := guardStrobes s (takeTurn x t carried) i.len
    let n := { n with twn := { n.twn with dig := digestOf s n f } }
    match seat with
    | .bundle l =>
      let n := digCompare n n.tsq.tc l
      if n.twn.st = 7 then freeze n else n
    | _ => if isLead n ∧ i.join then captureSend n cap n.tsq.tc else n

/-! ### The blocks outside the machine -/

/-- Whether the partner offers itself as a reference; what its STK reads is a free value (15 R409). -/
def twinOffer (s : State) : State × Option Nat :=
  let on := s.twn.up && partnerHere s && (match s.twn.beat with | some b => bitAt b.flags 0 | none => false)
  if on then
    let (n, s) := takeFree s
    (s, some n)
  else (s, none)

/-- The registers' view of schedule-produced results (00 R14). -/
def showTick (s : State) : State :=
  { s with shown := {
      clk := s.clk, pins := s.pins, boot := s.boot, tsq := s.tsq, fld := s.fld, dmc := s.dmc, dbg := s.dbg, cal := s.cal, lse := s.lse
      pso := s.pso, srv := s.srv, lpe := s.lpe, twn := s.twn } }

/-- What every boundary does to the rest of the chip. `drop` says that Aperture discards its maps. -/
def boundaryEnd (s : State) (b : BoundaryIn) (drop : Bool) : State :=
  let (s, twin) := twinOffer (takeRate s)
  let s := chainBoundary (glideFast (clkBoundary s twin b.trefPer b.trefRate))
  let s := safBoundary s s.tsq.tc drop
  let s := telemetry (migBoundary (dmcTick s s.tsq.tc)) (tcReg s)
  let s := if s.pwr.planSt = 2 then { s with pwr := { s.pwr with planTicks := s.pwr.planTicks + 1 } } else s
  twinAge (downStep (planStep s true))

/-- TICK_BOUNDARY (04 R113), at the cycle at which the running tick's length ends. Without a timebase there is none. -/
def boundary (s : State) (b : BoundaryIn) : State :=
  if !s.clk.on then s
  else
    let (s, halted) := endTick s
    let held := s.twn.st == 7
    let m := (s.tsq.tc + 1) % 2 ^ 64
    let was := isShadow s
    let (s, seat) := if s.tsq.run then twinStep s m halted else (s, .own)
    let (s, i) := turnRec (swapsEnd (ageInputs (staleRest (mboxEvents s)))) seat (was && !isShadow s) b
    let drop := s.tsq.applyNext || (match seat with | .lock _ _ _ _ => true | _ => false)
    let s := runTurn s seat i held
    let s := if s.boot.fallback ∧ !s.tsq.run then fallbackTick s else s
    showTick (boundaryEnd s b drop)

end Sys2Proof.Machine
end

