-- ==== Sys2Proof/Machine/Finish.lean ====
section
/-! DEFINITION. What every command shares: time passes before its effect, and after it the chip's continuous parts follow (assumption
log entry 1). -/

namespace Sys2Proof.Machine

/-- The units issue what they may, and requests held in their sources go on (05 R127, R131). -/
def pumpFabric (s : State) : State := let s := pumpXfers (fetchLevels (sdpLost s)); pumpHeld s.fab.held.length s

/-- What follows every effect at once: the fabric moves on, writes are forwarded to a joiner (16 R436), the watchdog's pin is released (19
R493), and the enables take the levels they then have (14 R370). -/
def finish (s : State) : State := lenStep (wdoutRelease (forwardAll (pumpFabric s)))

/-- The end of a command that found the state `s`, once its own effect has left `b`: what follows at once follows, and the queue is as the
command found it. -/
def endCmd (s b : State) : State := { finish b with pending := s.pending }

/-- A command: its time passes, its effect happens, and what follows at once follows. -/
def cmdRun (w : When) (f : State → State) (s : State) : Host.Outcome State Fault Refusal := .next (endCmd s (f (advance w s)))

/-- Nothing that a write could need from outside. -/
def noOutside : Outside := { lat := 0, pc := 0, view := [] }

/-- A write of the register at `addr` as the fabric brings it: it reaches a register whose domain is on (00 R4, R8). -/
def writeReg (addr : Nat) (r : Wr) (o : Outside) (s : State) : State :=
  match decodeFa s addr 4 with
  | .reg a => if a % 4 = 0 ∧ domsOn s (targetDoms s (.reg a) 4) then (regWriteWith s r.src a r.val.toNat o).1 else s
  | _ => s

/-- A dispatch of the running tick that may act now: its kind, its operation, its first unit and how many units there are. -/
def openUnit (s : State) (d kind op u n : Nat) : Option Disp :=
  match openDisp s d kind op with
  | some x => if u ≤ x.unit ∧ x.unit < u + n then some x else none
  | none => none

/-- Dispatch `d` acts, if it may; the action says when it is complete. -/
def unitAct (d kind op u n : Nat) (f : State → Nat → Disp → State) (s : State) : State :=
  match openUnit s d kind op u n with
  | some x => f s d x
  | none => s

/-- Dispatch `d` acts, if it may, and is complete. -/
def actDisp (d kind op u n : Nat) (f : State → Disp → State) (s : State) : State :=
  match openUnit s d kind op u n with
  | some x => f (doneDisp s d) x
  | none => s

end Sys2Proof.Machine
end

