-- ==== Sys2Proof/Machine/ExecDebug.lean ====
section
/-! DEFINITION. The commands of the watchdog, the serial debug port, the debug block and the boundary-scan port (19). -/

namespace Sys2Proof.Machine

/-! ### The watchdog -/

/-- 19 R489. -/
def execStart (w : When) (r : Wr) (s : State) : Host.Outcome State Fault Refusal := cmdRun w (writeReg Base.wdg r noOutside) s

/-- 19 R489. -/
def execStop (w : When) (r : Wr) (s : State) : Host.Outcome State Fault Refusal := cmdRun w (writeReg Base.wdg r noOutside) s

/-- 19 R490. -/
def execLoadcfg (w : When) (r : Wr) (s : State) : Host.Outcome State Fault Refusal := cmdRun w (writeReg Base.wdg r noOutside) s

/-- 19 R494. -/
def execClrev (w : When) (r : Wr) (s : State) : Host.Outcome State Fault Refusal := cmdRun w (writeReg Base.wdg r noOutside) s

/-- 19 R491: `pc` is the HKP's, which a bite would capture. -/
def execWdgService (w : When) (r : Wr) (pc : Word) (s : State) : Host.Outcome State Fault Refusal :=
  cmdRun w (writeReg (Base.wdg + 4) r { lat := 0, pc := pc.toNat, view := [] }) s

/-- 19 R491. -/
def execWdgKeyExpiry (w : When) (s : State) : Host.Outcome State Fault Refusal := cmdRun w wdgForget s

/-- 19 R492. -/
def execWdgWarn (w : When) (s : State) : Host.Outcome State Fault Refusal := cmdRun w wdgWarnNow s

/-- 19 R488, R493: the count has reached TIMEOUT. -/
def execWdgTimeout (w : When) (pc : Word) (s : State) : Host.Outcome State Fault Refusal :=
  cmdRun w (fun s => if s.wdg.run ∧ s.wdg.timeout ≤ s.wdg.count then bite s 1 pc.toNat else s) s

/-- 19 R496: CLKLOSS has stood for 100 ms. The bite comes whether or not the watchdog runs. -/
def execClklossBite (w : When) (s : State) : Host.Outcome State Fault Refusal :=
  cmdRun w (fun s => if bitAt s.saf.cond 7 then bite s 4 0 else s) s

/-! ### The serial debug port -/

/-- 19 R497, R499. -/
def execLineReset (w : When) (clocks : Nat) (s : State) : Host.Outcome State Fault Refusal :=
  cmdRun w (fun s => if 64 ≤ clocks then dbgEnd s else s) s

/-- 19 Table 19-2, R508: IDENT answers a locked part too. -/
def identNow (s : State) (q : SdpReq) : State :=
  if !q.crcOk then sdpReply s 2 0 0xFF []
  else if q.cnt ≠ 0 ∨ q.arg ≠ 0 then sdpReply s 3 0 0xFF []
  else sdpReply s 1 0 0xFF (leBytes 4 partId ++ leBytes 4 revId ++ leBytes 4 idCode ++ leBytes 4 (identWord s))

/-- 19 R497. -/
def execIdent (w : When) (q : SdpReq) (s : State) : Host.Outcome State Fault Refusal := cmdRun w (fun s => identNow s q) s

/-- 19 R499, 17 R446, R461: domain 59 is powered, and the reply follows once it is fully on. In safe-dark a connect wakes the chip. -/
def connectNow (s : State) (q : SdpReq) : State :=
  match sdpCheck s q false with
  | some r => sdpReply s r 0 0xFF []
  | none =>
    if s.pwr.deep ∧ !bitAt s.pwr.wakeCfg 29 then { s with dbg := { s.dbg with connWait := true } }
    else
      let s := if s.pwr.deep then wake s 4 else s
      if hasSec s Ty.domains 0 ∧ !bitAt (domUsed s) 59 then sdpReply s 5 0 0xFF []
      else connectReady (cmdUp { s with dbg := { s.dbg with connWait := true } } 59)

/-- 19 R499. -/
def execConnect (w : When) (q : SdpReq) (s : State) : Host.Outcome State Fault Refusal := cmdRun w (fun s => connectNow s q) s

/-- 19 R506. -/
def disconnectNow (s : State) (q : SdpReq) : State :=
  match sdpCheck s q false with
  | some r => sdpReply s r 0 0xFF []
  | none => sdpReply (dbgEnd (tsqResume (hkpResume (bpClear s)))) 1 0 0xFF []

/-- 19 R506. -/
def execDisconnect (w : When) (q : SdpReq) (s : State) : Host.Outcome State Fault Refusal := cmdRun w (fun s => disconnectNow s q) s

/-- 18 R481: a debug reset. -/
def execReset (w : When) (q : SdpReq) (s : State) : Host.Outcome State Fault Refusal :=
  cmdRun w (fun s => match sdpCheck s q false with
    | some r => sdpReply s r 0 0xFF []
    | none => sdpReply (resetCore s 3) 1 0 0xFF []) s

/-- 19 R498. -/
def execMemrd (w : When) (q : SdpReq) (s : State) : Host.Outcome State Fault Refusal := cmdRun w (fun s => debugMem s q false false) s

/-- 19 R498. -/
def execMemwr (w : When) (q : SdpReq) (s : State) : Host.Outcome State Fault Refusal := cmdRun w (fun s => debugMem s q true false) s

/-- 19 R498, R505. -/
def execMemwrf (w : When) (q : SdpReq) (s : State) : Host.Outcome State Fault Refusal := cmdRun w (fun s => debugMem s q true true) s

/-- 19 R497: domain 59 is not fully on in time. -/
def execConnectTimeout (w : When) (s : State) : Host.Outcome State Fault Refusal :=
  cmdRun w (fun s => if s.dbg.connWait then sdpReply { s with dbg := { s.dbg with connWait := false } } 5 0 0xFF [] else s) s

/-! ### The debug block -/

/-- 19 R501: OP 1, with what the HKP shows as it stops. -/
def execHkphalt (w : When) (r : Wr) (h : HkpView) (s : State) : Host.Outcome State Fault Refusal :=
  cmdRun w (writeReg Base.dbg r { lat := 0, pc := 0, view := hkpView h }) s

/-- OP 2. -/
def execHkprun (w : When) (r : Wr) (s : State) : Host.Outcome State Fault Refusal := cmdRun w (writeReg Base.dbg r noOutside) s

/-- OP 3. -/
def execHkpstep (w : When) (r : Wr) (s : State) : Host.Outcome State Fault Refusal := cmdRun w (writeReg Base.dbg r noOutside) s

/-- 19 R501: the running HKP stands before an instruction that an enabled breakpoint names. -/
def execPcBreakpoint (w : When) (h : HkpView) (s : State) : Host.Outcome State Fault Refusal :=
  cmdRun w (fun s => if domOn s 59 && !s.dbg.hkpHalt && bpMatch s h.pc.toNat then hkpStop s 2 (hkpView h) else s) s

/-- OP 4. -/
def execTsqhalt (w : When) (r : Wr) (s : State) : Host.Outcome State Fault Refusal := cmdRun w (writeReg Base.dbg r noOutside) s

/-- OP 5. -/
def execTsqrun (w : When) (r : Wr) (s : State) : Host.Outcome State Fault Refusal := cmdRun w (writeReg Base.dbg r noOutside) s

/-- OP 6. -/
def execTstep (w : When) (r : Wr) (s : State) : Host.Outcome State Fault Refusal := cmdRun w (writeReg Base.dbg r noOutside) s

/-- 19 R502: the first cycle of the slot that the breakpoint names. -/
def execTickSlotBreakpoint (w : When) (s : State) : Host.Outcome State Fault Refusal :=
  cmdRun w (fun s => if domOn s 59 && s.clk.on && bpSlotHit s then haltRequest s 3 else s) s

/-- 19 R501: the instructions of an HKPSTEP have run. -/
def execHkpStepEnd (w : When) (h : HkpView) (s : State) : Host.Outcome State Fault Refusal :=
  cmdRun w (fun s => if s.dbg.hkpStep = 0 then s else hkpStop s 4 (hkpView h)) s

/-! ### The boundary-scan port -/

/-- 19 R509. -/
def execTapInstruction (w : When) (ir : BitVec 4) (s : State) : Host.Outcome State Fault Refusal := cmdRun w (fun s => tapLoad s ir) s

/-- 19 R509: IDCODE is selected; the end of EXTEST starts the boot flow at step 5, which PLL0's lock continues. -/
def execTapReset (w : When) (s : State) : Host.Outcome State Fault Refusal := cmdRun w (fun s => { s with tap := {} }) s

end Sys2Proof.Machine
end

