-- ==== Sys2Proof/Machine/ExecFabric.lean ====
section
/-! DEFINITION. The commands of the fabric (05) and of the DRAM controller (06, 07). -/

namespace Sys2Proof.Machine

/-! ### The fabric -/

/-- 05 R123, R131. -/
def execFabricRequest (w : When) (q : Req) (s : State) : Host.Outcome State Fault Refusal := cmdRun w (fun s => issue s q) s

/-- 05 R133, R137: an egress hands over the packet it chose, where its target takes it. -/
def dequeue (s : State) (e : Nat) : State := if e < 4 then dmcDequeue s e else if e < 6 then chnEgress s (e - 4) else linkEgress s

/-- 05 R133, R137. -/
def execEgressDequeue (w : When) (e : Nat) (s : State) : Host.Outcome State Fault Refusal := cmdRun w (fun s => dequeue s e) s

/-- 05 R139. -/
def execResponseDelivery (w : When) (src : Nat) (s : State) : Host.Outcome State Fault Refusal := cmdRun w (fun s => respond s src) s

/-- 05 R151. -/
def execQselWrite (w : When) (r : Wr) (s : State) : Host.Outcome State Fault Refusal :=
  cmdRun w (writeReg (Base.fab + 0x40) r noOutside) s

/-- 05 R145. -/
def execDrainEnd (w : When) (dom : Nat) (s : State) : Host.Outcome State Fault Refusal := cmdRun w (fun s => drainEnd s dom) s

/-- 05 R146. -/
def execFlushEnd (w : When) (dom : Nat) (s : State) : Host.Outcome State Fault Refusal := cmdRun w (fun s => flushEnd s dom) s

/-- 05 R143. -/
def execIsolateEnd (w : When) (dom : Nat) (s : State) : Host.Outcome State Fault Refusal := cmdRun w (fun s => isolateEnd s dom) s

/-- 17 R454. -/
def execPowerSwitchOpen (w : When) (dom : Nat) (s : State) : Host.Outcome State Fault Refusal :=
  cmdRun w (fun s => powerSwitchOpen s dom) s

/-! ### DRAM words (06 Table 6-3) -/

/-- READ. -/
def execDramRead (w : When) (d : Nat) (errs : List EccErr) (s : State) : Host.Outcome State Fault Refusal :=
  cmdRun w (fun s => dramWord s d 0 errs) s

/-- WRITE. -/
def execDramWrite (w : When) (d : Nat) (errs : List EccErr) (s : State) : Host.Outcome State Fault Refusal :=
  cmdRun w (fun s => dramWord s d 1 errs) s

/-- REFAB. -/
def execRefab (w : When) (d : Nat) (s : State) : Host.Outcome State Fault Refusal := cmdRun w (fun s => dramWord s d 2 []) s

/-- REFPB. -/
def execRefpb (w : When) (d : Nat) (s : State) : Host.Outcome State Fault Refusal := cmdRun w (fun s => dramWord s d 3 []) s

/-- MRR4. -/
def execMrr4 (w : When) (d : Nat) (s : State) : Host.Outcome State Fault Refusal := cmdRun w (fun s => dramWord s d 4 []) s

/-- RFMAB. -/
def execRfmab (w : When) (d : Nat) (s : State) : Host.Outcome State Fault Refusal := cmdRun w (fun s => dramWord s d 5 []) s

/-- RFMPB. -/
def execRfmpb (w : When) (d : Nat) (s : State) : Host.Outcome State Fault Refusal := cmdRun w (fun s => dramWord s d 6 []) s

/-- ZQLAT. -/
def execZqlat (w : When) (d : Nat) (s : State) : Host.Outcome State Fault Refusal := cmdRun w (fun s => dramWord s d 7 []) s

/-- SRE. -/
def execSre (w : When) (d : Nat) (s : State) : Host.Outcome State Fault Refusal := cmdRun w (fun s => dramWord s d 8 []) s

/-- SRX. -/
def execSrx (w : When) (d : Nat) (s : State) : Host.Outcome State Fault Refusal := cmdRun w (fun s => dramWord s d 9 []) s

/-- 06 R178, of rank `rank` on channel `chan` (its physical rank index is 2c + r, 06 Table 6-2). -/
def execMr4Return (w : When) (chan rank : Nat) (raw : Byte) (s : State) : Host.Outcome State Fault Refusal :=
  cmdRun w (fun s => mr4Return s (2 * chan + rank) raw) s

/-- 06 R170. -/
def execElasticIssue (w : When) (c : Nat) (errs : List EccErr) (s : State) : Host.Outcome State Fault Refusal :=
  cmdRun w (fun s => elasticIssue s c errs) s

/-! ### Sparing and frequency -/

/-- 07 R195. -/
def execRetireCondemn (w : When) (r : Wr) (s : State) : Host.Outcome State Fault Refusal :=
  cmdRun w (writeReg (Base.dmc + 0x210) r noOutside) s

/-- 07 R198. -/
def execRetireStart (w : When) (r : Wr) (s : State) : Host.Outcome State Fault Refusal :=
  cmdRun w (writeReg (Base.dmc + 0x210) r noOutside) s

/-- 07 R201. -/
def execRetireAbort (w : When) (r : Wr) (s : State) : Host.Outcome State Fault Refusal :=
  cmdRun w (writeReg (Base.dmc + 0x210) r noOutside) s

/-- 07 R199. -/
def execMigCopy (w : When) (ahead : Bool) (s : State) : Host.Outcome State Fault Refusal := cmdRun w (fun s => migCopy s ahead) s

/-- 07 R206. -/
def execFreqStepDone (w : When) (bad : Byte) (s : State) : Host.Outcome State Fault Refusal := cmdRun w (fun s => fspStepDone s bad) s

/-- 07 R206: the change's last tick has come to its end. -/
def execFreqChangeEnd (w : When) (s : State) : Host.Outcome State Fault Refusal :=
  cmdRun w (fun s => if s.dmc.fspLeft = 1 ∧ s.clk.len ≤ s.clk.cyc then fspEndEarly s else s) s

/-- 07 R209, R210. -/
def execBootTrainingDone (w : When) (bad : Byte) (rfm : List (Nat × Nat)) (s : State) : Host.Outcome State Fault Refusal :=
  cmdRun w (fun s => bootTrained s bad rfm) s

/-- 06 R185. -/
def execChmaxageClr (w : When) (c : Nat) (r : Wr) (s : State) : Host.Outcome State Fault Refusal :=
  cmdRun w (fun s => if c < 4 then writeReg (Base.dmc + 0x128 + 0x40 * c) r noOutside s else s) s

/-- 07 R212. -/
def execElogselWrite (w : When) (r : Wr) (s : State) : Host.Outcome State Fault Refusal :=
  cmdRun w (writeReg (Base.dmc + 0x224) r noOutside) s

end Sys2Proof.Machine
end

