-- ==== Sys2Proof/Machine/ExecLight.lean ====
section
/-! DEFINITION. The commands of light timing, colour and strip writing (08, 11) and of Scan-Out (09). -/

namespace Sys2Proof.Machine

/-- 08 R218: a FIELD word's light; the action is complete where its interval ends. Its strobe went out before (R221, 09 R255). -/
def fieldAct (d : Nat) (s : State) : State :=
  match openUnit s d 4 0 0xD 4 with
  | some x => fieldLight (doneDispAt s d (fieldStart x + fieldLen x)) (x.unit - 0xD) x
  | none => s

/-- 08 R218. -/
def execField (w : When) (d : Nat) (s : State) : Host.Outcome State Fault Refusal := cmdRun w (fun s => fieldAct d (scanNow s)) s

/-- 08 R226. -/
def execRaster (w : When) (d : Nat) (s : State) : Host.Outcome State Fault Refusal :=
  cmdRun w (fun s => actDisp d 4 1 0xD 4 (fun s x => openWin s (x.unit - 0xD) 1 x) (scanNow s)) s

/-- 08 R228, R230. -/
def execVector (w : When) (d : Nat) (s : State) : Host.Outcome State Fault Refusal :=
  cmdRun w (fun s => actDisp d 4 2 0xD 4 (fun s x => openWin s (x.unit - 0xD) 2 x) (scanNow s)) s

/-- 08 R228: the running element of engine `e` has counted its periods. -/
def execPathElementEnd (w : When) (e : Nat) (s : State) : Host.Outcome State Fault Refusal :=
  cmdRun w (fun s => let s := scanNow s; if e < 4 then elementEnd s e else s) s

/-- 08 R236. -/
def execLseSnap (w : When) (r : Wr) (s : State) : Host.Outcome State Fault Refusal := cmdRun w (writeReg Base.lse r noOutside) s

/-- 08 R236. -/
def execClrmax (w : When) (r : Wr) (s : State) : Host.Outcome State Fault Refusal := cmdRun w (writeReg Base.lse r noOutside) s

/-- 11 R312. -/
def execFrselWrite (w : When) (r : Wr) (s : State) : Host.Outcome State Fault Refusal :=
  cmdRun w (writeReg (Base.lse + 0x420) r noOutside) s

/-- 11 R312. -/
def execColselWrite (w : When) (r : Wr) (s : State) : Host.Outcome State Fault Refusal :=
  cmdRun w (writeReg (Base.lse + 0x490) r noOutside) s

/-! ### Scan-Out -/

/-- A FETCH word: an elastic one lets reads run and is complete (09 R246); a fixed one takes what has arrived, and is complete when
BLOCKS lines have (R245). -/
def fetchAct (d op : Nat) (s : State) : State :=
  match openUnit s d 2 op 5 4 with
  | none => s
  | some x =>
    let e := x.unit - 5
    if fetchFixed x.payload then
      let s := fixedLines (takeLines s e (tickStart s + 256 * x.slot) (min (tickStart s + 256 * x.finish) (s.clk.mclk + 1)) 256) e 4096
      if fetchBlocks x.payload ≤ (psoAt s e).taken then doneDisp (modPso s e fun y => { y with taken := 0, tag := 0 }) d else s
    else doneDisp (modPso s e fun y => { y with go := true }) d

/-- 09 R245, R246. -/
def execFetchArray (w : When) (d : Nat) (s : State) : Host.Outcome State Fault Refusal := cmdRun w (fun s => fetchAct d 0 (scanNow s)) s

/-- 09 R245, R246. -/
def execFetchLines (w : When) (d : Nat) (s : State) : Host.Outcome State Fault Refusal := cmdRun w (fun s => fetchAct d 1 (scanNow s)) s

/-- 09 R247. -/
def execFetchElasticRead (w : When) (e : Nat) (s : State) : Host.Outcome State Fault Refusal :=
  cmdRun w (fun s => let s := scanNow s; if e < 4 then fetchRead s e else s) s

/-- 09 R252. -/
def execPush (w : When) (d : Nat) (s : State) : Host.Outcome State Fault Refusal :=
  cmdRun w (fun s => actDisp d 3 0 9 4 (fun s x => pushOpenWin s (x.unit - 9) x) (scanNow s)) s

/-- 09 R253: the commit window opens. -/
def execCommit (w : When) (d : Nat) (s : State) : Host.Outcome State Fault Refusal :=
  cmdRun w (fun s => actDisp d 3 1 9 4 (fun s x => commitOpen s (x.unit - 9) x) (scanNow s)) s

/-- 09 R253. -/
def execCommitSend (w : When) (e : Nat) (s : State) : Host.Outcome State Fault Refusal :=
  cmdRun w (fun s => commitSend (scanNow s) e (s.clk.cyc + 1)) s

/-- 09 R253: commit-close has come. -/
def execCommitLate (w : When) (e : Nat) (s : State) : Host.Outcome State Fault Refusal :=
  cmdRun w (fun s => commitLate (scanNow s) e s.clk.cyc) s

/-- 09 R255. -/
def execRetrain (w : When) (e : Nat) (r : Wr) (s : State) : Host.Outcome State Fault Refusal :=
  cmdRun w (fun s => if e < 4 then writeReg (Base.pso + 0x11C + 0x40 * e) r noOutside s else s) s

/-- 09 R265. -/
def execPsoSnap (w : When) (r : Wr) (s : State) : Host.Outcome State Fault Refusal := cmdRun w (writeReg Base.pso r noOutside) s

end Sys2Proof.Machine
end

