-- ==== Sys2Proof/Machine/ExecLink.lean ====
section
/-! DEFINITION. The commands of the chain ports and of store time (15) and of the twin (16). -/

namespace Sys2Proof.Machine

/-! ### Chain ports -/

/-- 15 R392. -/
def execChainFrameReceive (w : When) (p : Nat) (f : ChainFrame) (s : State) : Host.Outcome State Fault Refusal :=
  cmdRun w (fun s => chainReceive s p f) s

/-- 15 R394. -/
def execChainFrameTxStart (w : When) (q : Nat) (ts : Int) (s : State) : Host.Outcome State Fault Refusal :=
  cmdRun w (fun s => if q < 2 then txStart s q ts else s) s

/-- 15 R397. -/
def execTxtailWrite (w : When) (r : Wr) (s : State) : Host.Outcome State Fault Refusal :=
  cmdRun w (writeReg (Base.chn + 0x2C) r noOutside) s

/-- 15 R398: the word's span keeps the wire free (`wireHeld`), and is over at its end. -/
def execHold (w : When) (d : Nat) (s : State) : Host.Outcome State Fault Refusal :=
  cmdRun w (unitAct d 7 0 0x23 2 fun s d x => doneDispAt s d ((x.slot + x.span) * 256)) s

/-- 15 R398. -/
def execSend (w : When) (d : Nat) (s : State) : Host.Outcome State Fault Refusal :=
  cmdRun w (unitAct d 7 1 0x23 2 fun s d x =>
    sendEnd (linkSend s (x.unit - 0x23) (some x.word) (bits x.payload 59 54)) d (x.unit - 0x23)) s

/-- 15 R403. -/
def execDelayReqSend (w : When) (ts : Int) (s : State) : Host.Outcome State Fault Refusal := cmdRun w (fun s => delayReq s ts) s

/-- 15 R403: CHN_PTPMID and CHN_PTPMPORT. -/
def execPtpMasterWrite (w : When) (addr : Nat) (r : Wr) (s : State) : Host.Outcome State Fault Refusal :=
  cmdRun w (fun s => if Base.chn + 0x30 ≤ addr ∧ addr ≤ Base.chn + 0x38 then writeReg addr r noOutside s else s) s

/-- 15 R399. -/
def execBootreq (w : When) (s : State) : Host.Outcome State Fault Refusal := cmdRun w bootReq s

/-- 15 R399. -/
def execBootdone (w : When) (s : State) : Host.Outcome State Fault Refusal := cmdRun w bootDone s

/-- 15 R406: the ball is TREF_IN while the pin map makes it so. -/
def execTrefEdge (w : When) (s : State) : Host.Outcome State Fault Refusal :=
  cmdRun w (fun s => if (ownerBall s 0x20).isSome then trefRise s else s) s

/-- 15 R391, R394. -/
def execChnLinkUp (w : When) (p : Nat) (s : State) : Host.Outcome State Fault Refusal :=
  cmdRun w (fun s => if portUsed s p then modPort s p fun x => { x with link := true } else s) s

/-- 15 R392. -/
def execChnLinkDown (w : When) (p : Nat) (s : State) : Host.Outcome State Fault Refusal :=
  cmdRun w (fun s => portDown s p) s

/-! ### The twin -/

/-- A frame reaches a link that is up, in a domain that is on (16 R416). -/
def linkFrame (f : State → State) (s : State) : State := if s.twn.up ∧ domOn s 56 then f s else s

/-- 16 R416. -/
def execTwinLinkUp (w : When) (s : State) : Host.Outcome State Fault Refusal :=
  cmdRun w (fun s => if domOn s 56 then twinUp s else s) s

/-- 16 R416. -/
def execTwinLinkDown (w : When) (s : State) : Host.Outcome State Fault Refusal := cmdRun w twinDown s

/-- 16 R419, R421. A lead's word is complete when its bytes are on the link; any other state keeps the link as HOLD does. -/
def execBundle (w : When) (d : Nat) (s : State) : Host.Outcome State Fault Refusal :=
  cmdRun w (unitAct d 7 1 0x25 1 fun s d x =>
    let t := bundleWord s d x
    doneDispAt t d (if isLead s then min (s.clk.cyc + linkTime s t) ((x.slot + x.span) * 256) else (x.slot + x.span) * 256)) s

/-- 16 R419: complete when the BEAT is on the link. -/
def execBeat (w : When) (d : Nat) (s : State) : Host.Outcome State Fault Refusal :=
  cmdRun w (unitAct d 7 2 0x25 1 fun s d _ => let t := beatSend s; doneDispAt t d (s.clk.cyc + linkTime s t)) s

/-- 16 R419: the word's span keeps the link free (`linkHeld`), and is over at its end. -/
def execTwnHold (w : When) (d : Nat) (s : State) : Host.Outcome State Fault Refusal :=
  cmdRun w (unitAct d 7 0 0x25 1 fun s d x => doneDispAt s d ((x.slot + x.span) * 256)) s

/-- 16 R424. -/
def execBundleReceive (w : When) (f : TwinFrame) (s : State) : Host.Outcome State Fault Refusal :=
  cmdRun w (linkFrame fun s => bundleIn s f) s

/-- 16 R431. -/
def execAckReceive (w : When) (f : TwinFrame) (s : State) : Host.Outcome State Fault Refusal := cmdRun w (linkFrame fun s => ackIn s f) s

/-- 16 R427, R442. -/
def execBeatReceive (w : When) (f : TwinFrame) (s : State) : Host.Outcome State Fault Refusal := cmdRun w (linkFrame fun s => beatIn s f) s

/-- 16 R424. -/
def execMirrorReceive (w : When) (f : TwinFrame) (s : State) : Host.Outcome State Fault Refusal :=
  cmdRun w (linkFrame fun s => mirrorIn s f) s

/-- 16 R438. -/
def execStateReceive (w : When) (f : TwinFrame) (s : State) : Host.Outcome State Fault Refusal :=
  cmdRun w (linkFrame fun s => stateIn s f) s

/-- 16 R417. -/
def execFwReceive (w : When) (f : TwinFrame) (s : State) : Host.Outcome State Fault Refusal := cmdRun w (linkFrame fun s => fwIn s f) s

/-- 03 R86. -/
def execBootReceive (w : When) (f : TwinFrame) (s : State) : Host.Outcome State Fault Refusal := cmdRun w (linkFrame fun s => bootIn s f) s

/-- 16 R436. -/
def execTwinCopyRead (w : When) (s : State) : Host.Outcome State Fault Refusal := cmdRun w (fun s => if isLead s then copyRead s else s) s

/-- 16 R437: the completion of the last pass is stamped. -/
def execJoindone (w : When) (s : State) : Host.Outcome State Fault Refusal :=
  cmdRun w (fun s =>
    if isLead s ∧ s.twn.copied ∧ !s.twn.joinEv then srcEvent { s with twn := { s.twn with joinEv := true } } 0x0E 0 1 else s) s

/-- 16 R427. -/
def execLeadInChange (w : When) (level : Bool) (s : State) : Host.Outcome State Fault Refusal :=
  cmdRun w (fun s => { s with twn := { s.twn with leadIn := level } }) s

/-- 16 R434. -/
def execPartnerTimeout (w : When) (s : State) : Host.Outcome State Fault Refusal := cmdRun w partnerGone s

/-- 16 R441. -/
def execDetach (w : When) (r : Wr) (s : State) : Host.Outcome State Fault Refusal := cmdRun w (writeReg Base.twn r noOutside) s

/-- 16 R441. -/
def execYield (w : When) (r : Wr) (s : State) : Host.Outcome State Fault Refusal := cmdRun w (writeReg Base.twn r noOutside) s

/-- 16 R426. -/
def execClrfault (w : When) (r : Wr) (s : State) : Host.Outcome State Fault Refusal := cmdRun w (writeReg Base.twn r noOutside) s

/-- 16 R443. -/
def execTwnSnap (w : When) (r : Wr) (s : State) : Host.Outcome State Fault Refusal := cmdRun w (writeReg Base.twn r noOutside) s

end Sys2Proof.Machine
end

