-- ==== Sys2Proof/Machine/ExecPower.lean ====
section
/-! DEFINITION. The commands of power control (17), of pins, inputs, flash and reset (18), and of the rails (21). -/

namespace Sys2Proof.Machine

/-- 17 R450. -/
def execDomainUp (w : When) (r : Wr) (s : State) : Host.Outcome State Fault Refusal := cmdRun w (writeReg (Base.sys + 0x118) r noOutside) s

/-- 17 R450, R454. -/
def execDomainDown (w : When) (r : Wr) (s : State) : Host.Outcome State Fault Refusal := cmdRun w (writeReg (Base.sys + 0x118) r noOutside) s

/-- 17 R453. -/
def execPowerUpStart (w : When) (s : State) : Host.Outcome State Fault Refusal := cmdRun w powerUpStart s

/-- 17 R452. -/
def execDomainFullyOn (w : When) (dom : Nat) (s : State) : Host.Outcome State Fault Refusal := cmdRun w (fun s => domainFullyOn s dom) s

/-- 17 R456. -/
def execPowerGoodFail (w : When) (dom : Nat) (s : State) : Host.Outcome State Fault Refusal := cmdRun w (fun s => powerGoodFailed s dom) s

/-- 17 R457. -/
def execPlanStart (w : When) (r : Wr) (s : State) : Host.Outcome State Fault Refusal := cmdRun w (writeReg (Base.sys + 0x120) r noOutside) s

/-- 17 R457. -/
def execPlanCancel (w : When) (r : Wr) (s : State) : Host.Outcome State Fault Refusal := cmdRun w (writeReg (Base.sys + 0x120) r noOutside) s

/-- 17 R457. -/
def execPlanTimeout (w : When) (s : State) : Host.Outcome State Fault Refusal := cmdRun w planTimeoutNow s

/-- 17 R460. -/
def execSafeDarkEntry (w : When) (r : Wr) (s : State) : Host.Outcome State Fault Refusal :=
  cmdRun w (writeReg (Base.sys + 0x130) r noOutside) s

/-- 17 R461. -/
def execWakeTimer (w : When) (s : State) : Host.Outcome State Fault Refusal := cmdRun w wakeTimerNow s

/-- 17 R461. -/
def execWakeGp0 (w : When) (s : State) : Host.Outcome State Fault Refusal := cmdRun w wakeGp0Now s

/-! ### Resets -/

/-- 18 R481, R482. -/
def execPorstN (w : When) (straps : BitVec 4) (fuses : List Byte) (s : State) : Host.Outcome State Fault Refusal :=
  cmdRun w (fun s => porstRelease s straps fuses) s

/-- 18 R481. -/
def execResetN (w : When) (s : State) : Host.Outcome State Fault Refusal := cmdRun w resetN s

/-- 18 R481. -/
def execSoftwareReset (w : When) (r : Wr) (s : State) : Host.Outcome State Fault Refusal :=
  cmdRun w (writeReg (Base.sys + 0x208) r noOutside) s

/-- 18 R482. -/
def execPll0Lock (w : When) (s : State) : Host.Outcome State Fault Refusal := cmdRun w pll0Locked s

/-- 21 R522. -/
def execBrownout (w : When) (s : State) : Host.Outcome State Fault Refusal := cmdRun w brownOut s

/-- 21 R522. -/
def execVaonLow (w : When) (s : State) : Host.Outcome State Fault Refusal := cmdRun w vaonLow s

/-- 21 R522. -/
def execRailRecovery (w : When) (s : State) : Host.Outcome State Fault Refusal := cmdRun w railsBack s

/-! ### Inputs and flash -/

/-- 18 R477. -/
def execInputEvent (w : When) (idx : Nat) (value : Int) (s : State) : Host.Outcome State Fault Refusal :=
  cmdRun w (fun s => inputEvent s idx value) s

/-- 18 R480. -/
def execStale (w : When) (idx : Nat) (s : State) : Host.Outcome State Fault Refusal :=
  cmdRun w (fun s => if staleDue s idx then stampStale s idx s.clk.cyc else s) s

/-- 18 R483. -/
def execFlashCommand (w : When) (r : Wr) (s : State) : Host.Outcome State Fault Refusal :=
  cmdRun w (writeReg (Base.sys + 0x240) r noOutside) s

/-- 18 R483: the command that runs completes. The data of a command that reads go to its buffer in SRAM banks 1
to 7. -/
def flashDone (s : State) (data : Bytes) : State :=
  if !s.pins.flBusy then s
  else
    let ctl := rwGet s (Base.sys + 0x240) 0
    let a := rwGet s (Base.sys + 0x248) 0
    let n := min (bits ctl 12 0) 4096
    let b := padTo n data
    let fits : Bool := decide (0x10100000 ≤ a ∧ a + n ≤ 0x10800000)
    let s : State := { s with pins := { s.pins with flBusy := false } }
    if !bitAt ctl 17 ∧ fits then sramPut s (a - 0x10000000) b else s

/-- 18 R483. -/
def execFlashCommandDone (w : When) (data : List Byte) (s : State) : Host.Outcome State Fault Refusal :=
  cmdRun w (fun s => flashDone s data) s

end Sys2Proof.Machine
end

