-- ==== Sys2Proof/Machine/ExecSaf.lean ====
section
/-! DEFINITION. The commands of Aperture (14). -/

namespace Sys2Proof.Machine

/-- 14 R377, R367: code 1. -/
def execIntlkOpen (w : When) (s : State) : Host.Outcome State Fault Refusal := cmdRun w intlkOpenNow s

/-- 14 R377: code 2. Two levels that differ are no discrepancy. -/
def execIntlkDisc (w : When) (a b : Bool) (s : State) : Host.Outcome State Fault Refusal :=
  cmdRun w (fun s => if a = b then intlkDiscNow s a else s) s

/-- 14 R377: code 3. -/
def execScanloss (w : When) (e : Nat) (s : State) : Host.Outcome State Fault Refusal := cmdRun w (fun s => scanlossNow s e) s

/-- 14 R375, R377: code 4, when what the monitor has shown for 20 Aperture cycles is above the channel's cap. -/
def execOverpower (w : When) (m : Monitor) (s : State) : Host.Outcome State Fault Refusal :=
  cmdRun w (fun s => overpowerNow s m.chan m.lvl) s

/-- 14 R377: code 6. -/
def execTickloss (w : When) (s : State) : Host.Outcome State Fault Refusal := cmdRun w (fun s => clockLoss s 6) s

/-- 14 R377: code 7. -/
def execClkloss (w : When) (s : State) : Host.Outcome State Fault Refusal := cmdRun w (fun s => clockLoss s 7) s

/-- 14 R377: code 10. -/
def execStrap (w : When) (level : Bool) (s : State) : Host.Outcome State Fault Refusal := cmdRun w (fun s => strapNow s level) s

/-- 14 R377: code 11, or a ball that reads back as driven again. -/
def execLenfault (w : When) (n : Nat) (ball : Bool) (s : State) : Host.Outcome State Fault Refusal :=
  cmdRun w (fun s => if n < 16 then lenfaultNow s n ball else s) s

/-- 14 R377: code 12. -/
def execForce (w : When) (r : Wr) (s : State) : Host.Outcome State Fault Refusal :=
  cmdRun w (writeReg (Base.saf + 0x0C) r noOutside) s

/-- 14 R385: code 13, with the latency that Aperture measures. -/
def execTest (w : When) (r : Wr) (lat : Nat) (s : State) : Host.Outcome State Fault Refusal :=
  cmdRun w (writeReg (Base.saf + 0x20) r { lat := lat, pc := 0, view := [] }) s

/-- 14 R383. -/
def execRearmRequest (w : When) (r : Wr) (s : State) : Host.Outcome State Fault Refusal :=
  cmdRun w (writeReg (Base.saf + 0x08) r noOutside) s

/-- 14 R383: HOLDING is a function of Aperture's time, which this command lets pass. -/
def execRearmholdExpiry (w : When) (s : State) : Host.Outcome State Fault Refusal := cmdRun w id s

/-- 08 R222, 14 R373: an edge on a zero-crossing ball, for the tracker and for Aperture. -/
def execZxinEdge (w : When) (e : Nat) (rising envOk : Bool) (slow : Nat) (s : State) : Host.Outcome State Fault Refusal :=
  cmdRun w (fun s =>
    if e < 4 ∧ (ownerBall s (0x10 + e)).isSome then crossing (srcEvent s 0x08 e (b2n rising)) e rising envOk slow else s) s

/-- 14 R387. -/
def execZoneselWrite (w : When) (r : Wr) (s : State) : Host.Outcome State Fault Refusal :=
  cmdRun w (writeReg (Base.saf + 0x2C) r noOutside) s

/-- 14 R387. -/
def execLogselWrite (w : When) (r : Wr) (s : State) : Host.Outcome State Fault Refusal :=
  cmdRun w (writeReg (Base.saf + 0x30) r noOutside) s

/-- 14 R383. -/
def execInterlockClosed (w : When) (s : State) : Host.Outcome State Fault Refusal := cmdRun w interlockClosedNow s

end Sys2Proof.Machine
end

