-- ==== Sys2Proof/Machine/ExecServo.lean ====
section
/-! DEFINITION. The commands of the servo engine (10), of calibration and trim (12) and of Loupe (13). -/

namespace Sys2Proof.Machine

/-! ### The servo engine -/

/-- 10 R274: the loop of a COMPUTE word is updated or held. -/
def computeAct (s : State) (x : Disp) : State := computeLoop s (x.unit - 0x11) (bits x.payload 59 56)

/-- 10 R274. -/
def execCompute (w : When) (d : Nat) (s : State) : Host.Outcome State Fault Refusal :=
  cmdRun w (fun s => actDisp d 5 0 0x11 16 computeAct (scanNow s)) s

/-- 10 R274: the FINISH of a COMPUTE word that is complete. -/
def drvAct (d : Nat) (s : State) : State :=
  match s.tsq.disp[d]? with
  | some x =>
    if x.kind = 5 ∧ 0x11 ≤ x.unit ∧ x.unit < 0x21 ∧ x.done ∧ 256 * x.finish ≤ s.clk.cyc then drvWrite s (x.unit - 0x11) else s
  | none => s

/-- 10 R274. -/
def execDrvWrite (w : When) (d : Nat) (s : State) : Host.Outcome State Fault Refusal := cmdRun w (drvAct d) s

/-- 10 R275: the flip cycle of a FIELD word. -/
def sharedAct (d : Nat) (s : State) : State :=
  match s.tsq.disp[d]? with
  | some x =>
    let e := x.unit - 0xD
    if x.kind = 4 ∧ 0xD ≤ x.unit ∧ x.unit < 0x11 ∧ bits x.payload 63 60 = 0 ∧ unitOn s x.unit then
      sharedWrite s e (4 * e + fieldCh s e (bits x.payload 59 56))
    else s
  | none => s

/-- 10 R275. -/
def execSharedDrvWrite (w : When) (d : Nat) (s : State) : Host.Outcome State Fault Refusal := cmdRun w (sharedAct d) s

/-- 10 R272: the sample of a sense channel at a sixteenth of the tick is ready; a lead puts it into its bundle (16 R422). -/
def execSnsSample (w : When) (ch j : Nat) (raws : List Nat) (ok : Bool) (s : State) : Host.Outcome State Fault Refusal :=
  cmdRun w (fun s => bundleSamples (snsSample s ch j raws ok) s.srv.samp.length) s

/-- 10 R290. -/
def execSrvSnap (w : When) (r : Wr) (s : State) : Host.Outcome State Fault Refusal := cmdRun w (writeReg Base.srv r noOutside) s

/-! ### Calibration and trim -/

/-- 12 R317. -/
def execOtpProgram (w : When) (r : Wr) (s : State) : Host.Outcome State Fault Refusal :=
  cmdRun w (writeReg (Base.cal + 0x20) r noOutside) s

/-- 12 R317. -/
def execOtpProgramDone (w : When) (readback : Word) (s : State) : Host.Outcome State Fault Refusal :=
  cmdRun w (fun s => otpProgDone s readback.toNat) s

/-- 12 R323. -/
def execImportRec (w : When) (r : Wr) (s : State) : Host.Outcome State Fault Refusal := cmdRun w (writeReg Base.cal r noOutside) s

/-- 12 R323. -/
def execImportDone (w : When) (s : State) : Host.Outcome State Fault Refusal := cmdRun w importDoneNow s

/-- 12 R322. -/
def execNvmRecordWriteDone (w : When) (ok : Bool) (s : State) : Host.Outcome State Fault Refusal := cmdRun w (fun s => nvmDone s ok) s

/-- 12 R337. -/
def execNvmdataRead (w : When) (src : Nat) (s : State) : Host.Outcome State Fault Refusal :=
  cmdRun w (fun s => if domsOn s (targetDoms s (.reg (Base.cal + 0x78)) 4) then (regRead s src (Base.cal + 0x78)).2 else s) s

/-- 12 R337. -/
def execRatioselWrite (w : When) (r : Wr) (s : State) : Host.Outcome State Fault Refusal :=
  cmdRun w (writeReg (Base.cal + 0x50) r noOutside) s

/-- 12 R332: a STEP word, with the raw conversions that it takes. -/
def execCalStep (w : When) (d : Nat) (raws : List Nat) (s : State) : Host.Outcome State Fault Refusal :=
  cmdRun w (actDisp d 8 0 0x26 1 fun s _ => calStepNow (if calConverts s then bundleRaws s raws else s) raws) s

/-- 12 R331. -/
def execRunTimeout (w : When) (s : State) : Host.Outcome State Fault Refusal := cmdRun w runTimeoutNow s

/-! ### Loupe -/

/-- 13 R341. -/
def execCsiPacketReceive (w : When) (rx : Nat) (p : CsiPacket) (s : State) : Host.Outcome State Fault Refusal :=
  cmdRun w (fun s => csiPacket s rx p) s

/-- 13 R351. -/
def execProcess (w : When) (d : Nat) (s : State) : Host.Outcome State Fault Refusal := cmdRun w (fun s => unitAct d 6 0 0x21 2 processWord s) s

/-- 13 R344. -/
def execExpose (w : When) (d : Nat) (s : State) : Host.Outcome State Fault Refusal := cmdRun w (actDisp d 6 1 0x21 2 exposeWord) s

/-- 13 R358. -/
def execMetric (w : When) (d : Nat) (s : State) : Host.Outcome State Fault Refusal := cmdRun w (fun s => unitAct d 6 2 0x21 2 metricWord s) s

/-- 13 R360. -/
def execPresence (w : When) (d : Nat) (s : State) : Host.Outcome State Fault Refusal := cmdRun w (fun s => unitAct d 6 3 0x21 2 presenceWord s) s

/-- 13 R361, 14 R377 code 5: the FINISH of a PRESENCE word that is complete; a valid map may show a lit zone occupied. -/
def handAct (d : Nat) (s : State) : State :=
  match s.tsq.disp[d]? with
  | some x =>
    if x.kind = 6 ∧ bits x.payload 63 60 = 3 ∧ doneBy x s.clk.cyc ∧ 256 * x.finish ≤ s.clk.cyc then
      mapHand s
    else s
  | none => s

/-- 13 R361. -/
def execMapHandover (w : When) (d : Nat) (s : State) : Host.Outcome State Fault Refusal := cmdRun w (handAct d) s

/-- 13 R356. -/
def execFrameDone (w : When) (c : Nat) (s : State) : Host.Outcome State Fault Refusal := cmdRun w (fun s => frameDoneNow s c) s

/-- 13 R363. -/
def execLpeSnap (w : When) (r : Wr) (s : State) : Host.Outcome State Fault Refusal := cmdRun w (writeReg Base.lpe r noOutside) s

end Sys2Proof.Machine
end

