-- ==== Sys2Proof/Machine/ExecTsq.lean ====
section
/-! DEFINITION. The commands of the tick sequencer (04), the register window (00) and the loader (03). -/

namespace Sys2Proof.Machine

/-! ### The tick sequencer -/

/-- The time of a boundary: the running tick has its length (02 R39). -/
def tickWhen (w : When) (s : State) : When := { w with dt := s.clk.len - s.clk.cyc }

/-- 04 R113. -/
def execTickBoundary (w : When) (i : BoundaryIn) (s : State) : Host.Outcome State Fault Refusal :=
  cmdRun (tickWhen w s) (fun s => boundary s i) s

/-- 04 R108, R109. -/
def execMailboxPush (w : When) (r : Wr) (s : State) : Host.Outcome State Fault Refusal :=
  cmdRun w (writeReg (Base.tsq + 0x90) r noOutside) s

/-- Control word `k` of the tick at its SLOT, if it is a WAIT or is not. -/
def ctlAt (k : Nat) (wait : Bool) (s : State) : State :=
  match s.tsq.ctl[k]? with
  | some c => if c.isWait = wait ∧ 256 * c.slot ≤ s.clk.cyc then ctlNow s k else s
  | none => s

/-- 04 R102: a WAIT, by its place among the tick's control words. -/
def execWait (w : When) (d : Nat) (s : State) : Host.Outcome State Fault Refusal := cmdRun w (ctlAt d true) s

/-- 04 R102: a BARRIER. -/
def execBarrier (w : When) (d : Nat) (s : State) : Host.Outcome State Fault Refusal := cmdRun w (ctlAt d false) s

/-- 04 R115. -/
def execSlotOverrun (w : When) (d : Nat) (s : State) : Host.Outcome State Fault Refusal :=
  cmdRun w (fun s => match s.tsq.disp[d]? with
    | some x => if 256 * x.finish ≤ s.clk.cyc then overrunNow s d else s
    | none => s) s

/-- 04 R115. -/
def execDeadline (w : When) (d : Nat) (s : State) : Host.Outcome State Fault Refusal :=
  cmdRun w (fun s => match s.tsq.disp[d]? with
    | some x => if 256 * x.deadline ≤ s.clk.cyc then deadlineNow s d else s
    | none => s) s

/-- 02 R68. -/
def execGuardminClr (w : When) (r : Wr) (s : State) : Host.Outcome State Fault Refusal :=
  cmdRun w (writeReg (Base.tsq + 0x10) r noOutside) s

/-- 04 R120. -/
def execMresselWrite (w : When) (r : Wr) (s : State) : Host.Outcome State Fault Refusal :=
  cmdRun w (writeReg (Base.tsq + 0xA0) r noOutside) s

/-- 04 R120. -/
def execFlogselWrite (w : When) (r : Wr) (s : State) : Host.Outcome State Fault Refusal :=
  cmdRun w (writeReg (Base.tsq + 0x108) r noOutside) s

/-! ### The register window -/

/-- 00 R9: a read of the low word of a pair latches the high one for its source. -/
def execWideLowRead (w : When) (src addr : Nat) (s : State) : Host.Outcome State Fault Refusal :=
  cmdRun w (fun s => if isWideLow addr && domsOn s (targetDoms s (.reg addr) 4) then (regRead s src addr).2 else s) s

/-- 00 R11. -/
def execWideHighWrite (w : When) (addr : Nat) (r : Wr) (s : State) : Host.Outcome State Fault Refusal :=
  cmdRun w (fun s => if isWideHigh addr then writeReg addr r noOutside s else s) s

/-- 00 R11. -/
def execWideLowWrite (w : When) (addr : Nat) (r : Wr) (s : State) : Host.Outcome State Fault Refusal :=
  cmdRun w (fun s => if (widePair addr).isSome then writeReg addr r noOutside s else s) s

/-- 00 R4, R6: a write that is not of one aligned word does nothing. One that would need what stands outside takes free values. -/
def execRegisterWrite (w : When) (addr size : Nat) (r : Wr) (s : State) : Host.Outcome State Fault Refusal :=
  cmdRun w (fun s =>
    if size ≠ 4 then s
    else if takesOutside addr then writeReg addr r (freeOutside s) (useOutside s)
    else writeReg addr r noOutside s) s

/-- 00 R12. -/
def execSnapCopyDone (w : When) (blk : Nat) (s : State) : Host.Outcome State Fault Refusal := cmdRun w (fun s => snapDone s blk) s

/-! ### The loader -/

/-- 03 R96. -/
def execFldSnap (w : When) (r : Wr) (s : State) : Host.Outcome State Fault Refusal :=
  cmdRun w (writeReg Base.fld r noOutside) s

/-- 03 R96. -/
def execFldStart (w : When) (r : Wr) (s : State) : Host.Outcome State Fault Refusal :=
  cmdRun w (writeReg Base.fld r noOutside) s

/-- 03 R83 to R88. -/
def execBaseImageReceived (w : When) (bytes : List Byte) (ended : Bool) (s : State) : Host.Outcome State Fault Refusal :=
  cmdRun w (fun s => imageReceived s bytes ended) s

/-- 03 R84. -/
def execBootSourceTimeout (w : When) (s : State) : Host.Outcome State Fault Refusal := cmdRun w sourceTimeout s

/-- 03 R87. -/
def execBootRetry (w : When) (s : State) : Host.Outcome State Fault Refusal := cmdRun w bootRetryNow s

/-- 03 R89. -/
def execHotCheck (w : When) (r : Wr) (s : State) : Host.Outcome State Fault Refusal :=
  cmdRun w (writeReg (Base.fld + 0x20) r noOutside) s

/-- 03 R91. -/
def execHotDiscard (w : When) (r : Wr) (s : State) : Host.Outcome State Fault Refusal :=
  cmdRun w (writeReg (Base.fld + 0x20) r noOutside) s

/-- 03 R90. -/
def execHotCheckDone (w : When) (s : State) : Host.Outcome State Fault Refusal := cmdRun w hotCheckEnd s

/-- 03 R77. -/
def execSvbump (w : When) (r : Wr) (s : State) : Host.Outcome State Fault Refusal :=
  cmdRun w (writeReg (Base.fld + 0x18) r noOutside) s

end Sys2Proof.Machine
end

