-- ==== Sys2Proof/Machine/Dispatch.lean ====
section
/-! DEFINITION. The dispatch: one arm for each command, which calls its meaning. -/

namespace Sys2Proof.Machine

/-- The effect of a command on everything but the queue. -/
def exec (i : Instr) (s : State) : Host.Outcome State Fault Refusal :=
  match i with
  | .tickBoundary w inp => Sys2Proof.Machine.execTickBoundary w inp s
  | .mailboxPush w r => Sys2Proof.Machine.execMailboxPush w r s
  | .wait w d => Sys2Proof.Machine.execWait w d s
  | .barrier w d => Sys2Proof.Machine.execBarrier w d s
  | .slotOverrun w d => Sys2Proof.Machine.execSlotOverrun w d s
  | .deadline w d => Sys2Proof.Machine.execDeadline w d s
  | .guardminClr w r => Sys2Proof.Machine.execGuardminClr w r s
  | .mresselWrite w r => Sys2Proof.Machine.execMresselWrite w r s
  | .flogselWrite w r => Sys2Proof.Machine.execFlogselWrite w r s
  | .wideLowRead w src addr => Sys2Proof.Machine.execWideLowRead w src addr s
  | .wideHighWrite w addr r => Sys2Proof.Machine.execWideHighWrite w addr r s
  | .wideLowWrite w addr r => Sys2Proof.Machine.execWideLowWrite w addr r s
  | .registerWrite w addr size r => Sys2Proof.Machine.execRegisterWrite w addr size r s
  | .snapCopyDone w blk => Sys2Proof.Machine.execSnapCopyDone w blk s
  | .fldSnap w r => Sys2Proof.Machine.execFldSnap w r s
  | .fldStart w r => Sys2Proof.Machine.execFldStart w r s
  | .baseImageReceived w bytes ended => Sys2Proof.Machine.execBaseImageReceived w bytes ended s
  | .bootSourceTimeout w => Sys2Proof.Machine.execBootSourceTimeout w s
  | .bootRetry w => Sys2Proof.Machine.execBootRetry w s
  | .hotCheck w r => Sys2Proof.Machine.execHotCheck w r s
  | .hotDiscard w r => Sys2Proof.Machine.execHotDiscard w r s
  | .hotCheckDone w => Sys2Proof.Machine.execHotCheckDone w s
  | .svbump w r => Sys2Proof.Machine.execSvbump w r s
  | .fabricRequest w q => Sys2Proof.Machine.execFabricRequest w q s
  | .egressDequeue w e => Sys2Proof.Machine.execEgressDequeue w e s
  | .responseDelivery w src => Sys2Proof.Machine.execResponseDelivery w src s
  | .qselWrite w r => Sys2Proof.Machine.execQselWrite w r s
  | .drainEnd w dom => Sys2Proof.Machine.execDrainEnd w dom s
  | .flushEnd w dom => Sys2Proof.Machine.execFlushEnd w dom s
  | .isolateEnd w dom => Sys2Proof.Machine.execIsolateEnd w dom s
  | .powerSwitchOpen w dom => Sys2Proof.Machine.execPowerSwitchOpen w dom s
  | .dramRead w d errs => Sys2Proof.Machine.execDramRead w d errs s
  | .dramWrite w d errs => Sys2Proof.Machine.execDramWrite w d errs s
  | .refab w d => Sys2Proof.Machine.execRefab w d s
  | .refpb w d => Sys2Proof.Machine.execRefpb w d s
  | .mrr4 w d => Sys2Proof.Machine.execMrr4 w d s
  | .rfmab w d => Sys2Proof.Machine.execRfmab w d s
  | .rfmpb w d => Sys2Proof.Machine.execRfmpb w d s
  | .zqlat w d => Sys2Proof.Machine.execZqlat w d s
  | .sre w d => Sys2Proof.Machine.execSre w d s
  | .srx w d => Sys2Proof.Machine.execSrx w d s
  | .mr4Return w chan rank raw => Sys2Proof.Machine.execMr4Return w chan rank raw s
  | .elasticIssue w c errs => Sys2Proof.Machine.execElasticIssue w c errs s
  | .retireCondemn w r => Sys2Proof.Machine.execRetireCondemn w r s
  | .retireStart w r => Sys2Proof.Machine.execRetireStart w r s
  | .retireAbort w r => Sys2Proof.Machine.execRetireAbort w r s
  | .migCopy w ahead => Sys2Proof.Machine.execMigCopy w ahead s
  | .freqStepDone w bad => Sys2Proof.Machine.execFreqStepDone w bad s
  | .freqChangeEnd w => Sys2Proof.Machine.execFreqChangeEnd w s
  | .bootTrainingDone w bad rfm => Sys2Proof.Machine.execBootTrainingDone w bad rfm s
  | .chmaxageClr w c r => Sys2Proof.Machine.execChmaxageClr w c r s
  | .elogselWrite w r => Sys2Proof.Machine.execElogselWrite w r s
  | .field w d => Sys2Proof.Machine.execField w d s
  | .raster w d => Sys2Proof.Machine.execRaster w d s
  | .vector w d => Sys2Proof.Machine.execVector w d s
  | .pathElementEnd w e => Sys2Proof.Machine.execPathElementEnd w e s
  | .lseSnap w r => Sys2Proof.Machine.execLseSnap w r s
  | .clrmax w r => Sys2Proof.Machine.execClrmax w r s
  | .frselWrite w r => Sys2Proof.Machine.execFrselWrite w r s
  | .colselWrite w r => Sys2Proof.Machine.execColselWrite w r s
  | .fetchArray w d => Sys2Proof.Machine.execFetchArray w d s
  | .fetchLines w d => Sys2Proof.Machine.execFetchLines w d s
  | .fetchElasticRead w e => Sys2Proof.Machine.execFetchElasticRead w e s
  | .push w d => Sys2Proof.Machine.execPush w d s
  | .commit w d => Sys2Proof.Machine.execCommit w d s
  | .commitSend w e => Sys2Proof.Machine.execCommitSend w e s
  | .commitLate w e => Sys2Proof.Machine.execCommitLate w e s
  | .retrain w e r => Sys2Proof.Machine.execRetrain w e r s
  | .psoSnap w r => Sys2Proof.Machine.execPsoSnap w r s
  | .compute w d => Sys2Proof.Machine.execCompute w d s
  | .drvWrite w d => Sys2Proof.Machine.execDrvWrite w d s
  | .sharedDrvWrite w d => Sys2Proof.Machine.execSharedDrvWrite w d s
  | .snsSample w ch j raws ok => Sys2Proof.Machine.execSnsSample w ch j raws ok s
  | .srvSnap w r => Sys2Proof.Machine.execSrvSnap w r s
  | .otpProgram w r => Sys2Proof.Machine.execOtpProgram w r s
  | .otpProgramDone w readback => Sys2Proof.Machine.execOtpProgramDone w readback s
  | .importRec w r => Sys2Proof.Machine.execImportRec w r s
  | .importDone w => Sys2Proof.Machine.execImportDone w s
  | .nvmRecordWriteDone w ok => Sys2Proof.Machine.execNvmRecordWriteDone w ok s
  | .nvmdataRead w src => Sys2Proof.Machine.execNvmdataRead w src s
  | .ratioselWrite w r => Sys2Proof.Machine.execRatioselWrite w r s
  | .calStep w d raws => Sys2Proof.Machine.execCalStep w d raws s
  | .runTimeout w => Sys2Proof.Machine.execRunTimeout w s
  | .csiPacketReceive w rx p => Sys2Proof.Machine.execCsiPacketReceive w rx p s
  | .process w d => Sys2Proof.Machine.execProcess w d s
  | .expose w d => Sys2Proof.Machine.execExpose w d s
  | .metric w d => Sys2Proof.Machine.execMetric w d s
  | .presence w d => Sys2Proof.Machine.execPresence w d s
  | .mapHandover w d => Sys2Proof.Machine.execMapHandover w d s
  | .frameDone w c => Sys2Proof.Machine.execFrameDone w c s
  | .lpeSnap w r => Sys2Proof.Machine.execLpeSnap w r s
  | .intlkOpen w => Sys2Proof.Machine.execIntlkOpen w s
  | .intlkDisc w a b => Sys2Proof.Machine.execIntlkDisc w a b s
  | .scanloss w e => Sys2Proof.Machine.execScanloss w e s
  | .overpower w m => Sys2Proof.Machine.execOverpower w m s
  | .tickloss w => Sys2Proof.Machine.execTickloss w s
  | .clkloss w => Sys2Proof.Machine.execClkloss w s
  | .strap w level => Sys2Proof.Machine.execStrap w level s
  | .lenfault w n ball => Sys2Proof.Machine.execLenfault w n ball s
  | .force w r => Sys2Proof.Machine.execForce w r s
  | .test w r lat => Sys2Proof.Machine.execTest w r lat s
  | .rearmRequest w r => Sys2Proof.Machine.execRearmRequest w r s
  | .rearmholdExpiry w => Sys2Proof.Machine.execRearmholdExpiry w s
  | .zxinEdge w e rising envOk slow => Sys2Proof.Machine.execZxinEdge w e rising envOk slow s
  | .zoneselWrite w r => Sys2Proof.Machine.execZoneselWrite w r s
  | .logselWrite w r => Sys2Proof.Machine.execLogselWrite w r s
  | .chainFrameReceive w p f => Sys2Proof.Machine.execChainFrameReceive w p f s
  | .chainFrameTxStart w q ts => Sys2Proof.Machine.execChainFrameTxStart w q ts s
  | .txtailWrite w r => Sys2Proof.Machine.execTxtailWrite w r s
  | .hold w d => Sys2Proof.Machine.execHold w d s
  | .send w d => Sys2Proof.Machine.execSend w d s
  | .delayReqSend w ts => Sys2Proof.Machine.execDelayReqSend w ts s
  | .ptpMasterWrite w addr r => Sys2Proof.Machine.execPtpMasterWrite w addr r s
  | .bootreq w => Sys2Proof.Machine.execBootreq w s
  | .bootdone w => Sys2Proof.Machine.execBootdone w s
  | .trefEdge w => Sys2Proof.Machine.execTrefEdge w s
  | .twinLinkUp w => Sys2Proof.Machine.execTwinLinkUp w s
  | .twinLinkDown w => Sys2Proof.Machine.execTwinLinkDown w s
  | .bundle w d => Sys2Proof.Machine.execBundle w d s
  | .beat w d => Sys2Proof.Machine.execBeat w d s
  | .twnHold w d => Sys2Proof.Machine.execTwnHold w d s
  | .bundleReceive w f => Sys2Proof.Machine.execBundleReceive w f s
  | .ackReceive w f => Sys2Proof.Machine.execAckReceive w f s
  | .beatReceive w f => Sys2Proof.Machine.execBeatReceive w f s
  | .mirrorReceive w f => Sys2Proof.Machine.execMirrorReceive w f s
  | .stateReceive w f => Sys2Proof.Machine.execStateReceive w f s
  | .fwReceive w f => Sys2Proof.Machine.execFwReceive w f s
  | .bootReceive w f => Sys2Proof.Machine.execBootReceive w f s
  | .twinCopyRead w => Sys2Proof.Machine.execTwinCopyRead w s
  | .joindone w => Sys2Proof.Machine.execJoindone w s
  | .leadInChange w level => Sys2Proof.Machine.execLeadInChange w level s
  | .partnerTimeout w => Sys2Proof.Machine.execPartnerTimeout w s
  | .detach w r => Sys2Proof.Machine.execDetach w r s
  | .yield w r => Sys2Proof.Machine.execYield w r s
  | .clrfault w r => Sys2Proof.Machine.execClrfault w r s
  | .twnSnap w r => Sys2Proof.Machine.execTwnSnap w r s
  | .domainUp w r => Sys2Proof.Machine.execDomainUp w r s
  | .domainDown w r => Sys2Proof.Machine.execDomainDown w r s
  | .powerUpStart w => Sys2Proof.Machine.execPowerUpStart w s
  | .domainFullyOn w dom => Sys2Proof.Machine.execDomainFullyOn w dom s
  | .powerGoodFail w dom => Sys2Proof.Machine.execPowerGoodFail w dom s
  | .planStart w r => Sys2Proof.Machine.execPlanStart w r s
  | .planCancel w r => Sys2Proof.Machine.execPlanCancel w r s
  | .planTimeout w => Sys2Proof.Machine.execPlanTimeout w s
  | .safeDarkEntry w r => Sys2Proof.Machine.execSafeDarkEntry w r s
  | .wakeTimer w => Sys2Proof.Machine.execWakeTimer w s
  | .wakeGp0 w => Sys2Proof.Machine.execWakeGp0 w s
  | .porstN w straps fuses => Sys2Proof.Machine.execPorstN w straps fuses s
  | .resetN w => Sys2Proof.Machine.execResetN w s
  | .softwareReset w r => Sys2Proof.Machine.execSoftwareReset w r s
  | .brownout w => Sys2Proof.Machine.execBrownout w s
  | .vaonLow w => Sys2Proof.Machine.execVaonLow w s
  | .inputEvent w idx value => Sys2Proof.Machine.execInputEvent w idx value s
  | .stale w idx => Sys2Proof.Machine.execStale w idx s
  | .flashCommand w r => Sys2Proof.Machine.execFlashCommand w r s
  | .flashCommandDone w data => Sys2Proof.Machine.execFlashCommandDone w data s
  | .start w r => Sys2Proof.Machine.execStart w r s
  | .stop w r => Sys2Proof.Machine.execStop w r s
  | .loadcfg w r => Sys2Proof.Machine.execLoadcfg w r s
  | .clrev w r => Sys2Proof.Machine.execClrev w r s
  | .wdgService w r pc => Sys2Proof.Machine.execWdgService w r pc s
  | .wdgKeyExpiry w => Sys2Proof.Machine.execWdgKeyExpiry w s
  | .wdgWarn w => Sys2Proof.Machine.execWdgWarn w s
  | .wdgTimeout w pc => Sys2Proof.Machine.execWdgTimeout w pc s
  | .clklossBite w => Sys2Proof.Machine.execClklossBite w s
  | .lineReset w clocks => Sys2Proof.Machine.execLineReset w clocks s
  | .ident w q => Sys2Proof.Machine.execIdent w q s
  | .connect w q => Sys2Proof.Machine.execConnect w q s
  | .disconnect w q => Sys2Proof.Machine.execDisconnect w q s
  | .reset w q => Sys2Proof.Machine.execReset w q s
  | .memrd w q => Sys2Proof.Machine.execMemrd w q s
  | .memwr w q => Sys2Proof.Machine.execMemwr w q s
  | .memwrf w q => Sys2Proof.Machine.execMemwrf w q s
  | .hkphalt w r h => Sys2Proof.Machine.execHkphalt w r h s
  | .hkprun w r => Sys2Proof.Machine.execHkprun w r s
  | .hkpstep w r => Sys2Proof.Machine.execHkpstep w r s
  | .pcBreakpoint w h => Sys2Proof.Machine.execPcBreakpoint w h s
  | .tsqhalt w r => Sys2Proof.Machine.execTsqhalt w r s
  | .tsqrun w r => Sys2Proof.Machine.execTsqrun w r s
  | .tstep w r => Sys2Proof.Machine.execTstep w r s
  | .tickSlotBreakpoint w => Sys2Proof.Machine.execTickSlotBreakpoint w s
  | .tapInstruction w ir => Sys2Proof.Machine.execTapInstruction w ir s
  | .interlockClosed w => Sys2Proof.Machine.execInterlockClosed w s
  | .chnLinkUp w p => Sys2Proof.Machine.execChnLinkUp w p s
  | .chnLinkDown w p => Sys2Proof.Machine.execChnLinkDown w p s
  | .hkpStepEnd w h => Sys2Proof.Machine.execHkpStepEnd w h s
  | .connectTimeout w => Sys2Proof.Machine.execConnectTimeout w s
  | .railRecovery w => Sys2Proof.Machine.execRailRecovery w s
  | .tapReset w => Sys2Proof.Machine.execTapReset w s
  | .pll0Lock w => Sys2Proof.Machine.execPll0Lock w s

end Sys2Proof.Machine
end

