-- ==== Sys2Proof/Safety.lean ====
section
/-! DEFINITION. What a safe run is: the levels of the laser enables in Dark and out of it (01 R28 to R30, 14 R370), and the form of memory. -/

namespace Sys2Proof.Machine

/-- 14 R370: each of the sixteen laser enables stands at the level that Aperture's conditions give it. -/
def EnablesRight (s : State) : Prop := ∀ n : Nat, n < 16 → bitAt s.saf.drive n = (lenLevel s n).1

/-- 01 R30: while Dark stands every enable is low. -/
def DarkIsDark (s : State) : Prop := s.saf.dark = true → ∀ n : Nat, n < 16 → bitAt s.saf.drive n = false

/-- 01 R29: the enable of channel `n` is high, and the channel writes violet. -/
def VioletOn (s : State) (n : Nat) : Prop := bitAt s.saf.drive n = true ∧ chanRole s n = 4

/-- Every memory of the chip is in its one form: addresses rise, and no byte is listed that an unlisted address would show. -/
def MemoryInForm (s : State) : Prop := Memory.wf s.mem = true

/-- Nothing waits in the fabric that the chip itself started or that a source holds, and the levels of the elastic fetch reads stand as the
demand sets them (05 R127, R131, 09 R247): a request that comes now meets no other. -/
def FabricCalm (s : State) : Prop :=
  s.fab.held = [] ∧ s.fab.xfers = [] ∧ s.dbg.mem = none ∧ s.twn.fwd = [] ∧
    ∀ e : Nat, e < 4 → (psoAt s e).cls = if (psoAt s e).go = true ∨ s.boot.fallback = true then urgency s e else 0

end Sys2Proof.Machine
end

