-- ==== Sys2Proof/Certificates/Slice0/Obligations.lean ====
section
/-! DEFINITION. The statements: what the commands do, family by family, and what holds of the whole block. `endCmd s b` is the state that a
command leaves when its own effect on `s` has made `b` (Machine/Finish.lean). -/

open Sys2Proof Sys2Proof.Machine

/-! ### Every command -/

/-- A step takes the command at the front of the queue and runs it with the queue's rest. -/
def Obligations.StepRunsFrontCommand : Prop :=
  ∀ (c : Instr) (r : List Instr) (s : State), s.pending = c :: r → step s = exec c { s with pending := r }

/-- With no command waiting the block idles (assumption log entry 2: the model's choice). -/
def Obligations.EmptyQueueIdles : Prop := ∀ s : State, s.pending = [] → step s = .next s

/-- No command stops the machine, and none touches the queue: it is first in, first out. -/
def Obligations.CommandsAnswerAndKeepQueue : Prop :=
  ∀ (c : Instr) (r : List Instr) (s : State), s.pending = c :: r → ∃ t, step s = .next t ∧ t.pending = r

/-- The machine right after reset: no image, no tick, Dark with cause BOOT, no enable driven, no command waiting. -/
def Obligations.ResetState : Prop :=
  State.reset.pending = [] ∧ State.reset.tsq.tc = 0 ∧ State.reset.tsq.run = false ∧ State.reset.fld.applied = false ∧
    State.reset.saf.dark = true ∧ State.reset.saf.cause = 0 ∧ State.reset.saf.ena = 0xFFFF ∧ State.reset.saf.drive = 0 ∧
    State.reset.tsq.guardMin = 0x1FFFFF ∧ State.reset.mem = {} ∧ State.reset.fab.held = [] ∧
    (∀ src, regValue State.reset src Base.sys = 0x4E462460)

/-- Right after reset every enable stands at its level, every memory is in its form, and only AON and SAF are fully on. -/
def Obligations.ResetKeepsTheRules : Prop :=
  EnablesRight State.reset ∧ DarkIsDark State.reset ∧ MemoryInForm State.reset ∧ ∀ d, domOn State.reset d = true ↔ d < 2

/-- Whatever command comes, and in whatever state, Aperture's enables stand afterwards at the levels of its conditions (14 R370). -/
def Obligations.StepKeepsEnablesRight : Prop := ∀ s t : State, EnablesRight s → step s = .next t → EnablesRight t

/-- What standing at those levels gives: nothing is lit in Dark (01 R30), violet only in set 1 while the machine runs (01 R29), and nothing at
all by a shadow (01 R24), without a good ceiling region and factory record (12 R315, R318), or on an engine that has none. -/
def Obligations.EnablesRightIsSafe : Prop :=
  ∀ s : State, EnablesRight s → DarkIsDark s ∧
    ∀ n : Nat, n < 16 → bitAt s.saf.drive n = true →
      ceilOk s = true ∧ trimOk s = true ∧ isShadow s = false ∧ bitAt s.saf.ena n = true ∧ engKind s (n / 4) ≠ 0 ∧
        (VioletOn s n → s.tsq.run = true ∧ s.tsq.set = 1) ∧
        (engKind s (n / 4) = 2 → (safEng s (n / 4)).qual = true ∧ (safEng s (n / 4)).park = false)

/-- The time before a command: MCLK and the tick's cycle while PLL0 is locked, ACLK and AON time always, the watchdog's count while it runs and
the HKP is not halted (19 R488), domains from FENCE to DRAIN (05 R143); nothing else. While the boot ROM runs it services the watchdog (19
R495): then the count either ran on or started again within the time passed, at a free value's choice (assumption log entry 151), and never
reaches TIMEOUT. -/
def Obligations.TimePasses : Prop :=
  ∀ (w : When) (s : State),
    let dt := if s.clk.on then w.dt else 0
    let u := advance w s
    let counts := s.wdg.run = true ∧ s.dbg.hkpHalt = false
    u = { s with
      clk := { s.clk with cyc := s.clk.cyc + dt, mclk := s.clk.mclk + dt, aclk := s.clk.aclk + w.da, aon := s.clk.aon + w.du }
      wdg := u.wdg
      free := u.free
      pwr := { s.pwr with doms := s.pwr.doms.map (domTime (s.clk.mclk + dt)) } } ∧
    (∀ d, domOn u d = domOn s d) ∧
    (¬ counts → u.wdg = s.wdg ∧ u.free = s.free) ∧
    (counts → bootRomRuns s = false ∨ dt = 0 → u.wdg = { s.wdg with count := s.wdg.count + dt } ∧ u.free = s.free) ∧
    (counts → bootRomRuns s = true → 0 < dt → 0 < s.wdg.timeout →
      u.free = s.free + 1 ∧ u.wdg = { s.wdg with count := u.wdg.count, key := u.wdg.key, svTc := u.wdg.svTc, svCyc := u.wdg.svCyc } ∧
        u.wdg.count < s.wdg.timeout ∧
        ((u.wdg.count = s.wdg.count + dt ∧ u.wdg.key = s.wdg.key) ∨ (u.wdg.count ≤ dt ∧ u.wdg.key = none ∧ u.wdg.svTc = tcReg s)))

/-- Where nothing of the chip's own waits in the fabric and no write is to be forwarded, the end of a command changes no more than what
Aperture drives, the events of those enables, and the release of WDOUT_N. -/
def Obligations.CommandEndFrame : Prop :=
  ∀ s b : State, FabricCalm b →
    ∃ dr cl ca eg ev q i,
      endCmd s b = { b with
        pending := s.pending
        saf := { b.saf with drive := dr, clear := cl, clearAt := ca, eng := eg }
        lse := { b.lse with lenEv := ev }
        pins := { b.pins with evq := q, ins := i }
        wdg := { b.wdg with outAt := match b.wdg.outAt with
          | some t => if 6 ≤ b.boot.step ∧ t + 1000 ≤ b.clk.aon then none else some t
          | none => none } } ∧
      eg.map (fun x => { x with lit := [] }) = b.saf.eng.map (fun x => { x with lit := [] })

/-! ### The tick sequencer (04) -/

/-- 04 R108, R109: a push, accepted or refused. A refused one shows why and is counted; an accepted one is stamped at its cycle, and no two
entries carry the same stamp. Completes: `mailboxPush`. -/
def Obligations.MailboxPush : Prop :=
  ∀ (w : When) (r : Wr) (s : State), domOn s 5 = true → bitAt r.val.toNat 0 = true →
    let u := advance w s
    let word := fun n => alook s.tsq.stage (4 * r.src + n)
    let op := bits (word 0) 31 24
    let e : MboxEntry := { stamp := mboxStamp u, src := r.src, w := [word 0, word 1, word 2, word 3] }
    exec (.mailboxPush w r) s = .next (endCmd s (
      if 32 ≤ s.tsq.mbox.length then
        { u with tsq := { s.tsq with last := aset s.tsq.last r.src 1, drop := sat32 s.tsq.drop } }
      else if op = 0 ∨ 6 < op then
        { u with tsq := { s.tsq with last := aset s.tsq.last r.src 2, drop := sat32 s.tsq.drop } }
      else if isShadow s then
        { u with tsq := { s.tsq with last := aset s.tsq.last r.src 3, drop := sat32 s.tsq.drop } }
      else
        { u with
          tsq := { s.tsq with last := aset s.tsq.last r.src 0, mbox := s.tsq.mbox ++ [e] }
          fld := { s.fld with applyPend := if op = 2 then s.fld.applyPend + 1 else s.fld.applyPend } })) ∧
    u.clk.cyc ≤ e.stamp ∧ ∀ x, s.tsq.mbox.getLast? = some x → x.stamp < e.stamp

/-- 04 R102, R103, R115: a WAIT or a BARRIER at its slot. With no unit late it has only been checked; each late unit raises DEADLINE (code 2)
at the slot's first cycle, of class X where R103 says so. 02 Table 2-3, 04 R103, R115: the checks of a dispatch. Still outstanding at the first
cycle of FINISH it raises SLOT_OVERRUN (code 1), but for a METRIC word, which ends by itself (13 R358); its result not ready at the first cycle
of DEADLINE, DEADLINE (code 2), of class X where FEEDX is set. One that was complete by then raises nothing. Completes: `wait`, `barrier`,
`slotOverrun`, `deadline`. -/
def Obligations.TickChecks : Prop :=
  (∀ (w : When) (d : Nat) (s : State) (c : Ctl), s.tsq.ctl[d]? = some c →
    let u := advance w s
    256 * c.slot ≤ u.clk.cyc → c.done = false →
    let seen := fun x : State => { x with tsq := { x.tsq with ctl := lmod x.tsq.ctl d fun y => { y with done := true } } }
    let b := seen ((lateUnits u c).foldl (fun x l => raiseFaultAt x (256 * c.slot) 2 l.2 l.1 c.slot (some c.word)) u)
    (c.isWait = true → exec (.wait w d) s = .next (endCmd s b)) ∧
    (c.isWait = false → exec (.barrier w d) s = .next (endCmd s b)) ∧
    (lateUnits u c = [] → b = seen u) ∧
    (∀ l, l ∈ lateUnits u c ↔
      if c.isWait then l = (c.src, if 0x09 ≤ c.dst ∧ c.dst ≤ 0x20 then 3 else 2) ∧ unitLate u c c.src = true
      else l.1 < 0x27 ∧ bitAt c.mask l.1 = true ∧ unitLate u c l.1 = true ∧ l.2 = if 0x09 ≤ l.1 ∧ l.1 ≤ 0x20 then 3 else 2)) ∧
  (∀ (w : When) (d : Nat) (s : State) (x : Disp), s.tsq.disp[d]? = some x →
    let u := advance w s
    let overrun := fun y : State => { y with tsq := { y.tsq with disp := lmod s.tsq.disp d fun z => { z with overrun := true } } }
    let late := fun y : State => { y with tsq := { y.tsq with disp := lmod s.tsq.disp d fun z => { z with late := true } } }
    (256 * x.finish ≤ u.clk.cyc → x.overrun = false → isMetric x = false → ¬ (x.done = true ∧ x.endAt ≤ 256 * x.finish) →
      exec (.slotOverrun w d) s = .next (endCmd s (overrun
        (raiseFaultAt u (256 * x.finish) 1 (if 0x09 ≤ x.unit ∧ x.unit ≤ 0x20 then 3 else 2) x.unit x.finish (some x.word))))) ∧
    ((x.done = true ∧ x.endAt ≤ 256 * x.finish) ∨ isMetric x = true → exec (.slotOverrun w d) s = .next (endCmd s u)) ∧
    (256 * x.deadline ≤ u.clk.cyc → x.late = false → x.deadline ≠ 0 → ¬ (x.done = true ∧ x.endAt ≤ 256 * x.deadline) →
      exec (.deadline w d) s = .next (endCmd s (late
        (raiseFaultAt u (256 * x.deadline) 2 (if x.feedx then 3 else 2) x.unit x.deadline (some x.word))))) ∧
    (x.done = true ∧ x.endAt ≤ 256 * x.deadline → exec (.deadline w d) s = .next (endCmd s u)))

/-- 02 R57, R59, 04 R118, R119: what a contract fault does: the tick is degraded, the count of its code rises, the fault is logged in order of
cycle, classes S and X set PENDING, and class X blanks from its cycle to the boundary. Nothing but the sequencer changes. -/
def Obligations.ContractFault : Prop :=
  ∀ (s : State) (c code cls unit detail : Nat) (word : Option Nat), 1 ≤ code → code ≤ s.tsq.fcnt.length →
    let t := raiseFaultAt s c code cls unit detail word
    t = { s with tsq := t.tsq } ∧ bitAt t.tsq.degr 0 = true ∧
      lget t.tsq.fcnt (code - 1) 0 = min 0xFFFFFFFF (lget s.tsq.fcnt (code - 1) 0 + 1) ∧
      (∃ f, t.tsq.faults = faultIns f s.tsq.faults ∧ f.code = code ∧ f.cls = cls ∧ f.cycle = c ∧ f.unit = unit ∧ f.tc = s.tsq.tc) ∧
      (t.tsq.pend = true ↔ s.tsq.pend = true ∨ 2 ≤ cls) ∧
      (cls = 3 → ∃ k, t.tsq.blank = some k ∧ k ≤ c) ∧ (cls ≠ 3 → t.tsq.blank = s.tsq.blank) ∧
      t.tsq.disp = s.tsq.disp ∧ t.tsq.ctl = s.tsq.ctl ∧ t.tsq.tc = s.tsq.tc ∧ t.tsq.set = s.tsq.set

/-- 00 R14, 02 R39, R60, 04 R113: a boundary comes when the running tick has its length, and ends with the registers' view of every
schedule-produced result taken; without a timebase there is none, and nothing changes. Its first step counts the tick, starts it at cycle 0 and
ends the blanking; after a tick with a class S or X fault set 3 is chosen, whatever firmware asks for. Completes: `tickBoundary`. -/
def Obligations.TickBoundaryShowsResults : Prop :=
  (∀ (w : When) (i : BoundaryIn) (s : State),
    let v := advance (tickWhen w s) s
    let b := boundary v i
    exec (.tickBoundary w i) s = .next (endCmd s b) ∧
    (s.clk.on = true → s.clk.cyc ≤ s.clk.len → v.clk.cyc = s.clk.len) ∧
    (s.clk.on = false → b = v) ∧
    (s.clk.on = true → b.shown = { clk := b.clk, pins := b.pins, boot := b.boot, tsq := b.tsq, fld := b.fld, dmc := b.dmc, dbg := b.dbg,
                                   cal := b.cal, lse := b.lse, pso := b.pso, srv := b.srv, lpe := b.lpe, twn := b.twn })) ∧
  (∀ s : State, (newTick s).tsq.tc = (s.tsq.tc + 1) % 2 ^ 64 ∧ (newTick s).clk.cyc = 0 ∧ (newTick s).tsq.faults = [] ∧
    (newTick s).tsq.blank = none ∧ (newTick s).mem = s.mem) ∧
  (∀ (s : State) (res : List MboxRes) (doms : Nat) (det : Bool), (regimeStep s res doms true det).2 = (3, false) ∧
    ∀ r ∈ (regimeStep s res doms true det).1, r.op = 1 → r.status = 2 ∨ r.status = 3 ∨ r.status = 7)

/-- 02 R68, 04 R120: the sequencer's other register commands: GUARDMIN.CLR, and the selects that copy a result and a fault record. Completes:
`guardminClr`, `mresselWrite`, `flogselWrite`. -/
def Obligations.TsqRegisterCommands : Prop :=
  ∀ (w : When) (r : Wr) (s : State), domOn s 5 = true →
    let u := advance w s
    let v := r.val.toNat
    exec (.guardminClr w r) s = .next (endCmd s
      (if bitAt v 31 then { u with tsq := { s.tsq with guardMin := 0x1FFFFF } } else u)) ∧
    exec (.mresselWrite w r) s = .next (endCmd s
      { u with rw := aset s.rw (Base.tsq + 0xA0) (v % 64)
               tsq := { s.tsq with mres := mresWords (ringAt s.shown.tsq.res s.shown.tsq.resTotal 64 (v % 64)) } }) ∧
    exec (.flogselWrite w r) s = .next (endCmd s
      { u with rw := aset s.rw (Base.tsq + 0x108) (v % 64)
               tsq := { s.tsq with flogSn := flogWords (ringAt s.shown.tsq.flog s.shown.tsq.flogTotal 64 (v % 64)) } })

/-! ### The register window (00) -/

/-- 00 R9: reading the low word of a pair copies its high word into the requesting source's own latch, and the source's next read of the high
word returns it. Nothing else changes. 00 R11: a write to the high word of a writable pair only stages it for its source; the low word's write
then applies both, uses the staged word up, and leaves what another source staged. Completes: `wideLowRead`, `wideHighWrite`, `wideLowWrite`.
-/
def Obligations.WideRegisters : Prop :=
  (∀ (w : When) (src addr : Nat) (s : State), isWideLow addr = true → addr % 4 = 0 → 0x40000000 ≤ addr → addr < 0x40100000 →
    domOn s (regDom addr) = true →
    let u := advance w s
    let b := { u with latch := aset s.latch (srcKey src (addr + 4)) (regValue u src (addr + 4)) }
    exec (.wideLowRead w src addr) s = .next (endCmd s b) ∧ (regRead b src (addr + 4)).1 = regValue u src (addr + 4) ∧
      ∀ o, o < 2 ^ 32 → addr + 4 < 2 ^ 32 → src ≠ o → alook b.latch (srcKey o (addr + 4)) = alook s.latch (srcKey o (addr + 4))) ∧
  (∀ (w : When) (r : Wr) (s : State),
    let u := advance w s
    (∀ hi, isWideHigh hi = true → mayWrite r.src hi = true → domOn s (regDom hi) = true →
      exec (.wideHighWrite w hi r) s = .next (endCmd s { u with staged := aset s.staged (srcKey r.src hi) r.val.toNat })) ∧
    (∀ lo hi, widePair lo = some hi → mayWrite r.src lo = true → domOn s (regDom lo) = true →
      ∃ b, exec (.wideLowWrite w lo r) s = .next (endCmd s b) ∧ rwGet b lo 0 = r.val.toNat ∧
        rwGet b hi 0 = (if ahas s.staged (srcKey r.src hi) then alook s.staged (srcKey r.src hi) &&& 0xFFFFFFFF else rwGet s hi 0) ∧
        ahas b.staged (srcKey r.src hi) = false ∧
        (∀ k, k ≠ srcKey r.src hi → alook b.staged k = alook s.staged k ∧ ahas b.staged k = ahas s.staged k) ∧
        (∀ k, k ≠ lo → k ≠ hi → rwGet b k 0 = rwGet s k 0) ∧
        b.mem = s.mem ∧ b.saf = s.saf ∧ b.tsq = s.tsq ∧ b.pwr = u.pwr ∧ b.dmc = s.dmc ∧ b.fab = s.fab ∧ b.dbg = s.dbg))

/-- 00 R4, R6, R8: a register write. One that is not of a word, one to a register whose domain is not fully on, and one to a register that its
source may not write do nothing; every other one has its register's own effect. One to plain storage (here of TSQ's staging word and of
WDG_INTERVAL) stores. What SAF_TEST, WDG_SERVICE and DBG_CMD need from outside (a latency, the HKP's registers) is a free value here
(assumption log entry 110). Completes: `registerWrite`. -/
def Obligations.RegisterWrite : Prop :=
  ∀ (w : When) (addr size : Nat) (r : Wr) (s : State),
    let u := advance w s
    (size ≠ 4 → exec (.registerWrite w addr size r) s = .next (endCmd s u)) ∧
    (0x40000000 ≤ addr → addr < 0x40100000 → addr % 4 = 0 →
      (takesOutside addr = false → domOn s (regDom addr) = false ∨ mayWrite r.src addr = false →
        exec (.registerWrite w addr 4 r) s = .next (endCmd s u)) ∧
      (takesOutside addr = false → domOn s (regDom addr) = true →
        exec (.registerWrite w addr 4 r) s = .next (endCmd s (regWriteWith u r.src addr r.val.toNat noOutside).1)) ∧
      (takesOutside addr = true → domOn s (regDom addr) = true →
        exec (.registerWrite w addr 4 r) s = .next (endCmd s (regWriteWith (useOutside u) r.src addr r.val.toNat (freeOutside u)).1))) ∧
    (∀ n, n < 4 → domOn s 5 = true →
      exec (.registerWrite w (Base.tsq + 0x80 + 4 * n) 4 r) s = .next (endCmd s
        { u with tsq := { s.tsq with stage := aset s.tsq.stage (4 * r.src + n) r.val.toNat } })) ∧
    (domOn s 8 = true →
      exec (.registerWrite w (Base.wdg + 0x10) 4 r) s = .next (endCmd s
        { u with rw := aset s.rw (Base.wdg + 0x10) (r.val.toNat &&& 0xFFFFFFFF) }))

/-- 00 R12, R13, 08 R236, 09 R265, 10 R290, 13 R363, 16 R443, 03 R96: a SNAP write copies its block's registers and marks the copy as running,
and is ignored while a copy runs; the copy's end clears the mark, so that SNAP reads 0. Completes: `snapCopyDone`, `fldSnap`, `lseSnap`,
`psoSnap`, `srvSnap`, `lpeSnap`, `twnSnap`. -/
def Obligations.SnapshotCommands : Prop :=
  ∀ (w : When) (r : Wr) (s : State) (blk : Nat),
    let u := advance w s
    let v := r.val.toNat
    let snap := fun (x y : State) (k : Nat) =>
      if snapRuns u k then x else { y with snapBusy := (k, u.clk.mclk) :: s.snapBusy.filter fun z => z.1 != k }
    exec (.snapCopyDone w blk) s = .next (endCmd s { u with snapBusy := s.snapBusy.filter fun x => x.1 != blk }) ∧
    (domOn s 10 = true → bitAt v 1 = true → bitAt v 2 = false →
      exec (.lseSnap w r) s = .next (endCmd s (snap u (lseSnap u) 6))) ∧
    (domOn s 10 = true → bitAt v 1 = true →
      let x := { u with rw := aset s.rw Base.pso (v &&& 0x30000) }
      exec (.psoSnap w r) s = .next (endCmd s (snap x { x with pso := { s.pso with sn := (psoAt s (bits v 17 16)).flipRec } } 5))) ∧
    (domOn s 10 = true → bitAt v 1 = true →
      let x := { u with rw := aset s.rw Base.srv (v &&& 0xF00) }
      exec (.srvSnap w r) s = .next (endCmd s (snap x (srvSnap x) 7))) ∧
    (domOn s 11 = true → bitAt v 1 = true →
      let x := { u with rw := aset s.rw Base.lpe (v &&& 0x30700) }
      exec (.lpeSnap w r) s = .next (endCmd s (snap x (lpeSnap x) 8))) ∧
    (domOn s 56 = true → bitAt v 5 = true → bits v 31 16 ≠ 0x7A1D → bitAt v 4 = false →
      let x := { u with rw := aset s.rw Base.twn (bits v 3 2 * 4) }
      exec (.twnSnap w r) s = .next (endCmd s (snap x { x with twn := { s.twn with digSn := s.shown.twn.dig } } 10))) ∧
    (domOn s 7 = true → bitAt v 5 = true → bitAt v 4 = false →
      let x := { u with rw := aset s.rw Base.fld (v &&& 0x7) }
      exec (.fldSnap w r) s = .next (endCmd s (snap x { x with fld := { s.fld with snHash := s.fld.cfgHash } } 15)))

/-! ### The loader and boot (03) -/

/-- 03 R89, R91, R92: a write of FLD_HOTCTL. While a check runs or the staged image is LOCKED it is refused and changes nothing; else it
discards the staged image, starts a check at FLD_HOTBASE, or both in that order. A check of an image in SRAM banks 1 to 7 or in DRAM reads it
through the fabric, from port 2; one elsewhere reads nothing (assumption log entry 144). 03 R90, R91: a check that has read the image ends. An
image that fails is not staged and its code is kept; one that passes is staged, unless the image staged before it has become LOCKED meanwhile
(code CHECK_LOCKED, 0x21). 03 R77: SVBUMP blows the array up to the named version: only with its key, after an apply, and for a version above
the one blown and not above that of the image. Completes: `hotCheck`, `hotDiscard`, `hotCheckDone`, `svbump`. -/
def Obligations.HotImageControl : Prop :=
  (∀ (w : When) (r : Wr) (s : State), domOn s 7 = true →
    let u := advance w s
    let v := r.val.toNat
    let at_ := rwGet s (Base.fld + 0x1C) 0
    let staged := if bitAt v 1 then none else s.fld.staged
    (s.fld.checking = true ∨ (s.fld.staged.isSome = true ∧ s.fld.applyPend ≠ 0) →
      exec (.hotCheck w r) s = .next (endCmd s u) ∧ exec (.hotDiscard w r) s = .next (endCmd s u)) ∧
    (s.fld.checking = false → s.fld.staged.isSome = false ∨ s.fld.applyPend = 0 →
      (bitAt v 1 = true → bitAt v 0 = false →
        exec (.hotDiscard w r) s = .next (endCmd s { u with fld := { s.fld with staged := none } })) ∧
      (bitAt v 0 = true → (0x10100000 ≤ at_ ∧ at_ < 0x10800000) ∨ 0x80000000 ≤ at_ →
        ∃ x, exec (.hotCheck w r) s = .next (endCmd s { u with
            fld := { s.fld with staged := staged, checking := true, hotBuf := none }
            fab := { s.fab with xfers := s.fab.xfers ++ [x] } }) ∧
          x.src = 2 ∧ x.job = .imgHead true at_) ∧
      (bitAt v 0 = true → ¬ ((0x10100000 ≤ at_ ∧ at_ < 0x10800000) ∨ 0x80000000 ≤ at_) →
        exec (.hotCheck w r) s = .next (endCmd s { u with
          fld := { s.fld with staged := staged, checking := true, hotBuf := some [] } })))) ∧
  (∀ (w : When) (s : State),
    let u := advance w s
    (s.fld.checking = false ∨ s.fld.hotBuf = none → exec (.hotCheckDone w) s = .next (endCmd s u)) ∧
    (∀ d, s.fld.checking = true → s.fld.hotBuf = some d →
      let x := { u with fld := { s.fld with checking := false, hotBuf := none } }
      let f : Fld := match checkImage x true d with
        | some (_, code, sect) => { x.fld with hotCode := code, hotSect := sect }
        | none =>
          if s.fld.staged.isSome = true ∧ s.fld.applyPend ≠ 0 then { x.fld with hotCode := 0x21, hotSect := noSect }
          else { x.fld with
            staged := some { seq := ihSeq d, body := d.take (ihBody d), whole := imageBytes d, secs := (imageSecs d).map (·.2) } }
      exec (.hotCheckDone w) s = .next (endCmd s { u with fld := f }))) ∧
  (∀ (w : When) (r : Wr) (s : State), domOn s 7 = true →
    let u := advance w s
    let v := r.val.toNat
    exec (.svbump w r) s = .next (endCmd s
      (if bits v 31 16 = 0x5EC0 ∧ s.fld.applied = true ∧ minVerOf s.cal.array < bits v 7 0 ∧ bits v 7 0 ≤ s.fld.secver then
        { u with cal := { s.cal with array := patch s.cal.array 0xC8 (leBytes 8 (u64 s.cal.array 0xC8 ||| (2 ^ bits v 7 0 - 1))) } }
      else u)))

/-- 03 R84, R87, R96: the boot sources. With an image applied neither START nor a retry does anything; a source that times out is rejected with
code TIMEOUT (0x1F) and the next one is tried; when none is left the sequence waits, and it starts over 1 s after the last failure. Completes:
`fldStart`, `bootSourceTimeout`, `bootRetry`. -/
def Obligations.BootSourceSequence : Prop :=
  ∀ (w : When) (r : Wr) (s : State),
    let u := advance w s
    (domOn s 7 = true → bitAt r.val.toNat 4 = true → bitAt r.val.toNat 5 = false →
      let x := { u with rw := aset s.rw Base.fld (r.val.toNat &&& 0x7) }
      exec (.fldStart w r) s = .next (endCmd s
        (if s.fld.applied = true ∨ 5 ≤ r.val.toNat % 8 then x
         else tryNext { x with fld := { s.fld with left := [r.val.toNat % 8], failedAt := none } }))) ∧
    (∀ k, curSource s = some k → k ≠ 4 →
      ∃ b, exec (.bootSourceTimeout w) s = .next (endCmd s b) ∧ b.fld.code = 0x1F ∧ b.fld.source = k ∧ b.fld.applied = s.fld.applied ∧
        b.fld.left = s.fld.left.drop (if k < 2 then (s.fld.left.takeWhile (· < 2)).length else 1) ∧
        (b.fld.left = [] → b.fld.failedAt = some u.clk.aon ∧ curSource b = none) ∧
        (∀ j, b.fld.left.head? = some j → curSource b = some j)) ∧
    (s.fld.applied = true → exec (.bootRetry w) s = .next (endCmd s u)) ∧
    (∀ t, s.fld.failedAt = some t → t + 1000000 ≤ u.clk.aon → s.fld.applied = false →
      ∃ b, exec (.bootRetry w) s = .next (endCmd s b) ∧ b.fld.failedAt = none ∧ b.fld.left = bootSources (s.boot.straps % 4) ∧
        curSource b = (bootSources (s.boot.straps % 4)).head?)

/-- 03 R83, R85, R86, R87, R88, R94, R97: a base image, from flash (the slot with the higher SEQ first), the twin, the chain or memory. With
its last byte in, the container checks have run and the verification begins (STATE 2); then the remaining checks (STATE 3); then it is applied:
its sections are in force, its version and hash are kept. How long the two stages last the spec leaves open within R540's bound: each ends with
a command of its own (assumption log entry 143, the model's choice). One that fails at any stage is rejected with its code, and the next source
is tried. With an image applied already nothing happens. Completes: `baseImageReceived`. -/
def Obligations.BaseImageFromFlash : Prop :=
  ∀ (w : When) (flash : List Byte) (e : Bool) (s : State),
    let u := advance w s
    let rejected := fun (b : State) (k code sect : Nat) (left : List Nat) =>
      b.fld.applied = false ∧ b.fld.source = k ∧ b.fld.code = code ∧ b.fld.sect = sect ∧ b.fld.left = left ∧ b.fld.load = none ∧
        (∀ j, left.head? = some j → curSource b = some j) ∧ b.mem = s.mem ∧ b.fld.secs = s.fld.secs ∧ b.tsq = s.tsq
    let c := Instr.baseImageReceived w flash e
    (s.fld.applied = true → exec c s = .next (endCmd s u)) ∧
    (∀ j, s.fld.applied = false → s.fld.load = none → curSource s = some j →
      let both := s.fld.left.take 2 == [0, 1]
      let k := if both then firstSlot flash else j
      let left := if both then [k, 1 - k] ++ s.fld.left.drop 2 else s.fld.left
      let got : Option (List Byte × List (List Byte)) :=
        if j = 2 then (if twinWhole s ∨ e then some ((twinImages s).headD [], (twinImages s).drop 1) else none)
        else if j = 3 then (if bootComplete s then some (readRun (sramByte s) 0x100000 (s.chn.total.getD 0), []) else none)
        else if j = 4 then s.fld.memBuf.map fun d => (d, [])
        else some (padTo 0x800000 (flash.drop (k * 0x800000)), [])
      match got with
      | none => exec c s = .next (endCmd s u)
      | some (d, hots) =>
        match containerFail false d with
        | none =>
          exec c s = .next (endCmd s { u with
            fld := { s.fld with left := left, st := 2, load := some { src := k, data := d, hots := hots } }
            boot := { s.boot with step := max s.boot.step 8 } })
        | some (_, code, sect) => ∃ b, exec c s = .next (endCmd s b) ∧ rejected b k code sect (left.drop 1)) ∧
    (∀ l, s.fld.applied = false → s.fld.load = some l → s.fld.st = 2 →
      match verifyFail u false l.data with
      | none => exec c s = .next (endCmd s { u with fld := { s.fld with st := 3 }, boot := { s.boot with step := max s.boot.step 9 } })
      | some (_, code, sect) => ∃ b, exec c s = .next (endCmd s b) ∧ rejected b l.src code sect (s.fld.left.drop 1)) ∧
    (∀ l, s.fld.applied = false → s.fld.load = some l → s.fld.st = 3 →
      let img := imageBytes l.data
      let secs := (imageSecs img).map (·.2)
      let hash := sha256 (img.take (ihBody img))
      let bad : Option (Nat × Nat) := match checkFail u false l.data with
        | some (_, code, sect) => some (code, sect)
        | none => hotsOk { u with fld := { s.fld with secs := secs, cfgHash := hash, pendG := [] } } l.hots
      match bad with
      | none => ∃ b, exec c s = .next (endCmd s b) ∧ b.fld.applied = true ∧ b.fld.source = l.src ∧
          (b.fld.secs, b.fld.cfgHash) = foldHots secs hash l.hots ∧ b.fld.seq = ihSeq img ∧ b.fld.secver = ihSecver img ∧
          b.fld.image = img ∧ b.fld.hots = l.hots ∧ b.fld.left = [] ∧ b.mem.nvm = s.mem.nvm ∧ b.tsq.tc = s.tsq.tc
      | some (code, sect) => ∃ b, exec c s = .next (endCmd s b) ∧ rejected b l.src code sect (s.fld.left.drop 1))

/-! ### The fabric (05) -/

/-- 05 R123, R125, R127, 00 R8: a read or write that its target performs at once is answered with exactly one response from the port that
serves it; a source whose domain is off, or with no free response buffer, issues nothing. A write of SRAM lands (05 R123): each of its bytes
reads back, every other byte of SRAM reads as before, the other memories are untouched, and the memories stay in their form. One that
touches a published buffer is refused and changes no memory (02 R51). An address that nothing decodes is answered with DECODE_ERR (00 R7),
which is counted. That a TAG which is still outstanding cannot be sent again is the model's
reading of 05 R124 (assumption log entry 155). Completes: `fabricRequest`. -/
def Obligations.FabricRequests : Prop :=
  ∀ (w : When) (q : Req) (s : State),
    let u := advance w s
    let tgt := Target.sram (q.fa - 0x10000000)
    let port := targetPort s tgt
    let free := mayIssue u q.src = true ∧ s.fab.tags.contains (q.src, q.tag) = false
    let inSram := 0x10000000 ≤ q.fa ∧ q.fa + q.flen ≤ 0x10800000 ∧ ¬ (q.fa < 0x10400000 ∧ 0x10400000 < q.fa + q.flen)
    (mayIssue u q.src = false → exec (.fabricRequest w q) s = .next (endCmd s u)) ∧
    (FabricCalm u → free → q.kind = .read → 0 < q.flen → inSram → domsOn s (targetDoms s tgt q.flen) = true →
      ∃ t r, exec (.fabricRequest w q) s = .next t ∧
        t.fab = { s.fab with
          seq := s.fab.seq + 1, out := aset s.fab.out q.src (alook s.fab.out q.src + 1), tags := (q.src, q.tag) :: s.fab.tags
          grant := aset s.fab.grant port ((q.src + 1) % 25), rsp := s.fab.rsp ++ [r] } ∧
        r.src = q.src ∧ r.dst = port ∧ r.tag = q.tag ∧ r.status = 0 ∧ r.data = readRun (sramByte s) (q.fa - 0x10000000) q.flen ∧
        t.mem = s.mem ∧ t.rw = s.rw ∧ t.tsq = s.tsq) ∧
    (FabricCalm u → free → q.kind ≠ .msg → 0x50000000 ≤ q.fa → 0 < q.flen → q.fa + q.flen ≤ 0x80000000 →
      ∃ t r, exec (.fabricRequest w q) s = .next t ∧ t.fab.rsp = s.fab.rsp ++ [r] ∧ r.status = 1 ∧ r.src = q.src ∧ r.tag = q.tag ∧
        t.fab.cntDec = min 0xFFFFFFFF (s.fab.cntDec + 1) ∧ t.fab.held = [] ∧ t.mem = s.mem ∧ t.rw = s.rw ∧ t.tsq = s.tsq) ∧
    (FabricCalm u → free → q.kind = .write → q.data.length = q.flen → 0 < q.flen → inSram →
      domsOn s (targetDoms s tgt q.flen) = true → publishedIn s q.fa q.flen = false →
      ∃ t r, exec (.fabricRequest w q) s = .next t ∧ t.fab.rsp = s.fab.rsp ++ [r] ∧ r.status = 0 ∧ r.src = q.src ∧ r.tag = q.tag ∧
        (∀ i, i < q.flen → sramByte t (q.fa - 0x10000000 + i) = q.data.getD i 0) ∧
        (∀ a, (a < q.fa - 0x10000000 ∨ q.fa - 0x10000000 + q.flen ≤ a) → sramByte t a = sramByte s a) ∧
        t.mem.tcm = s.mem.tcm ∧ t.mem.vis = s.mem.vis ∧ t.mem.nvm = s.mem.nvm ∧ t.mem.dram = s.mem.dram ∧
        (MemoryInForm s → MemoryInForm t) ∧ t.rw = s.rw ∧ t.tsq = s.tsq) ∧
    (FabricCalm u → free → q.kind = .write → 0 < q.flen → inSram → domsOn s (targetDoms s tgt q.flen) = true →
      publishedIn s q.fa q.flen = true →
      ∃ t r, exec (.fabricRequest w q) s = .next t ∧ t.fab.rsp = s.fab.rsp ++ [r] ∧ r.status = 3 ∧ r.src = q.src ∧ r.tag = q.tag ∧
        t.mem = s.mem)

/-- 05 R139, R148: the next response of a source leaves the fabric and frees its buffer; into a source whose domain is off, or isolated, it is
dropped and counted; one that a transfer of a unit of the chip waits for reaches that transfer. With none to deliver nothing happens. 05 R133,
R137: a DMC, chain or link egress serves the queue that the scheduler picks and hands its head to its target; one whose domain is off, whose
link is down or held, or whose port cannot start the frame, sends nothing. 05 R151: a write of FAB_QSEL selects a queue and copies its
occupancy, its head's age and its greatest delay. Completes: `responseDelivery`, `egressDequeue`, `qselWrite`. -/
def Obligations.QueuesAndResponses : Prop :=
  (∀ (w : When) (src : Nat) (s : State),
    let u := advance w s
    (nextRsp u src = none → exec (.responseDelivery w src) s = .next (endCmd s u)) ∧
    ∀ i r, nextRsp u src = some i → s.fab.rsp[i]? = some r →
      let lost := portCut u src
      let b := { u with fab := { s.fab with
        rsp := s.fab.rsp.eraseIdx i
        rspDrop := if lost then sat32 s.fab.rspDrop else s.fab.rspDrop
        out := aset s.fab.out src (alook s.fab.out src - 1)
        tags := s.fab.tags.erase (src, r.tag) } }
      (lost = true ∨ xferOf u src r.tag = none → exec (.responseDelivery w src) s = .next (endCmd s b)) ∧
      (∀ j, lost = false → xferOf u src r.tag = some j → exec (.responseDelivery w src) s = .next (endCmd s (xferResponse b j r)))) ∧
  (∀ (w : When) (e : Nat) (s : State), s.fab.held = [] →
    let u := advance w s
    let g := lget s.fab.eg e {}
    (∀ i, (e = 4 ∨ e = 5) → egPick g u.clk.mclk (chnReady u (e - 4)) = some i →
      ∃ p g' b, egPop g i u.clk.mclk = some (p, g') ∧ exec (.egressDequeue w e) s = .next (endCmd s b) ∧
        b.fab = { s.fab with eg := lmod s.fab.eg e fun _ => g', handed := s.fab.handed ++ [p] } ∧ b = { u with fab := b.fab, pwr := b.pwr }) ∧
    ((e = 4 ∨ e = 5) → egPick g u.clk.mclk (chnReady u (e - 4)) = none → exec (.egressDequeue w e) s = .next (endCmd s u)) ∧
    (∀ p, chnReady u (e - 4) p = true → (portAt u (e - 4)).link = true ∧ s.fab.handed.all (fun x => x.req.dst != 20 + (e - 4)) = true) ∧
    (e < 4 → domOn s (20 + e) = false → (domAt u (20 + e)).phase ≠ .drain → exec (.egressDequeue w e) s = .next (endCmd s u)) ∧
    (∀ i, e < 4 → domOn s (20 + e) = true → egPick g u.clk.mclk (fun p => dmcRoom u e p && !settleHeld u p) = some i →
      ∃ p g' b, egPop g i u.clk.mclk = some (p, g') ∧ exec (.egressDequeue w e) s = .next (endCmd s b) ∧
        b.fab.eg = lmod s.fab.eg e (fun _ => g') ∧ b.mem = s.mem ∧ (p.forced = false → b.tsq = s.tsq)) ∧
    (e = 6 → s.twn.up = false ∨ linkHeld u = true → exec (.egressDequeue w e) s = .next (endCmd s u)) ∧
    (∀ i, e = 6 → s.twn.up = true → linkHeld u = false → s.fab.handed = [] → egPick g u.clk.mclk (fun _ => true) = some i →
      ∃ p g' b, egPop g i u.clk.mclk = some (p, g') ∧ exec (.egressDequeue w e) s = .next (endCmd s b) ∧
        (p.req.dst = 22 → b.twn.link = frameOf p.req.data :: s.twn.link ∧ b.fab.handed = [] ∧ b.mem = s.mem ∧
          ∃ r, b.fab.rsp = s.fab.rsp ++ [r] ∧ r.src = p.req.src ∧ r.tag = p.req.tag ∧ r.status = 0))) ∧
  (∀ (w : When) (r : Wr) (s : State), domOn s 8 = true →
    let u := advance w s
    let e := bits r.val.toNat 10 8
    let i := bits r.val.toNat 4 0
    let g := lget s.fab.eg e {}
    let q := lget g.qs i {}
    exec (.qselWrite w r) s = .next (endCmd s { u with
      rw := aset s.rw (Base.fab + 0x40) (e * 256 + i)
      fab := { s.fab with qsn := [q.pk.length % 256 * 2 ^ 24 + queueEff g q % 2 ^ 24,
                                  (match q.pk with | [] => 0 | p :: _ => min 0xFFFFFFFF (u.clk.mclk - p.enq)),
                                  q.maxDly] } }))

/-- 05 R133, R134: among the queues that have a head and whose shaper lets them send, the scheduler picks the head with the smallest tag, and
on equal tags the lowest queue; tags are compared modulo 2^48, here as they lie within half of it of one another. -/
def Obligations.SmallestTagServed : Prop :=
  ∀ (g : Egress) (now base : Nat) (o : Nat → Nat),
    let may := fun j => ∃ p r, (lget g.qs j {}).pk = p :: r ∧ shaperOk (lget g.qs j {}) now = true
    (∀ j p r, (lget g.qs j {}).pk = p :: r → o j < 2 ^ 47 ∧ p.tag = some ((base + o j) % 2 ^ 48)) →
      (∀ i, egPick g now (fun _ => true) = some i → i < 32 ∧ may i ∧ ∀ j, j < 32 → may j → o i < o j ∨ (o i = o j ∧ i ≤ j)) ∧
      (egPick g now (fun _ => true) = none → ∀ j, j < 32 → ¬ may j)

/-- 05 R143, R145, R146, 17 R454: the phases of a power-down. DRAIN ends when nothing is left or at its limit; FLUSH completes what is left
with DOMAIN_OFF; ISOLATE lasts 64 cycles; a power-good failure sets FAULT and starts the same phases. A phase that does not stand is not ended.
Completes: `drainEnd`, `flushEnd`, `isolateEnd`, `powerSwitchOpen`, `powerGoodFail`. -/
def Obligations.PowerDownPhases : Prop :=
  ∀ (w : When) (d : Nat) (s : State), d < s.pwr.doms.length →
    let u := advance w s
    let x := domAt u d
    (x.phase = .drain → (x.quick = true ∨ domWork u d = false ∨ x.c0 + 1 + drainLimit u d ≤ u.clk.mclk) →
      exec (.drainEnd w d) s = .next (endCmd s (modDom u d fun y => { y with
        phase := .flush, limit := domWork u d && decide (x.c0 + 1 + drainLimit u d ≤ u.clk.mclk) && !x.quick }))) ∧
    (x.phase ≠ .drain → exec (.drainEnd w d) s = .next (endCmd s u)) ∧
    (x.phase = .flush → ∃ b, exec (.flushEnd w d) s = .next (endCmd s b) ∧ (domAt b d).phase = .isolate ∧ domOn b d = false ∧
      (∀ g ∈ b.fab.eg, ∀ q ∈ g.qs, ∀ p ∈ q.pk, p.doms.contains d = false) ∧
      (∃ l, b.fab.rsp = s.fab.rsp ++ l ∧ ∀ r ∈ l, r.status = 2) ∧ b.mem = s.mem) ∧
    (x.phase ≠ .flush → exec (.flushEnd w d) s = .next (endCmd s u)) ∧
    (x.phase = .isolate → x.opening = false → x.c0 + 64 ≤ u.clk.mclk →
      exec (.isolateEnd w d) s = .next (endCmd s (modDom u d fun y => { y with opening := true }))) ∧
    (x.phase ≠ .isolate → exec (.isolateEnd w d) s = .next (endCmd s (modDom u d fun y => y))) ∧
    (domOn s d = true → exec (.powerGoodFail w d) s = .next (endCmd s (modDom u d fun y => { y with
      fault := true, phase := .fence, c0 := u.clk.mclk, downs := satAdd 4095 y.downs 1, drained := 0, flushed := 0, limit := false
      quick := true, queued := 0 }))) ∧
    (x.phase ≠ .isolate ∨ x.opening = false → exec (.powerSwitchOpen w d) s = .next (endCmd s u))

/-! ### Power, pins and resets (17, 18, 21) -/

/-- 17 R445, R452, R453: at most one domain starts to power up in each microsecond of AON time, the lowest that waits with every parent fully
on. 17 R452, R454, R541: a domain that is powering becomes fully on; the switch of an isolated one opens and it is off, or at retention where
its entry keeps its memory. Completes: `powerSwitchOpen`, `powerUpStart`, `domainFullyOn`. -/
def Obligations.DomainStartsAndSettles : Prop :=
  (∀ (w : When) (s : State),
    let u := advance w s
    let ready := fun d => d < 64 ∧ (domAt u d).want = true ∧ ((domAt u d).phase = .off ∨ (domAt u d).phase = .retain) ∧
      ∀ p ∈ parents d, domOn s p = true
    (s.pwr.lastStart = some u.clk.aon → exec (.powerUpStart w) s = .next (endCmd s u)) ∧
    ((∀ d, ¬ ready d) → exec (.powerUpStart w) s = .next (endCmd s u)) ∧
    (∀ d, (∀ t, s.pwr.lastStart = some t → t < u.clk.aon) → ready d → (∀ c, c < d → ¬ ready c) →
      let b := modDom u d fun y => { y with phase := .powering, want := false, ups := satAdd 4095 y.ups 1 }
      exec (.powerUpStart w) s = .next (endCmd s { b with pwr := { b.pwr with lastStart := some u.clk.aon } }))) ∧
  (∀ (w : When) (d : Nat) (s : State),
    let u := advance w s
    ((domAt u d).phase ≠ .powering → exec (.domainFullyOn w d) s = .next (endCmd s u)) ∧
    (d = 60 ∨ d = 61 → (domAt u d).phase = .powering → (domAt u d).queued = 0 → s.boot.step ≠ 5 → s.fld.st ≠ 4 → s.pwr.downLeft = [] →
      s.pwr.planSt = 0 → s.dbg.connWait = false →
      exec (.domainFullyOn w d) s = .next (endCmd s { u with pwr := { u.pwr with
        doms := lmod u.pwr.doms d fun y => { y with phase := .on }, retained := s.pwr.retained.filter (· != d) } })) ∧
    (13 ≤ d → d ≤ 19 → (domAt u d).phase = .isolate → (domAt u d).opening = true → s.boot.step ≠ 5 → s.fld.st ≠ 4 → s.pwr.downLeft = [] →
      s.pwr.planSt = 0 →
      let keep := domRetain s d && !(domAt u d).quick
      exec (.powerSwitchOpen w d) s = .next (endCmd s { u with pwr := { u.pwr with
        doms := lmod u.pwr.doms d fun y => { y with
          phase := if keep then .retain else .off, opening := false, want := (domAt u d).queued == 1, queued := 0 }
        retained := if keep then d :: s.pwr.retained else s.pwr.retained } })))

/-- 17 R450, R451, Table 17-3: a power command with its key is refused with its cause recorded, or switches its one domain. Completes:
`domainUp`, `domainDown`. -/
def Obligations.PowerCommand : Prop :=
  ∀ (w : When) (r : Wr) (s : State), domOn s 8 = true → bits r.val.toNat 31 16 = 0x9D0E →
    let u := advance w s
    let op := bits r.val.toNat 9 8
    let d := bits r.val.toNat 5 0
    let why := pwrRefusal u op d (dbgLock s)
    (why ≠ 0 → op = 1 ∨ op = 2 →
      let b := { u with pwr := { u.pwr with errCause := why, errCount := min 255 (s.pwr.errCount + 1), errDom := d } }
      exec (.domainUp w r) s = .next (endCmd s b) ∧ exec (.domainDown w r) s = .next (endCmd s b)) ∧
    (why = 0 → op = 1 → (domAt u d).phase = .off →
      exec (.domainUp w r) s = .next (endCmd s (modDom u d fun y => { y with want := true, queued := 0 }))) ∧
    (why = 0 → op = 2 → (domAt u d).phase = .on →
      exec (.domainDown w r) s = .next (endCmd s (modDom u d fun y => { y with
        phase := .fence, c0 := u.clk.mclk, downs := satAdd 4095 y.downs 1, drained := 0, flushed := 0, limit := false
        quick := false, queued := 0 }))) ∧
    (op = 1 → bitAt (domUsed s) d = false → why = 1) ∧ (op = 2 → bitAt (runDomreq s) d = true → why ≠ 0) ∧
    (isCommandDom d = false → why ≠ 0)

/-- 17 R457: plans. A start of a valid plan asks for every domain it powers up that is not on; one while a plan runs is refused with cause 6; a
cancel and a timeout leave the plan aborted with nothing more to power down, and after a cancel no command of its phase waits. Completes:
`planStart`, `planCancel`, `planTimeout`. -/
def Obligations.PowerPlans : Prop :=
  ∀ (w : When) (r : Wr) (s : State), domOn s 8 = true → bits r.val.toNat 31 16 = 0x9D0E →
    let u := advance w s
    let p := bits r.val.toNat 2 0
    let running := s.pwr.planSt = 1 ∨ s.pwr.planSt = 2 ∨ s.pwr.planSt = 3
    let ended := { u with pwr := { u.pwr with planSt := 5, planLeft := [] } }
    let calm := fun (ds : List Dom) (d : Nat) => lmod ds d fun y => { y with want := false, queued := 0 }
    let waits := domsOf (planUp s s.pwr.plan ||| planDown s s.pwr.plan)
    (bitAt r.val.toNat 4 = true → s.pwr.planSt = 2 → exec (.planCancel w r) s = .next (endCmd s ended)) ∧
    (bitAt r.val.toNat 4 = true → s.pwr.planSt = 1 ∨ s.pwr.planSt = 3 → exec (.planCancel w r) s = .next (endCmd s
      { u with pwr := { u.pwr with planSt := 5, planLeft := [], doms := waits.foldl calm u.pwr.doms } })) ∧
    (bitAt r.val.toNat 4 = true → ¬ running → exec (.planCancel w r) s = .next (endCmd s u)) ∧
    (bitAt r.val.toNat 4 = false → running → exec (.planStart w r) s = .next (endCmd s
      { u with pwr := { u.pwr with errCause := 6, errCount := min 255 (s.pwr.errCount + 1) } })) ∧
    (bitAt r.val.toNat 4 = false → ¬ running → planValid s p = true →
      ∃ b, exec (.planStart w r) s = .next (endCmd s b) ∧ b.pwr.plan = p ∧ 1 ≤ b.pwr.planSt ∧ b.pwr.planSt ≤ 4 ∧
        b = { u with pwr := b.pwr }) ∧
    (s.pwr.planSt = 2 → planTimeout s s.pwr.plan ≤ s.pwr.planTicks → exec (.planTimeout w) s = .next (endCmd s ended)) ∧
    (s.pwr.planSt ≠ 2 → exec (.planTimeout w) s = .next (endCmd s u))

/-- 17 R460, R461: a keyed write of SYS_DEEP fires FORCE and enters safe-dark; there the timer, GP0 and RESET_N wake the chip where they are
enabled, and the cause is recorded. Completes: `safeDarkEntry`, `wakeTimer`, `wakeGp0`. -/
def Obligations.SafeDark : Prop :=
  ∀ (w : When) (r : Wr) (s : State),
    let u := advance w s
    (domOn s 8 = true → bits r.val.toNat 31 16 = 0xDEE9 → bitAt r.val.toNat 0 = true → s.pwr.deep = false →
      ∃ b, exec (.safeDarkEntry w r) s = .next (endCmd s b) ∧ b.pwr.deep = true ∧ b.pwr.deepAt = u.clk.aon ∧ b.saf.dark = true ∧
        lget b.saf.cnt 12 0 = lget (lmod s.saf.cnt 12 sat32) 12 0 ∧ b.saf.lastTrig = some u.clk.aclk) ∧
    (s.pwr.deep = false → exec (.wakeTimer w) s = .next (endCmd s u) ∧ exec (.wakeGp0 w) s = .next (endCmd s u)) ∧
    (s.pwr.deep = true → bitAt s.pwr.wakeCfg 31 = true → bits s.pwr.wakeCfg 19 0 ≠ 0 →
      s.pwr.deepAt + bits s.pwr.wakeCfg 19 0 * 1000000 ≤ u.clk.aon →
      ∃ b, exec (.wakeTimer w) s = .next (endCmd s b) ∧ b.pwr.deep = false ∧ b.pwr.wakeCause = 2 ∧ b.boot.step = 5 ∧ b.boot.cause = 5 ∧
        b.saf = s.saf) ∧
    (s.pwr.deep = true → bitAt s.pwr.wakeCfg 30 = true →
      ∃ b, exec (.wakeGp0 w) s = .next (endCmd s b) ∧ b.pwr.deep = false ∧ b.pwr.wakeCause = 3 ∧ b.boot.step = 5 ∧ b.boot.cause = 5 ∧
        b.saf = s.saf)

/-- 18 R481, 20 R518, 14 Table 14-3: a reset other than PORST_N. Aperture fires CORERESET and keeps its state; the core starts again at boot
step 5 with the cause recorded and counted, no image applied and no tick running; the trim NVM, the OTP, the straps, the watchdog's evidence
and the wake settings stand. Completes: `resetN`, `softwareReset`, `brownout`, `railRecovery`. -/
def Obligations.CoreReset : Prop :=
  ∀ (w : When) (r : Wr) (s : State),
    let u := advance w s
    let done := fun (b : State) (cause : Nat) =>
      b.boot.cause = cause ∧ b.boot.count = min 255 (s.boot.count + 1) ∧ b.boot.step = 5 ∧ b.boot.straps = s.boot.straps ∧
        b.fld.applied = false ∧ b.tsq.run = false ∧ b.clk.on = false ∧ b.clk.aclk = u.clk.aclk ∧ b.clk.aon = u.clk.aon ∧
        b.saf.dark = true ∧ b.saf.ena = s.saf.ena ∧ lget b.saf.cnt 9 0 = lget (lmod s.saf.cnt 9 sat32) 9 0 ∧
        b.mem = { nvm := s.mem.nvm } ∧ b.cal.otp = s.cal.otp ∧ b.cal.array = s.cal.array ∧ b.wdg.evCount = s.wdg.evCount ∧
        b.wdg.run = false ∧ b.pwr.wakeCfg = s.pwr.wakeCfg ∧ (∀ d, domOn b d = true ↔ d < 2) ∧ b.twn.ofs = s.twn.ofs
    (domOn s 8 = true → bits r.val.toNat 31 16 = 0x5E7A → bitAt r.val.toNat 0 = true →
      ∃ b, exec (.softwareReset w r) s = .next (endCmd s b) ∧ done b 4) ∧
    (domOn s 0 = true → s.pwr.deep = false → ∃ b, exec (.resetN w) s = .next (endCmd s b) ∧ done b 1) ∧
    (domOn s 0 = true → s.boot.brown = false → ∃ b, exec (.brownout w) s = .next (endCmd s b) ∧ done b 1 ∧ b.boot.brown = true) ∧
    (domOn s 0 = false → exec (.resetN w) s = .next (endCmd s u)) ∧
    exec (.railRecovery w) s = .next (endCmd s { u with boot := { s.boot with brown := false } })

/-- 18 R481, R482, 14 R365, 21 R522: PORST_N. Everything but the non-volatile arrays and LEAD_IN's level is at its reset value; the straps and
the OTP are latched, and Aperture is Dark with cause BOOT, or TRIM where the factory record is bad. A low VAON turns AON and SAF off too. 18
R482, 21 R522: PLL0's lock starts the clock and asks for the domains of boot step 5. A core that is held (a brown-out, EXTEST, safe-dark, AON
off), and one whose clock runs, are left alone. Completes: `porstN`, `vaonLow`, `pll0Lock`. -/
def Obligations.PowerOnResetAndLock : Prop :=
  (∀ (w : When) (straps : BitVec 4) (fuses : List Byte) (s : State), s.pending = [] →
    let otp := (List.range 512).map fun i => lget s.cal.array i 0 ||| lget fuses i 0
    ∃ b, exec (.porstN w straps fuses) s = .next (endCmd s b) ∧
      b.clk = {} ∧ b.tsq = {} ∧ b.fld = {} ∧ b.fab = {} ∧ b.dmc = {} ∧ b.rw = [] ∧ b.mem = { nvm := s.mem.nvm } ∧
      b.cal = { array := otp, otp := otp } ∧ b.boot = { straps := straps.toNat, benchLive := bitAt straps.toNat 3, step := 5 } ∧
      b.saf.dark = true ∧ b.saf.drive = 0 ∧ b.saf.cause = (if trimOk b then 0 else 14) ∧ b.twn = { leadIn := s.twn.leadIn } ∧
      ∃ c, exec (.vaonLow w) s = .next (endCmd s c) ∧ c.mem = { nvm := s.mem.nvm } ∧ c.saf = {} ∧ ∀ d, domOn c d = false) ∧
  (∀ (w : When) (s : State),
    let u := advance w s
    (s.clk.on = true ∨ s.boot.brown = true ∨ s.tap.extest = true ∨ s.pwr.deep = true ∨ domOn s 0 = false →
      exec (.pll0Lock w) s = .next (endCmd s u)) ∧
    (s.clk.on = false → s.boot.brown = false → s.tap.extest = false → s.pwr.deep = false → domOn s 0 = true → 13 ≤ s.pwr.doms.length →
      ∃ b, exec (.pll0Lock w) s = .next (endCmd s b) ∧ b.clk = { u.clk with on := true } ∧ domOn b 2 = true ∧
        (∀ d ∈ [4, 5, 6, 7, 8, 12], (domAt u d).phase = .off → (domAt b d).want = true) ∧ b = { u with clk := b.clk, pwr := b.pwr }))

/-- 18 R477, R478, R480: a new recognised level of a GP line that GPIN owns shows in SYS_GPIN and is stamped on its GPEDGE input; an unchanged
level, and a ball that GPIN does not own or that is parked, bring nothing. An event waits for the boundary with its cycle; past MAXEV it is
dropped and counted, and the last one delivered carries OVERRUN. STALE is stamped where it is due. Completes: `inputEvent`, `stale`. -/
def Obligations.InputEvents : Prop :=
  ∀ (w : When) (idx n : Nat) (s : State) (v : Int), n < 32 →
    let u := advance w s
    let x := lget s.pins.ins idx {}
    let hi := v % 2 == 1
    (ownerOf s (gpBall n) = 1 → ballParked u (gpBall n) = false → bitAt s.pins.gpin n ≠ hi →
      exec (.inputEvent w (512 + n) v) s = .next (endCmd s
        (srcEvent { u with pins := { s.pins with gpin := setBit s.pins.gpin n hi } } 3 n (b2n hi)))) ∧
    (ownerOf s (gpBall n) ≠ 1 ∨ ballParked u (gpBall n) = true ∨ bitAt s.pins.gpin n = hi →
      exec (.inputEvent w (512 + n) v) s = .next (endCmd s u)) ∧
    (x.count < inMaxEv (inputsB s) idx → x.stale = false →
      stampEv u idx v = { u with pins := { s.pins with
        evq := s.pins.evq ++ [{ idx := idx, stamp := u.clk.cyc, val := v, stale := false, ovr := false }]
        ins := lmod s.pins.ins idx fun y => { y with count := y.count + 1, seen := true, stale := false } } }) ∧
    (inMaxEv (inputsB s) idx ≤ x.count →
      stampEv u idx v = { u with pins := { s.pins with
        evq := markOver s.pins.evq idx, ins := lmod s.pins.ins idx fun y => { y with drops := min 65535 (y.drops + 1) } } }) ∧
    (staleDue u idx = false → exec (.stale w idx) s = .next (endCmd s u)) ∧
    (staleDue u idx = true → exec (.stale w idx) s = .next (endCmd s { u with pins := { s.pins with
      evq := s.pins.evq ++ [{ idx := idx, stamp := u.clk.cyc, val := 1, stale := true, ovr := false }]
      ins := lmod s.pins.ins idx fun y => { y with stale := true } } }))

/-- 18 R483: a flash command is taken while none runs; its end clears BUSY, and a command that reads has its data in its buffer in SRAM banks 1
to 7, filled up with zeros. Every other byte of SRAM stands. Completes: `flashCommand`, `flashCommandDone`. -/
def Obligations.FlashCommands : Prop :=
  ∀ (w : When) (r : Wr) (data : List Byte) (s : State),
    let u := advance w s
    let v := r.val.toNat
    let ctl := rwGet s (Base.sys + 0x240) 0
    let a := rwGet s (Base.sys + 0x248) 0
    let n := min (bits ctl 12 0) 4096
    (domOn s 8 = true → s.pins.flBusy = true → exec (.flashCommand w r) s = .next (endCmd s u)) ∧
    (domOn s 8 = true → s.pins.flBusy = false → exec (.flashCommand w r) s = .next (endCmd s
      { u with rw := aset s.rw (Base.sys + 0x240) (v &&& 0xFFFF1FFF), pins := { s.pins with flBusy := bitAt v 15 } })) ∧
    (s.pins.flBusy = false → exec (.flashCommandDone w data) s = .next (endCmd s u)) ∧
    (s.pins.flBusy = true → bitAt ctl 17 = true ∨ a < 0x10100000 ∨ 0x10800000 < a + n →
      exec (.flashCommandDone w data) s = .next (endCmd s { u with pins := { s.pins with flBusy := false } })) ∧
    (s.pins.flBusy = true → bitAt ctl 17 = false → 0x10100000 ≤ a → a + n ≤ 0x10800000 →
      ∃ b, exec (.flashCommandDone w data) s = .next (endCmd s b) ∧ b.pins.flBusy = false ∧
        (∀ i, i < n → sramByte b (a - 0x10000000 + i) = data.getD i 0) ∧
        ∀ k, (k < a - 0x10000000 ∨ a - 0x10000000 + n ≤ k) → sramByte b k = sramByte s k)

/-! ### DRAM words, elastic traffic, sparing and frequency (06, 07) -/

/-- 05 R149, 07 R207: a DRAM word to a domain that is not on raises DOMAIN_ORDER (code 6, class S), is counted, brings 0xD0FF_D0FF where it
reads, and completes; one that runs into a frequency change is held with DRAM_TIMING (code 3), but for MRR4, which completes; and one to a rank
in self-refresh is held so too (02 R58), but for MRR4 and SRX. 07 R203, R207, 19 R503: what is not issued and completes: a word other than READ
and WRITE to a retired rank, SRX to a rank that is not in self-refresh, and a word to a rank that a halt has put into self-refresh. 06 R163,
R166: any other DRAM word that may act runs its commands and is complete when the last of them has ended. MR4 is then on its way from its rank;
SRE leaves its rank in self-refresh and SRX takes it out; a READ leaves its lines with its port; no word but READ and WRITE changes memory, and
none changes memory outside DRAM. Completes: `dramRead`, `dramWrite`, `refab`, `refpb`, `mrr4`, `rfmab`, `rfmpb`, `zqlat`, `sre`, `srx`. -/
def Obligations.DramWords : Prop :=
  ∀ (w : When) (d op : Nat) (errs : List EccErr) (c : Instr) (s : State) (x : Disp),
    (op, c) ∈ [(0, Instr.dramRead w d errs), (1, .dramWrite w d errs), (2, .refab w d), (3, .refpb w d), (4, .mrr4 w d), (5, .rfmab w d),
      (6, .rfmpb w d), (7, .zqlat w d), (8, .sre w d), (9, .srx w d)] →
    let u := advance w s
    let p := wordPrank u x
    let sr := (prankAt s p).sr
    let gone := 2 ≤ op ∧ retired u p = true
    (openDisp u d 1 op = some x → wordDomOff u x = true →
      let f := raiseFault u 6 2 x.unit (if domOn s (20 + wordChan u x) then 24 + wordChan u x else 20 + wordChan u x) (some x.word)
      let g := { f with fab := { s.fab with cntOff := min 0xFFFFFFFF (s.fab.cntOff + 1) } }
      let off := List.replicate (dwCount x.payload) (dwPort x.payload, dwPtag x.payload, u.clk.mclk, offData 64, false)
      exec c s = .next (endCmd s (doneDisp (if op = 0 then { g with dmc := { s.dmc with bufIn := s.dmc.bufIn ++ off } } else g) d))) ∧
    (s.tsq.disp[d]? = some x → x.kind = 1 → bits x.payload 63 60 = op → x.done = false → 256 * x.slot ≤ u.clk.cyc →
      wordDomOff u x = false → s.dmc.fspLeft ≠ 0 →
      (op = 4 → exec c s = .next (endCmd s (doneDisp u d))) ∧
      (op ≠ 4 → x.held = false →
        ∃ b, exec c s = .next (endCmd s b) ∧ b.tsq.disp = lmod s.tsq.disp d (fun y => { y with held := true }) ∧ b.mem = s.mem ∧
          b.dmc = s.dmc ∧ lget b.tsq.fcnt 2 0 = lget (lmod s.tsq.fcnt 2 sat32) 2 0 ∧ b.tsq.pend = true)) ∧
    (openDisp u d 1 op = some x → wordDomOff u x = false → s.dmc.fspLeft = 0 →
      (gone ∨ (op = 9 ∧ sr = false) ∨ (s.dbg.halted = true ∧ sr = true) → exec c s = .next (endCmd s (doneDisp u d))) ∧
      (¬ gone → s.dbg.halted = false → sr = true → op ≠ 4 → op ≠ 9 → x.held = false →
        ∃ b, exec c s = .next (endCmd s b) ∧ b.tsq.disp = lmod s.tsq.disp d (fun y => { y with held := true }) ∧ b.mem = s.mem ∧
          b.dmc = s.dmc ∧ lget b.tsq.fcnt 2 0 = lget (lmod s.tsq.fcnt 2 sat32) 2 0 ∧ b.tsq.pend = true) ∧
      (¬ gone → s.dbg.halted = false ∨ sr = false → op = 4 ∨ sr = (op == 9) →
        let b := runWord u d x (if op < 2 then errs else [])
        exec c s = .next (endCmd s b) ∧
        (∃ y, b.tsq.disp[d]? = some y ∧ y.done = true ∧ y.unit = x.unit ∧ y.word = x.word) ∧
        (op = 0 → ∃ l, b.dmc.bufIn = s.dmc.bufIn ++ l ∧ ∀ y ∈ l, y.1 = dwPort x.payload ∧ y.2.1 = dwPtag x.payload) ∧
        (dwCount x.payload ≠ 0 → p < s.dmc.ranks.length →
          (op = 4 → (prankAt b p).mrrAt.isSome = true) ∧ (op = 8 → (prankAt b p).sr = true) ∧ (op = 9 → (prankAt b p).sr = false)) ∧
        (2 ≤ op → b.mem = s.mem) ∧ b.mem.sram = s.mem.sram ∧ b.mem.nvm = s.mem.nvm))

/-- 06 R178, R179: the data of an MR4 read returns. The rank's demand is kept; where the running set refreshes more slowly than it, and the
rank is not in self-refresh, REFRESH_DEFICIT (code 4) is raised. Which demand a byte asks for is the standard's (`mr4Rate`, assumption log
entry 52; a reserved code's is free). Of a rank that has been retired meanwhile nothing is recorded (07 R203).
Before its time, and with none on its way, nothing happens. Completes: `mr4Return`. -/
def Obligations.Mr4Returns : Prop :=
  ∀ (w : When) (chan rank : Nat) (raw : Byte) (s : State), 2 * chan + rank < s.dmc.ranks.length →
    let p := 2 * chan + rank
    let u := advance w s
    let k := lget s.dmc.ranks p {}
    let code := mr4Demand raw
    let mult := if code = 4 then 0xFF else 2 ^ code
    (mr4Rate raw = .base → code = 0) ∧ (mr4Rate raw = .mult 2 → code = 1) ∧ (mr4Rate raw = .mult 4 → code = 2) ∧
    (mr4Rate raw = .mult 8 → code = 3) ∧ (mr4Rate raw = .over → code = 4) ∧ code ≤ 4 ∧
    (k.mrrAt = none → exec (.mr4Return w chan rank raw) s = .next (endCmd s u)) ∧
    (∀ t, k.mrrAt = some t → u.clk.mclk < t → exec (.mr4Return w chan rank raw) s = .next (endCmd s u)) ∧
    (∀ t, k.mrrAt = some t → t ≤ u.clk.mclk → retired u p = true →
      exec (.mr4Return w chan rank raw) s = .next (endCmd s (modRank u p fun y => { y with mrrAt := none }))) ∧
    (∀ t, k.mrrAt = some t → t ≤ u.clk.mclk → retired u p = false →
      let b := modRank u p fun y => { y with mrrAt := none, polled := true, srAt := y.sr, demand := code, mr4 := raw.toNat }
      exec (.mr4Return w chan rank raw) s = .next (endCmd s
        (if k.sr = false ∧ refMult s s.tsq.set < mult then
          raiseFaultAt b (t - tickStart u) 4 2 (1 + p / 2) (p * 256 + mult) (some k.mrrWord)
         else b)))

/-- 06 R167, R170, 07 R206: elastic traffic issues nothing on a channel whose domain is off, while a fixed span holds it, while a frequency
change runs, and before training; otherwise the channel's queues are taken up (the scrub's write-backs and its next read, the neighbour refresh
that is over, the counts of what waits, the batch) and the chosen command issues, at most one. Completes: `elasticIssue`. -/
def Obligations.ElasticIssue : Prop :=
  ∀ (w : When) (c : Nat) (errs : List EccErr) (s : State),
    let u := advance w s
    ((domOn s (20 + c) = false ∧ (domAt u (20 + c)).phase ≠ .drain) ∨ s.dmc.fspLeft ≠ 0 ∨ fixedHeld u c = true ∨ s.dmc.ready = false →
      exec (.elasticIssue w c errs) s = .next (endCmd s u)) ∧
    (domOn s (20 + c) = true ∨ (domAt u (20 + c)).phase = .drain → s.dmc.fspLeft = 0 → fixedHeld u c = false → s.dmc.ready = true →
      let x := startBatch (countHeld (nrefDone (scrubStep (scrubBack u c) c) c) c) c
      (elChoice x c = none → exec (.elasticIssue w c errs) s = .next (endCmd s x)) ∧
      ∀ e, elChoice x c = some e → exec (.elasticIssue w c errs) s = .next (endCmd s (elIssue x c e errs)))

/-- 06 R185, 07 R195, R198, R201, R212: the DMC's commands by register: CONDEMN, START and ABORT of DMC_RETIRE with its key, MAXAGE.CLR of a
channel, and the select that copies an error log entry. Completes: `retireCondemn`, `retireStart`, `retireAbort`, `chmaxageClr`,
`elogselWrite`. -/
def Obligations.DmcRegisterCommands : Prop :=
  ∀ (w : When) (r : Wr) (c : Nat) (s : State),
    let u := advance w s
    let v := r.val.toNat
    let t := bits v 2 0
    (domOn s 9 = true → bits v 31 16 = 0x4D1C → bits v 9 8 = 1 →
      exec (.retireCondemn w r) s = .next (endCmd s (condemnRank u t)) ∧
      (t < s.dmc.ranks.length → (prankAt (condemnRank u t) t).bad = true)) ∧
    (domOn s 9 = true → bits v 31 16 = 0x4D1C → bits v 9 8 = 2 →
      exec (.retireStart w r) s = .next (endCmd s { u with dmc := { s.dmc with rmt := lmod s.dmc.rmt t fun x => { x with go := true } } })) ∧
    (domOn s 9 = true → bits v 31 16 = 0x4D1C → bits v 9 8 = 3 →
      exec (.retireAbort w r) s = .next (endCmd s
        { u with dmc := { s.dmc with abort := if movingLr s = some t then true else s.dmc.abort } })) ∧
    (domOn s 9 = true → bits v 31 16 ≠ 0x4D1C → exec (.retireCondemn w r) s = .next (endCmd s u) ∧
      exec (.retireStart w r) s = .next (endCmd s u) ∧ exec (.retireAbort w r) s = .next (endCmd s u)) ∧
    (c < 4 → domOn s (20 + c) = true → bitAt v 31 = true →
      exec (.chmaxageClr w c r) s = .next (endCmd s
        { u with dmc := { s.dmc with ch := lmod s.dmc.ch c fun x => { x with maxAge := 0 } } })) ∧
    (domOn s 9 = true → exec (.elogselWrite w r) s = .next (endCmd s
      { u with rw := aset s.rw (Base.dmc + 0x224) (v % 32)
               dmc := { s.dmc with elogSn := elogWords (ringAt s.dmc.elog s.dmc.elogTotal 32 (v % 32)) } }))

/-- 07 R199, R200: MIG issues nothing while no logical rank moves, while a frequency change runs, or with a rank's channel off; what it has
read goes to the spare, then a buffered mirror write, each as a write of CLASS 3 from port 10, or the next lines are read: which of these two
goes first the spec does not say (assumption log entry 164). 07 R206, R209, R210, 17 R541: a frequency change goes through its six steps in order, and its last tick ends it with the set point in force; training at boot
leaves DRAM ready, reading as zeros, and makes the next boundary the apply point unless it fails. Completes: `migCopy`, `freqStepDone`,
`freqChangeEnd`, `bootTrainingDone`. -/
def Obligations.MigrationAndFrequency : Prop :=
  (∀ (w : When) (ahead : Bool) (s : State),
    let u := advance w s
    let more := fun lr => (rmtAt s lr).st = 2 ∧ s.dmc.passEnd = false ∧ s.dmc.cp < dmDl (dramB s)
    let on := fun lr => domOn s (20 + (rmtAt s lr).cur / 2) = true ∧ domOn s (20 + spareRank s / 2) = true
    let writes := fun (b : State) (d : Nat) (data : List Byte) (bad : List Nat) =>
      ∃ x q, b.fab = { s.fab with xfers := s.fab.xfers ++ [x] } ∧ x.src = 10 ∧ x.job = .migWrite d ∧ x.todo = [q] ∧
        q.req.kind = .write ∧ q.req.cls = 3 ∧ q.req.data = data ∧ q.tgt = some (.rank (spareRank s) d) ∧ q.bad = bad
    (movingLr s = none ∨ s.dmc.fspLeft ≠ 0 → exec (.migCopy w ahead) s = .next (endCmd s u)) ∧
    (∀ lr, movingLr s = some lr → ¬ on lr → exec (.migCopy w ahead) s = .next (endCmd s u)) ∧
    (∀ lr d data bad, movingLr s = some lr → s.dmc.fspLeft = 0 → on lr → s.dmc.migData = some (d, data, bad) →
      ∃ b, exec (.migCopy w ahead) s = .next (endCmd s b) ∧ b = { u with dmc := { s.dmc with migData := none }, fab := b.fab } ∧
        writes b d data bad) ∧
    (∀ lr d data poison rest, movingLr s = some lr → s.dmc.fspLeft = 0 → on lr → s.dmc.migData = none → migReads s = false →
      s.dmc.mirror = (d, data, poison) :: rest → ahead = false ∨ ¬ more lr →
      ∃ b, exec (.migCopy w ahead) s = .next (endCmd s b) ∧ b = { u with dmc := { s.dmc with mirror := rest }, fab := b.fab } ∧
        writes b d data (if poison then [0] else [])) ∧
    (∀ lr, movingLr s = some lr → s.dmc.fspLeft = 0 → on lr → s.dmc.migData = none → migReads s = false → s.dmc.mirror = [] ∨ ahead = true →
      more lr →
      ∃ b x, exec (.migCopy w ahead) s = .next (endCmd s b) ∧ b = { u with fab := { s.fab with xfers := s.fab.xfers ++ [x] } } ∧
        x.src = 10 ∧ x.job = .migRead s.dmc.cp)) ∧
  (∀ (w : When) (bad : Byte) (rfm : List (Nat × Nat)) (s : State),
    let u := advance w s
    (s.dmc.fspStep = 0 → exec (.freqStepDone w bad) s = .next (endCmd s u)) ∧
    (s.dmc.fspStep = 2 → exec (.freqStepDone w bad) s = .next (endCmd s
      { u with dmc := { s.dmc with bank := s.dmc.fspTarget, fspStep := 3 } })) ∧
    (s.dmc.fspStep = 3 → exec (.freqStepDone w bad) s = .next (endCmd s { u with dmc := { s.dmc with fspStep := 4 } })) ∧
    (∀ n, 1 ≤ n → n ≤ 6 → s.dmc.fspStep = n → ∃ b, exec (.freqStepDone w bad) s = .next (endCmd s b) ∧
      b.dmc.fspStep = (n + 1) % 7 ∧ b.dmc.fspTarget = s.dmc.fspTarget ∧ b.dmc.fspLeft = s.dmc.fspLeft ∧ b.mem = s.mem) ∧
    (s.dmc.fspLeft ≠ 1 ∨ u.clk.cyc < s.clk.len → exec (.freqChangeEnd w) s = .next (endCmd s u)) ∧
    (s.dmc.fspLeft = 1 → s.clk.len ≤ u.clk.cyc → s.dmc.fspStep = 0 → s.dmc.fspNext = none →
      exec (.freqChangeEnd w) s = .next (endCmd s
        { u with dmc := { s.dmc with fspLeft := 0, bank := s.dmc.fspTarget }, tsq := { s.tsq with fsp := s.dmc.fspTarget } })) ∧
    (s.fld.st ≠ 5 ∨ s.tsq.run = true → exec (.bootTrainingDone w bad rfm) s = .next (endCmd s u)) ∧
    (s.fld.st = 5 → s.tsq.run = false → s.tsq.applyNext = false → s.boot.fallback = false → (dramDoms s).isEmpty = false → bad = 0 →
      ∃ b, exec (.bootTrainingDone w bad rfm) s = .next (endCmd s b) ∧ b.tsq.applyNext = true ∧ b.dmc.ready = true ∧
        b.mem = { s.mem with dram := [] } ∧ b.dmc.bootBad = 0 ∧ b.tsq.fsp = 0))

/-! ### Light timing and Scan-Out (08, 09) -/

/-- 08 R218: a FIELD word that may act gives its field's interval of light at its own cycle and length on the field's channel, and is complete
where it ends; its light is a window of the trigger outputs all the same where the port is off. 08 R221: its strobe is settled before that: the
flip is noted unless NOSTROBE keeps the plane that is shown (which the first FIELD word after an event of R221 does not obey) or the port is
off. Completes: `field`. -/
def Obligations.FieldWord : Prop :=
  (∀ (w : When) (d : Nat) (s : State) (x : Disp),
    let v := scanNow (advance w s)
    openUnit v d 4 0 0xD 4 = some x →
    let e := x.unit - 0xD
    let f := bits x.payload 59 56
    let a := 256 * x.slot + bits x.payload 49 36
    let len := bits x.payload 35 15
    ∃ cut, exec (.field w d) s = .next (endCmd s { v with
      tsq := { v.tsq with disp := lmod v.tsq.disp d fun y => { y with done := true, endAt := a + len } }
      lse := { v.lse with
        spans := if domOn v (30 + 3 * e) then
          v.lse.spans ++ [{ chan := 4 * e + fieldCh v e f, a := a, b := a + len, q := fieldInt v e f, acct := 0, seg := 0, puw := 0, eta := 0 }]
          else v.lse.spans
        shows := v.lse.shows ++ [{ eng := e, a := a, b := a + len, cut := cut }] } })) ∧
  (∀ (s : State) (e : Nat) (x : Disp),
    let t := settleField s e x
    (bitAt x.payload 14 = true ∧ (lseAt s e).force = false ∨ domOn s (30 + 3 * e) = false → t.lse = s.lse) ∧
    (bitAt x.payload 14 = false ∨ (lseAt s e).force = true → domOn s (30 + 3 * e) = true →
      ∃ plane, t.lse.flips = s.lse.flips ++ [(e, plane, 256 * x.slot + bits x.payload 49 36 - engTset s e)] ∧
        (e < s.lse.eng.length → (lseAt t e).force = false)))

/-- 08 R226, R228, R230: RASTER and VECTOR words open their engine's window, from their slot to their FINISH, and are complete; outside a
calibration run that takes the engine, and with no window open before it, the window is the word's own. 08 R228: the running element of a path
ends when it has counted its periods, and the path passes on; before that, on an engine with no element running and on an engine that does not
exist, the command changes nothing but what time does. Completes: `raster`, `vector`, `pathElementEnd`. -/
def Obligations.ScannerWindowsAndPaths : Prop :=
  (∀ (w : When) (d : Nat) (s : State) (x : Disp) (op : Nat) (c : Instr), (op, c) ∈ [(1, Instr.raster w d), (2, .vector w d)] →
    let v := scanNow (advance w s)
    let e := x.unit - 0xD
    openUnit v d 4 op 0xD 4 = some x →
    let b := openWin (doneDisp v d) e op x
    exec c s = .next (endCmd s b) ∧
    (e < v.lse.eng.length → pcEng (doneDisp v d) e = false → (op = 2 → ((lseAt v e).path && !(lseAt v e).stopped) = false) →
      (lseAt v e).win = none →
      ∃ k, (lseAt b e).win = some k ∧ k.word = x.word ∧ k.op = op ∧ k.field = bits x.payload 59 56 ∧ k.slot = x.slot ∧
        k.finish = x.finish ∧ b.tsq = { v.tsq with disp := lmod v.tsq.disp d fun y => { y with done := true, endAt := v.clk.cyc } } ∧
        b.mem = v.mem)) ∧
  (∀ (w : When) (e : Nat) (s : State),
    let v := scanNow (advance w s)
    (4 ≤ e → exec (.pathElementEnd w e) s = .next (endCmd s v)) ∧
    (e < 4 → (lseAt v e).run = none → exec (.pathElementEnd w e) s = .next (endCmd s v)) ∧
    (∀ n b, e < 4 → (lseAt v e).run = some n → bufEl (lseAt v e) (lseAt v e).ptr = some b → n < elNper b →
      exec (.pathElementEnd w e) s = .next (endCmd s v)) ∧
    (∀ n b, e < 4 → (lseAt v e).run = some n → bufEl (lseAt v e) (lseAt v e).ptr = some b → elNper b ≤ n →
      let c := match (lseAt v e).win with
        | some k => (cycOf (Int.fdiv (sweepStart (lseAt v e) (- Int.fdiv (- k.next) 2 * 2)) 4)).toNat
        | none => v.clk.cyc
      exec (.pathElementEnd w e) s = .next (endCmd s
        (pathPass (min c (nSlot v * 256)) e 2049 (modLse v e fun y => { y with run := none, ptr := (lseAt v e).ptr + 1 })))))

/-- 09 R245, R246: an elastic FETCH word lets its engine's reads run and is complete; a fixed one takes the lines that arrive under its tags
within its window, and is complete once BLOCKS lines have. 09 R247: the fetch unit issues an elastic read only while its engine has demand, a
FETCH word let it run (or the fallback display runs), its domain is on, no read of it is under way (assumption log entry 147) and its buffer
has room; the read starts with the surface's descriptor, from port 12 + e, with the level of R247 as CLASS. Completes: `fetchArray`,
`fetchLines`, `fetchElasticRead`. -/
def Obligations.FetchReads : Prop :=
  (∀ (w : When) (d : Nat) (s : State) (x : Disp) (op : Nat) (c : Instr), (op, c) ∈ [(0, Instr.fetchArray w d), (1, .fetchLines w d)] →
    let v := scanNow (advance w s)
    openUnit v d 2 op 5 4 = some x →
    let e := x.unit - 5
    (fetchFixed x.payload = false → exec c s = .next (endCmd s (doneDisp (modPso v e fun y => { y with go := true }) d))) ∧
    (fetchFixed x.payload = true →
      let z := fixedLines (takeLines v e (tickStart v + 256 * x.slot) (min (tickStart v + 256 * x.finish) (v.clk.mclk + 1)) 256) e 4096
      exec c s = .next (endCmd s (if fetchBlocks x.payload ≤ (psoAt z e).taken
        then doneDisp (modPso z e fun y => { y with taken := 0, tag := 0 }) d else z)))) ∧
  (∀ (w : When) (e : Nat) (s : State),
    let v := scanNow (advance w s)
    let z := fetchLevels v
    (4 ≤ e → exec (.fetchElasticRead w e) s = .next (endCmd s v)) ∧
    (e < 4 → (psoAt z e).cls = 0 ∨ fetchBusy z e = true ∨ domOn z (28 + 3 * e) = false →
      exec (.fetchElasticRead w e) s = .next (endCmd s z)) ∧
    (∀ x pts base len, e < 4 → (psoAt z e).cls ≠ 0 → fetchBusy z e = false → domOn z (28 + 3 * e) = true → nextPiece z e = some (x, pts) →
      surfPlace z e = some (base, len) →
      (32768 < fill (psoAt z e) + pts.length → exec (.fetchElasticRead w e) s = .next (endCmd s z)) ∧
      (fill (psoAt z e) + pts.length ≤ 32768 →
        ∃ k, exec (.fetchElasticRead w e) s = .next (endCmd s { z with fab := { z.fab with xfers := z.fab.xfers ++ [k] } }) ∧
          k.src = 12 + e ∧ k.job = .fetch e (psoAt z e).next 0 [(base, 64)] [] [] ∧
          (∀ q ∈ k.todo, q.req.kind = .read ∧ q.req.cls = (psoAt z e).cls))))

/-- 09 R252, R253: a PUSH word opens its window and what can be sent in it by now is sent; a COMMIT word opens the commit window of the group
whose packets its port sends (a clone's own word opens none); both are complete. 09 R253, R257, R18: a commit is sent in the cycle that R253
gives, on every port of the group; one whose window has closed without it is late, and counted, on every port of the group. Completes: `push`,
`commit`, `commitSend`, `commitLate`. -/
def Obligations.PushAndCommit : Prop :=
  (∀ (w : When) (d : Nat) (s : State) (x : Disp),
    let v := scanNow (advance w s)
    let y := doneDisp v d
    let e := x.unit - 9
    (openUnit v d 3 0 9 4 = some x →
      exec (.push w d) s = .next (endCmd s (pushRun e (16 * v.clk.cyc) pushFuel
        (modPso y e fun z => { z with pushWin := some (x.word, x.slot, x.finish), starved := false })))) ∧
    (openUnit v d 3 1 9 4 = some x →
      (rootEng y e = e → exec (.commit w d) s = .next (endCmd s (modPso y e fun z => { z with commitWin := some (x.slot, x.finish) }))) ∧
      (rootEng y e ≠ e → exec (.commit w d) s = .next (endCmd s y)))) ∧
  (∀ (w : When) (e : Nat) (s : State),
    let u := advance w s
    exec (.commitLate w e) s = .next (endCmd s (commitLate (scanNow u) e u.clk.cyc)) ∧
    exec (.commitSend w e) s = .next (endCmd s (commitSend (scanNow u) e (u.clk.cyc + 1)))) ∧
  (∀ (v : State) (e upTo : Nat),
    (∀ a b, (psoAt v e).commitWin = some (a, b) →
      (upTo < 256 * b → commitLate v e upTo = v) ∧
      (256 * b ≤ upTo → commitLate v e upTo = { v with pso := (commitLate v e upTo).pso } ∧
        ∀ m, m < v.pso.eng.length → psoAt (commitLate v e upTo) m = if (cloneGroup v e).contains m = true then
            (if (psoAt v m).open_ = true ∧ (psoAt v m).commitPend = false then
              { psoAt v m with commitWin := none, late := sat32 (psoAt v m).late, lateNow := sat16 (psoAt v m).lateNow }
             else { psoAt v m with commitWin := none })
          else psoAt v m)) ∧
    (∀ c, commitAt v e = some c → upTo ≤ c → commitSend v e upTo = v) ∧
    (commitAt v e = none → commitSend v e upTo = v) ∧
    (∀ c, commitAt v e = some c → c < upTo →
      let t := commitSend v e upTo
      t.tsq = v.tsq ∧ t.mem = v.mem ∧ t.saf = v.saf ∧
      ∀ m, m < v.pso.eng.length → (cloneGroup v e).contains m = true → (psoAt t m).commitPend = true ∧ (psoAt t m).commitWin = none) ∧
    (∀ c a b, e < 4 → (psoAt v e).commitWin = some (a, b) → commitAt v e = some c →
      256 * a ≤ c ∧ c < 256 * b ∧ pushDone (psoAt v e) = true ∧ (psoAt v e).open_ = true ∧ (psoAt v e).commitPend = false ∧
        (psoAt v e).wire ≤ 16 * c))

/-- 08 R236, 09 R255, 11 R312: CLRMAX, RETRAIN, and the selects that copy a failure record and a colour value. Completes: `clrmax`,
`frselWrite`, `colselWrite`, `retrain`. -/
def Obligations.LightRegisterCommands : Prop :=
  ∀ (w : When) (e : Nat) (r : Wr) (s : State),
    let u := advance w s
    let v := r.val.toNat
    let clear := fun l : Lse => { l with eng := l.eng.map fun x => { x with maxErr := 0 } }
    (domOn s 10 = true → bitAt v 2 = true → bitAt v 1 = false →
      exec (.clrmax w r) s = .next (endCmd s { u with lse := clear s.lse, shown := { s.shown with lse := clear s.shown.lse } })) ∧
    (e < 4 → domOn s (28 + 3 * e) = true →
      exec (.retrain w e r) s = .next (endCmd s (if bitAt v 31 then
        { u with pso := { s.pso with eng := lmod s.pso.eng e fun x => { x with retrain := true } } } else u))) ∧
    (domOn s 10 = true → exec (.frselWrite w r) s = .next (endCmd s
      { u with rw := aset s.rw (Base.lse + 0x420) (bits v 5 0)
               lse := { s.lse with
                 frSn := (ringAt s.shown.lse.fr s.shown.lse.frTotal 64 (bits v 5 0)).getD (List.replicate 8 0) } })) ∧
    (domOn s 10 = true → exec (.colselWrite w r) s = .next (endCmd s
      { u with rw := aset s.rw (Base.lse + 0x490) (bits v 12 8 * 256 + bits v 3 0)
               lse := { s.lse with colVal := colItem (lget s.lse.colWas (bits v 3 0) {}) (bits v 12 8) % 2 ^ 32 } }))

/-! ### The servo engine, calibration and Loupe (10, 12, 13) -/

/-- 10 R272, R274, R275: a COMPUTE word updates or holds its loop and is complete; at its FINISH the loop's output is written to its drive
channel; a FIELD word hands each shared channel over; a sample of a channel that no loop takes there changes nothing. 10 R270, R272: a sense
channel's sample at a sixteenth is the mean of its trimmed conversions; a channel that is not enabled, that no loop samples there, or whose
sample the tick already has, changes nothing. Completes: `compute`, `drvWrite`, `sharedDrvWrite`, `snsSample`. -/
def Obligations.ServoLoops : Prop :=
  (∀ (w : When) (d : Nat) (s : State) (x : Disp),
    let u := advance w s
    (openUnit (scanNow u) d 5 0 0x11 16 = some x →
      exec (.compute w d) s = .next (endCmd s (computeLoop (doneDisp (scanNow u) d) (x.unit - 0x11) (bits x.payload 59 56)))) ∧
    (s.tsq.disp[d]? = some x → x.kind = 5 → 0x11 ≤ x.unit → x.unit < 0x21 → x.done = true → 256 * x.finish ≤ u.clk.cyc →
      ∀ c, lpDrv (loopB (srvB s) (x.unit - 0x11)) = some c → lpEn (loopB (srvB s) (x.unit - 0x11)) = true → drvShare s c = none →
        drvBlanked u = false → domOn s (drvDom c) = true → drvHeld s c = false → c < s.srv.drv.length →
        ∃ b, exec (.drvWrite w d) s = .next (endCmd s b) ∧ lget b.srv.drv c 0 = pat 16 (loopAt s (x.unit - 0x11)).u ∧
          (∀ k, k ≠ c → lget b.srv.drv k 0 = lget s.srv.drv k 0) ∧ b = { u with srv := b.srv, twn := b.twn }) ∧
    (s.tsq.disp[d]? = some x → x.done = false → exec (.drvWrite w d) s = .next (endCmd s u)) ∧
    (s.tsq.disp[d]? = some x → x.kind = 4 → 0xD ≤ x.unit → x.unit < 0x11 → bits x.payload 63 60 = 0 → unitOn u x.unit = true →
      exec (.sharedDrvWrite w d) s = .next (endCmd s
        (sharedWrite u (x.unit - 0xD) (4 * (x.unit - 0xD) + fieldCh s (x.unit - 0xD) (bits x.payload 59 56))))) ∧
    (s.tsq.disp[d]? = none → exec (.sharedDrvWrite w d) s = .next (endCmd s u))) ∧
  (∀ (w : When) (ch j : Nat) (raws : List Nat) (ok : Bool) (s : State),
    let u := advance w s
    let mean : Nat := ((raws.take (2 ^ snsOsr u ch)).map (trim u ch)).foldl (· + ·) 0 / 2 ^ snsOsr u ch
    (samplers u ch j = [] ∨ snsEn u ch = false → exec (.snsSample w ch j raws ok) s = .next (endCmd s (bundleSamples u u.srv.samp.length))) ∧
    (samplers u ch j ≠ [] → snsEn u ch = true → sampAt u ch j = none → shadowRun s = false → ch < s.srv.sns.length →
      ∃ b z val fb, exec (.snsSample w ch j raws ok) s = .next (endCmd s b) ∧
        sampleSrc u 5 ch mean (ok && raws.length == 2 ^ snsOsr u ch && domOn u (snsDom ch)) (snsHeld u ch) = (z, val, fb) ∧
        lget b.srv.sns ch (0, true) = (pat 16 val, fb) ∧ b.mem = s.mem))

/-- 12 R317, R322, R323: OTP programming and record writes. A program needs its key, no other under way, an address outside the factory record
and MINVER, and BENCH_N low, and blows the bits that read back; an import starts unless one runs, and reads the record through port 11; one
that has been read is rejected with its code, or its copy is queued for writing; the end of a record write stores its copy where it succeeded,
reports it, and the next copy follows. Completes: `otpProgram`, `otpProgramDone`, `importRec`, `importDone`, `nvmRecordWriteDone`. -/
def Obligations.OtpAndRecords : Prop :=
  ∀ (w : When) (r : Wr) (readback : Word) (ok : Bool) (s : State),
    let u := advance w s
    let v := r.val.toNat
    let a := bits (rwGet s (Base.cal + 0x18) 0) 8 2 * 4
    (domOn s 58 = true → exec (.otpProgram w r) s = .next (endCmd s
      (if bits v 31 16 ≠ 0x0F5E ∨ bitAt v 0 = false ∨ s.cal.prog.isSome = true then u
       else if a < 0x80 ∨ a = 0xC8 ∨ a = 0xCC ∨ benchLow s = false then { u with cal := { s.cal with progErr := true } }
       else { u with cal := { s.cal with prog := some (a, rwGet s (Base.cal + 0x1C) 0) } }))) ∧
    (s.cal.prog = none → exec (.otpProgramDone w readback) s = .next (endCmd s u)) ∧
    (∀ k x, s.cal.prog = some (k, x) → ∃ b, exec (.otpProgramDone w readback) s = .next (endCmd s b) ∧ b.cal.prog = none ∧
      (b.cal.progErr = true ↔ s.cal.progErr = true ∨ readback.toNat &&& x ≠ x) ∧ b.cal.otp = s.cal.otp ∧ b.mem = s.mem ∧
      b.cal.array = patch s.cal.array k (leBytes 4 (otpWord s.cal.array k ||| (readback.toNat &&& x)))) ∧
    (domOn s 58 = true → bitAt v 0 = true → s.cal.impSt = 1 → exec (.importRec w r) s = .next (endCmd s u)) ∧
    (domOn s 58 = true → bitAt v 0 = true → s.cal.impSt ≠ 1 → ∃ x, exec (.importRec w r) s = .next (endCmd s { u with
        cal := { s.cal with impSt := 1, impCode := 0, impBuf := none }
        fab := { s.fab with xfers := s.fab.xfers ++ [x] } }) ∧ x.src = 11 ∧ x.job = .impHead) ∧
    (s.cal.impBuf = none → exec (.importDone w) s = .next (endCmd s u)) ∧
    (∀ c, s.cal.impSt = 1 → s.cal.impBuf = some c →
      (importCode u c ≠ 0 → exec (.importDone w) s = .next (endCmd s
        { u with cal := { s.cal with impBuf := none, impKind := u8 c 4 % 16, impSt := 3, impCode := importCode u c } })) ∧
      (importCode u c = 0 → ∃ b k, exec (.importDone w) s = .next (endCmd s b) ∧ b.cal.impSt = 1 ∧ b.cal.impBuf = none ∧
        b.cal.impKind = u8 c 4 % 16 ∧ b.cal.wr = s.cal.wr ++ [k] ∧ k.kind = u8 c 4 ∧ k.body = recBody c ∧ k.imp = true ∧
        b.mem.sram = s.mem.sram)) ∧
    (s.cal.wr = [] → exec (.nvmRecordWriteDone w ok) s = .next (endCmd s u)) ∧
    (∀ k rest, s.cal.wr = k :: rest → ∃ b, exec (.nvmRecordWriteDone w ok) s = .next (endCmd s b) ∧ b.cal.wr = rest ∧
      b.cal.impSt = (if k.imp then (if ok then 2 else 3) else s.cal.impSt) ∧ b.mem.sram = s.mem.sram ∧
      (rest = [] → b.cal.nvmSt = (if ok then 2 else 3) ∧
        b.mem.nvm = if ok then memPutAll (some 0xFF) s.mem.nvm (slotAddr k.kind s.cal.nvmSlot)
          (frameRec k.kind s.cal.nvmSlot (newGen u k) k.temp k.run k.tc k.body) else s.mem.nvm))

/-- 12 R331, R332, R337: calibration's other commands: a STEP word adds its conversions to the run's sums in an active tick (a shadow those
that its bundle brought, R335), a run that cannot end in time fails, a read of CAL_NVMDATA moves the address on, and the select copies a ratio.
Completes: `calStep`, `runTimeout`, `nvmdataRead`, `ratioselWrite`. -/
def Obligations.CalibrationCommands : Prop :=
  ∀ (w : When) (d src : Nat) (raws : List Nat) (r : Wr) (x : Disp) (s : State),
    let u := advance w s
    let run := s.cal.run
    let got := if shadowRun s then s.cal.raws else raws
    let sum : Int := (got.take 16).foldl (fun (a : Int) y => a + (y : Nat)) 0
    (openUnit u d 8 0 0x26 1 = some x →
      let i := if run.code = 3 ∧ 10 ≤ run.active then 1 else 0
      let taken := run.st = 1 ∧ run.inTick = true ∧ run.code ≠ 4 ∧ ¬ (run.code = 3 ∧ run.active % 10 < 2)
      ∃ tw, exec (.calStep w d raws) s = .next (endCmd s { u with
          tsq := { s.tsq with disp := lmod s.tsq.disp d fun y => { y with done := true, endAt := u.clk.cyc } }
          twn := tw
          cal := { s.cal with run := if taken then { run with
            sums := lmod run.sums i (· + sum)
            counts := lmod run.counts i fun z => z + (got.take 16).length } else run } }) ∧
        (isLead s = false ∨ ¬ taken → tw = s.twn)) ∧
    exec (.runTimeout w) s = .next (endCmd s
      (if run.st = 1 ∧ runTo run.code ≤ run.ticks + 1 ∧ (if run.inTick then run.active + 1 else run.active) ≠ runActive run.code
        then runFail u 1 else u)) ∧
    (domOn s 58 = true → exec (.nvmdataRead w src) s = .next (endCmd s
      { u with cal := { s.cal with nvmAddr := (s.cal.nvmAddr + 4) % 0x20000 } })) ∧
    (domOn s 58 = true → exec (.ratioselWrite w r) s = .next (endCmd s
      { u with rw := aset s.rw (Base.cal + 0x50) (bits r.val.toNat 4 0)
               cal := { s.cal with ratio := pat 32 (lget s.shown.cal.ratios (bits r.val.toNat 4 0) 0) } }))

/-- 13 R344, R351, R358, R360: a camera word that may act does its own operation and is complete; EXPOSE drives its triggers only inside the
dark window's inner part. 13 R341, R356, R361, 14 R371, R372, R377: a packet at a receiver that is off or not enabled is not received; one with
a header past repair is counted and dropped; a finished presence map is handed to Aperture, which keeps the newest valid one and fires PRESENCE
where it shows a zone occupied that was lit under CLEAR at or after its exposure; the oldest finished frame whose streams are written gets its
record. How long PROCESS, METRIC and PRESENCE last is the model's reading where log entry 153 says so. Completes: `process`, `expose`,
`metric`, `presence`, `csiPacketReceive`, `mapHandover`, `frameDone`. -/
def Obligations.Cameras : Prop :=
  (∀ (w : When) (d : Nat) (s : State) (x : Disp),
    let u := advance w s
    let c := bits x.payload 58 56
    (openUnit u d 6 0 0x21 2 = some x → pickStripe u x.payload = none →
      exec (.process w d) s = .next (endCmd s (doneDispAt u d (u.clk.cyc + 1)))) ∧
    (∀ i t, openUnit u d 6 0 0x21 2 = some x → pickStripe u x.payload = some i → s.lpe.stripes[i]? = some t →
      exec (.process w d) s = .next (endCmd s (processStripe
        { doneDispAt u d (u.clk.cyc + processCost u t.ctx) with lpe := { s.lpe with stripes := s.lpe.stripes.eraseIdx i } }
        t (some x.word) x.finish))) ∧
    (openUnit u d 6 1 0x21 2 = some x →
      ∃ b, exec (.expose w d) s = .next (endCmd s b) ∧ b = { doneDisp u d with lpe := { s.lpe with trig := b.lpe.trig, pulses := b.lpe.pulses } } ∧
        ∀ p ∈ b.lpe.trig, p ∈ s.lpe.trig ∨ ((innerWindow s).1 ≤ p.2.1 ∧ p.2.1 < p.2.2 ∧ p.2.2 ≤ (innerWindow s).2)) ∧
    (openUnit u d 6 2 0x21 2 = some x → visNewest u c x.slot = none →
      exec (.metric w d) s = .next (endCmd s (doneDispAt u d (u.clk.cyc + 1)))) ∧
    (openUnit u d 6 2 0x21 2 = some x → ∀ v, visNewest u c x.slot = some v →
      let l := segEntries u x
      let m := metricRun c x.slot x.finish v (max (256 * x.slot) l.1.clk.cyc) l.2 l.1
      exec (.metric w d) s = .next (endCmd s (doneDispAt m.1 d m.2))) ∧
    (openUnit u d 6 3 0x21 2 = some x → (∀ v, visNewest u c x.slot = some v → v.used = true) →
      exec (.presence w d) s = .next (endCmd s (doneDispAt u d (u.clk.cyc + 1)))) ∧
    (openUnit u d 6 3 0x21 2 = some x → ∀ v, visNewest u c x.slot = some v → v.used = false →
      ∃ b m, exec (.presence w d) s = .next (endCmd s b) ∧ b.lpe.mapNext = some m ∧ m.ctx = c ∧ m.etc = v.etc ∧
        (m.valid = true ↔ (ctxAt s c).bg = true ∧ v.bad = false) ∧ b.mem.sram = s.mem.sram ∧ b.saf = s.saf)) ∧
  (∀ (w : When) (rx d c : Nat) (p : CsiPacket) (s : State) (x : Disp),
    let u := advance w s
    (2 ≤ rx ∨ domOn s (44 + rx) = false ∨ rxEn (lpeB s) rx = false → exec (.csiPacketReceive w rx p) s = .next (endCmd s u)) ∧
    (rx < 2 → domOn s (44 + rx) = true → rxEn (lpeB s) rx = true → p.hdr = 2 →
      exec (.csiPacketReceive w rx p) s = .next (endCmd s { u with lpe := { s.lpe with
        rx := lmod (lmod s.lpe.rx rx fun y => { y with up := true }) rx fun y => { y with eccBad := min 255 (y.eccBad + 1) } } })) ∧
    (s.tsq.disp[d]? = some x → x.kind = 6 → bits x.payload 63 60 = 3 → x.done = true → x.endAt ≤ u.clk.cyc → 256 * x.finish ≤ u.clk.cyc →
      ∀ m, s.lpe.mapNext = some m →
        let g : State := { u with
          lpe := { s.lpe with mapNext := none, mapWas := s.lpe.map, map := some m }
          saf := if m.valid then { s.saf with eng := s.saf.eng.zipIdx.map fun (y, e) =>
            { y with mapOk := true, mapEtc := m.etc, mapOcc := lget m.occ e 0 } } else s.saf }
        (m.valid = false ∨ (∀ e < 4, presenceZone g e = none) → exec (.mapHandover w d) s = .next (endCmd s g)) ∧
        (m.valid = true → ∀ e z, e < 4 → presenceZone g e = some z → (∀ k < 4, k ≠ e → presenceZone g k = none) →
          exec (.mapHandover w d) s = .next (endCmd s (fire g 5 0 (4 * e) z)))) ∧
    (s.tsq.disp[d]? = none → exec (.mapHandover w d) s = .next (endCmd s u)) ∧
    ((ctxAt s c).fin = [] ∨ (∃ f rest, (ctxAt s c).fin = f :: rest ∧ frameWritten s c f.frame = false) → exec (.frameDone w c) s = .next (endCmd s u)) ∧
    (∀ f rest, c < s.lpe.ctx.length → (ctxAt s c).fin = f :: rest → frameWritten s c f.frame = true →
      ∃ b, exec (.frameDone w c) s = .next (endCmd s b) ∧ (ctxAt b c).fin = rest ∧ (ctxAt b c).count = min 0xFFFFFFFF ((ctxAt s c).count + 1) ∧
        lget (ctxAt b c).done 0 0 = f.frame ∧ lget (ctxAt b c).done 4 0 = f.etc % 2 ^ 32 ∧ b = { u with lpe := b.lpe }))

/-! ### Aperture (14) -/

/-- 14 R377 to R380: the triggers. Each logs its entry, counts under its code, restarts the hold and leaves Dark standing, with CAUSE as it was
where Dark stood already; and every engine is unqualified. 14 R377, R385: what is no trigger: two interlock levels that differ, a scanner that
is not lit, a power within its cap or of a channel without a monitor (14 R375, assumption log entry 132), a strap or a ball back at its level, a FORCE or a TEST without
its key. None of them changes Dark, the counts or the log; a power within its cap ends that condition. Completes: `intlkOpen`, `intlkDisc`, `scanloss`, `overpower`, `tickloss`, `clkloss`,
`strap`, `lenfault`, `force`, `test`. -/
def Obligations.ApertureTriggers : Prop :=
  (∀ (w : When) (r : Wr) (lat n lvl e : Nat) (a : Bool) (s : State),
    let u := advance w s
    let v := r.val.toNat
    let high := n < 16 ∧ sfRole (safB s) n ≠ 0 ∧ sfMon (safB s) n ≠ 0xFF ∧ 64 * monCap u n < lvl
    let fired := fun (c : Instr) (code : Nat) =>
      ∃ b, exec c s = .next (endCmd s b) ∧ b.saf.dark = true ∧ b.saf.cause = (if s.saf.dark then s.saf.cause else code) ∧
        b.saf.lastTrig = some u.clk.aclk ∧ b.saf.cnt = lmod s.saf.cnt code sat32 ∧ b.saf.logTotal = (s.saf.logTotal + 1) % 2 ^ 32 ∧
        (∃ l, b.saf.log.head? = some l ∧ l.code = code ∧ l.aclk = u.clk.aclk ∧ l.wasdark = s.saf.dark) ∧
        (∀ x ∈ b.saf.eng, x.qual = false ∧ x.good = 0) ∧ b.saf.ena = s.saf.ena ∧ b.tsq.tc = s.tsq.tc ∧ b.mem = s.mem ∧ b.fld = s.fld
    fired (.intlkOpen w) 1 ∧ fired (.intlkDisc w a a) 2 ∧ (high → fired (.overpower w ⟨n, lvl⟩) 4) ∧ fired (.tickloss w) 6 ∧
      fired (.clkloss w) 7 ∧
      (engKind s e = 2 → engLit s e = true → fired (.scanloss w e) 3) ∧
      (a ≠ bitAt s.boot.straps 3 → fired (.strap w a) 10) ∧
      (n < 16 → a ≠ bitAt s.saf.drive n → fired (.lenfault w n a) 11) ∧
      (domOn s 1 = true → bits v 31 16 = 0xDA2C → bitAt v 0 = true → fired (.force w r) 12) ∧
      (domOn s 1 = true → bits v 31 16 = 0x7E57 → 1 ≤ v % 16 → v % 16 ≤ 12 → fired (.test w r lat) 13)) ∧
  (∀ (w : When) (r : Wr) (lat n lvl e : Nat) (a b : Bool) (s : State),
    let u := advance w s
    let v := r.val.toNat
    let high := n < 16 ∧ sfRole (safB s) n ≠ 0 ∧ sfMon (safB s) n ≠ 0xFF ∧ 64 * monCap u n < lvl
    (a ≠ b → exec (.intlkDisc w a b) s = .next (endCmd s u)) ∧
    (engKind s e ≠ 2 ∨ engLit s e = false → exec (.scanloss w e) s = .next (endCmd s u)) ∧
    (¬ high → exec (.overpower w ⟨n, lvl⟩) s = .next (endCmd s
      { u with saf := { s.saf with above := if n < 16 then setBit s.saf.above n false else s.saf.above } })) ∧
    (16 ≤ n → exec (.lenfault w n a) s = .next (endCmd s u)) ∧
    (a = bitAt s.boot.straps 3 → exec (.strap w a) s = .next (endCmd s
      { u with boot := { s.boot with benchLive := a }, saf := { s.saf with cond := setBit s.saf.cond 10 false } })) ∧
    (n < 16 → a = bitAt s.saf.drive n →
      let k := setBit s.saf.stuck n false
      exec (.lenfault w n a) s = .next (endCmd s { u with saf := { s.saf with stuck := k, cond := setBit s.saf.cond 11 (k != 0) } })) ∧
    (domOn s 1 = true → bits v 31 16 ≠ 0xDA2C ∨ bitAt v 0 = false → exec (.force w r) s = .next (endCmd s u)) ∧
    (domOn s 1 = true → bits v 31 16 ≠ 0x7E57 ∨ v % 16 = 0 ∨ 12 < v % 16 → exec (.test w r lat) s = .next (endCmd s u)))

/-- 14 R383, R387: re-arm. A request only waits for the next boundary, and Dark stands until there; HOLDING ends REARMHOLD after the last
trigger with no command's help; the interlock closes; and the selects copy a zone map and a log entry. 14 R383: a requested re-arm at a
boundary. It lifts Dark only with the factory record good, no latch, no condition, the hold passed and the interlock closed for 100 ms; the
first of the causes that hold is reported, and engines must qualify anew. Completes: `rearmRequest`, `rearmholdExpiry`, `zoneselWrite`,
`logselWrite`, `interlockClosed`. -/
def Obligations.ApertureRearm : Prop :=
  (∀ (w : When) (r : Wr) (s : State),
    let u := advance w s
    let v := r.val.toNat
    (domOn s 1 = true → exec (.rearmRequest w r) s = .next (endCmd s
      (if bits v 31 16 = 0xA9E2 ∧ bitAt v 0 = true then { u with saf := { s.saf with rearmReq := true } } else u))) ∧
    (exec (.rearmholdExpiry w) s = .next (endCmd s u) ∧
      (holding u = false ↔ ∀ t, s.saf.lastTrig = some t → t + 20000 * sfHold (safB s) ≤ s.clk.aclk + w.da)) ∧
    exec (.interlockClosed w) s = .next (endCmd s { u with saf := { s.saf with
      cond := setBit (setBit s.saf.cond 1 false) 2 false, a := true, b := false, ist := 0
      closedAt := some (s.saf.closedAt.getD u.clk.aclk), intFault := s.saf.intFault && !s.saf.opened, opened := false } }) ∧
    (domOn s 1 = true → exec (.zoneselWrite w r) s = .next (endCmd s
      { u with rw := aset s.rw (Base.saf + 0x2C) (v % 4)
               saf := { s.saf with zsn := (List.range 16).map fun i => clearZones s (v % 4) / 2 ^ (32 * i) % 2 ^ 32 } })) ∧
    (domOn s 1 = true → exec (.logselWrite w r) s = .next (endCmd s
      { u with rw := aset s.rw (Base.saf + 0x30) (v % 16)
               saf := { s.saf with logSn := safLogWords (ringAt s.saf.log s.saf.logTotal 16 (v % 16)) } }))) ∧
  (∀ s : State, s.saf.rearmReq = true →
    let t := rearmNow s
    t.saf.rearmReq = false ∧
    (t.saf.dark = false ↔ s.saf.dark = false ∨ (trimOk s = true ∧ s.saf.lenFlt = false ∧ s.saf.intFault = false ∧ safPend s = 0 ∧
      holding s = false ∧ ∃ c, s.saf.closedAt = some c ∧ c + 2000000 ≤ s.clk.aclk)) ∧
    t.saf.rearmErr = (if s.saf.dark = false then 5
      else if trimOk s = false ∨ s.saf.lenFlt = true ∨ s.saf.intFault = true then 4
      else if safPend s ≠ 0 then 1 else if holding s = true then 2
      else if ∃ c, s.saf.closedAt = some c ∧ c + 2000000 ≤ s.clk.aclk then 0 else 3) ∧
    (t.saf.rearmErr = 0 → ∀ x ∈ t.saf.eng, x.qual = false ∧ x.cross = 0))

/-- 08 R222, 14 R373, R384: a crossing on an owned zero-crossing ball is an input event, and Aperture measures the period between rising
crossings and counts good ones toward qualification. A ball without an owner brings nothing. Completes: `zxinEdge`. -/
def Obligations.ZeroCrossing : Prop :=
  ∀ (w : When) (e slow : Nat) (rising env : Bool) (s : State),
    let u := advance w s
    (4 ≤ e ∨ (ownerBall u (0x10 + e)).isSome = false → exec (.zxinEdge w e rising env slow) s = .next (endCmd s u)) ∧
    (e < 4 → (ownerBall u (0x10 + e)).isSome = true → e < s.saf.eng.length →
      ∃ b, exec (.zxinEdge w e rising env slow) s = .next (endCmd s b) ∧
        b = { u with pins := (srcEvent u 0x08 e (b2n rising)).pins, saf := b.saf } ∧
        (safEng b e).slow = slow % 4096 ∧ (safEng b e).lastX = some u.clk.aclk ∧ (safEng b e).env = env ∧
        (safEng b e).cross = min 16383 ((safEng s e).cross + 1) ∧
        (rising = true → (safEng b e).lastRise = some u.clk.aclk ∧
          ∀ t, (safEng s e).lastRise = some t → (safEng b e).pa = u.clk.aclk - t) ∧
        (env = false → (safEng b e).good = 0) ∧ ∀ k, k ≠ e → safEng b k = safEng s k)

/-! ### Chain ports and store time (15) -/

/-- 15 R392, R393, R401: frames at a chain port. A port whose link is down receives nothing; a damaged frame and a MAC control frame are
counted and go no further; a frame for this station goes to its ring, or is counted where its VLAN is not accepted. Completes:
`chainFrameReceive`. -/
def Obligations.ChainReceive : Prop :=
  ∀ (w : When) (p : Nat) (f : ChainFrame) (s : State), p < s.chn.ports.length →
    let u := advance w s
    let x := modPort u p fun y => { y with rxfr := y.rxfr + 1 }
    let good := f.fcsOk = true ∧ 64 ≤ f.bytes.length ∧ f.bytes.length ≤ 9216
    let h := ethHdr f.bytes
    ((portAt s p).link = false → exec (.chainFrameReceive w p f) s = .next (endCmd s u)) ∧
    ((portAt s p).link = true → ¬ good →
      exec (.chainFrameReceive w p f) s = .next (endCmd s (modPort x p fun y => { y with fcs := min 255 (y.fcs + 1) }))) ∧
    ((portAt s p).link = true → good → h.etype = 0x8808 →
      exec (.chainFrameReceive w p f) s = .next (endCmd s (modPort x p fun y => { y with ctrl := min 255 (y.ctrl + 1) }))) ∧
    ((portAt s p).link = true → good → h.etype ≠ 0x8808 → h.etype ≠ 0x88F7 → h.etype ≠ 0x88B5 → isBootData x f.bytes h = false →
      f.bytes.take 6 = stationMac x →
      exec (.chainFrameReceive w p f) s = .next (endCmd s (if vidOk (chainB s) h then ringRx x p f.bytes h f.ts
        else modPort x p fun y => { y with vid := min 255 (y.vid + 1) })))

/-- 15 R394, R397, R398: what goes out on a chain port. A HOLD word keeps its span, and is complete at its end; a SEND word puts its front
buffer's frame on the wire, counts a bad length, sends nothing while the link is down, and is complete when the wire is free again; with no
message picked no frame starts; and a write of CHN_TXTAIL takes up the ring. Completes: `hold`, `send`, `chainFrameTxStart`, `txtailWrite`. -/
def Obligations.ChainTransmit : Prop :=
  ∀ (w : When) (d q : Nat) (ts : Int) (r : Wr) (x : Disp) (s : State),
    let u := advance w s
    (openUnit u d 7 0 0x23 2 = some x → exec (.hold w d) s = .next (endCmd s (doneDispAt u d ((x.slot + x.span) * 256)))) ∧
    (openUnit u d 7 1 0x23 2 = some x →
      let p := x.unit - 0x23
      let fa := regBase (inputsB s) (bits x.payload 59 54)
      let g := fixedGet u x.unit (some x.word) fa 2
      let len := leNat g.2.1
      let f := fixedGet g.1 x.unit (some x.word) (fa + 2) len
      (len < 14 ∨ 9212 < len →
        exec (.send w d) s = .next (endCmd s (sendEnd (modPort g.1 p fun z => { z with badsend := min 255 (z.badsend + 1) }) d p))) ∧
      (14 ≤ len → len ≤ 9212 → (portAt s p).link = true →
        exec (.send w d) s = .next (endCmd s (sendEnd (putWire f.1 p (wireFrame f.2.1)) d p))) ∧
      (14 ≤ len → len ≤ 9212 → (portAt s p).link = false → exec (.send w d) s = .next (endCmd s (sendEnd f.1 d p)))) ∧
    (2 ≤ q → exec (.chainFrameTxStart w q ts) s = .next (endCmd s u)) ∧
    (q < 2 → s.fab.handed = [] → egPick (lget s.fab.eg (4 + q) {}) u.clk.mclk (chnReady u q) = none →
      exec (.chainFrameTxStart w q ts) s = .next (endCmd s u)) ∧
    (∀ k, q < s.chn.ports.length → q < 2 → s.fab.handed = [k] → k.req.dst = 20 + q → canStart u q k.req.flen = true →
      s.fab.tags.contains (k.req.src, k.req.tag) = true →
      ∃ b, exec (.chainFrameTxStart w q ts) s = .next (endCmd s b) ∧ b.fab.handed = [] ∧ (pktJob u k = .none → (portAt b q).wire = k.req.data) ∧
        (portAt b q).txfr = (portAt s q).txfr + 1 ∧ (portAt b q).busyTo = u.clk.mclk + wireTime (portAt b q).wire.length ∧
        (∃ r, b.fab.rsp = s.fab.rsp ++ [r] ∧ r.src = k.req.src ∧ r.tag = k.req.tag ∧ r.status = 0) ∧ b.mem = s.mem) ∧
    (domOn s 11 = true → exec (.txtailWrite w r) s = .next (endCmd s
      (txPump { u with rw := aset s.rw (Base.chn + 0x2C) r.val.toNat })))

/-- 15 R399, R403, R406: the ports' protocols. A Delay_Req goes out once, when it is due and its port can send, and its identity is kept; a new
PTP master discards the delay; BOOTREQ goes out at most once a second while a chain boot lacks bytes, BOOTDONE once; and the links go up and
down. Completes: `delayReqSend`, `ptpMasterWrite`, `bootreq`, `bootdone`, `trefEdge`, `chnLinkUp`, `chnLinkDown`. -/
def Obligations.ChainProtocols : Prop :=
  ∀ (w : When) (ts : Int) (p : Nat) (r : Wr) (s : State),
    let u := advance w s
    (s.chn.ptp.due = false ∨ ptpEn s = false ∨ (portAt s s.chn.ptp.mport).link = false →
      exec (.delayReqSend w ts) s = .next (endCmd s u)) ∧
    (s.chn.ptp.due = true → ptpEn s = true → (portAt s s.chn.ptp.mport).link = true → (portAt s s.chn.ptp.mport).busyTo ≤ u.clk.mclk →
      wireHeld u s.chn.ptp.mport u.clk.cyc (wireTime 64) = false →
      ∃ b, exec (.delayReqSend w ts) s = .next (endCmd s b) ∧ b.chn.ptp.due = false ∧ b.chn.ptp.dseq = (s.chn.ptp.dseq + 1) % 65536 ∧
        b.chn.ptp.dreq = some (s.chn.ptp.dseq, ts - chAsym (chainB s) s.chn.ptp.mport) ∧ b = { u with chn := b.chn }) ∧
    (domOn s 11 = true → ∃ b, exec (.ptpMasterWrite w (Base.chn + 0x38) r) s = .next (endCmd s b) ∧
      rwGet b (Base.chn + 0x38) 0 = r.val.toNat &&& 0x8000FFFF ∧ b.chn.ptp.dvalid = false ∧ b.chn.ptp.d = 0 ∧ b.clk.ptpClr = true ∧
      b.mem = s.mem) ∧
    (s.chn.boot = false ∨ bootComplete s = true ∨ (∃ t, s.chn.reqAt = some t ∧ u.clk.aon < t + 1000000) →
      exec (.bootreq w) s = .next (endCmd s u)) ∧
    (s.chn.boot = true → bootComplete s = false → (∀ t, s.chn.reqAt = some t → t + 1000000 ≤ u.clk.aon) →
      ∃ b, exec (.bootreq w) s = .next (endCmd s b) ∧ b.chn.reqAt = some u.clk.aon ∧ b.fld = s.fld) ∧
    (s.chn.doneDue = none → exec (.bootdone w) s = .next (endCmd s u)) ∧
    (∀ c, s.chn.doneDue = some c → ∃ b, exec (.bootdone w) s = .next (endCmd s b) ∧ b.chn.doneDue = none ∧ b.fld = s.fld) ∧
    ((ownerBall u 0x20).isSome = false ∨ chTrefMode (chainB s) ≠ 2 → exec (.trefEdge w) s = .next (endCmd s u)) ∧
    ((ownerBall u 0x20).isSome = true → chTrefMode (chainB s) = 2 →
      ∃ b, exec (.trefEdge w) s = .next (endCmd s b) ∧ b.clk.trefAt = some u.clk.mclk ∧ b = { u with clk := b.clk } ∧
        (2 < s.clk.meas.length → ∃ e : Int, lget b.clk.meas 2 none = some e ∧ -500000000 ≤ e ∧ e < 500000000)) ∧
    (p < 2 → domOn s (50 + p) = true → domOn s (52 + p) = true → hasSec s Ty.chain 0 = false ∨ chPortEn (chainB s) p = true →
      exec (.chnLinkUp w p) s = .next (endCmd s (modPort u p fun y => { y with link := true }))) ∧
    (2 ≤ p ∨ domOn s (50 + p) = false ∨ domOn s (52 + p) = false → exec (.chnLinkUp w p) s = .next (endCmd s u)) ∧
    exec (.chnLinkDown w p) s = .next (endCmd s (modPort u p fun y =>
      { y with link := false, downs := if y.link then min 65535 (y.downs + 1) else y.downs }))

/-! ### The twin (16) -/

/-- 16 R416, R427, R434, R437, R441, R443, R426: the twin's own events and its control register. 16 R417, R419, R421, R436: what goes out on
the link. A HOLD word keeps its span, and is complete at its end; a BEAT word puts one BEAT on the link with this chip's count, and a DETACH
that waits goes with it; a BUNDLE word sends a lead's bundle and any other state's ACK; the copy to a joiner goes on only in a lead with a copy
under way: its next block is read through port 22 with CLASS 3, and takes its MSEQ when the read is issued (assumption log entry 140).
Completes: `twinLinkUp`, `twinLinkDown`, `leadInChange`, `partnerTimeout`, `joindone`, `detach`, `yield`, `clrfault`, `twnHold`, `beat`,
`bundle`, `twinCopyRead`. -/
def Obligations.TwinCommands : Prop :=
  (∀ (w : When) (level : Bool) (r : Wr) (s : State),
    let u := advance w s
    let v := r.val.toNat
    (domOn s 56 = true → exec (.twinLinkUp w) s = .next (endCmd s { u with twn := { s.twn with up := true } })) ∧
    exec (.twinLinkDown w) s = .next (endCmd s { u with twn := { s.twn with
      up := false, downs := if s.twn.up then min 65535 (s.twn.downs + 1) else s.twn.downs } }) ∧
    exec (.leadInChange w level) s = .next (endCmd s { u with twn := { s.twn with leadIn := level } }) ∧
    exec (.partnerTimeout w) s = .next (endCmd s { u with twn := { s.twn with
      beat := if twBeatTo (twinB s) ≤ s.twn.beatAge then none else s.twn.beat } }) ∧
    (isLead s = true → s.twn.copied = true → s.twn.joinEv = false →
      exec (.joindone w) s = .next (endCmd s (srcEvent { u with twn := { s.twn with joinEv := true } } 0x0E 0 1))) ∧
    (isLead s = false ∨ s.twn.copied = false ∨ s.twn.joinEv = true → exec (.joindone w) s = .next (endCmd s u)) ∧
    (domOn s 56 = true → bitAt v 5 = false →
      let b := { u with
        rw := aset s.rw Base.twn (bits v 3 2 * 4)
        twn := { s.twn with
          pairFault := if bitAt v 4 then false else s.twn.pairFault
          detach := if bits v 31 16 = 0x7A1D ∧ bitAt v 1 ∧ hasTwin s then true else s.twn.detach
          yield_ := if bits v 31 16 = 0x7A1D ∧ bitAt v 0 ∧ isLead s then true else s.twn.yield_ } }
      exec (.detach w r) s = .next (endCmd s b) ∧ exec (.yield w r) s = .next (endCmd s b) ∧ exec (.clrfault w r) s = .next (endCmd s b))) ∧
  (∀ (w : When) (d : Nat) (x : Disp) (s : State),
    let u := advance w s
    let ends := fun (y : State) (c : Nat) =>
      { y with tsq := { y.tsq with disp := lmod y.tsq.disp d fun z => { z with done := true, endAt := c } } }
    (openUnit u d 7 0 0x25 1 = some x → exec (.twnHold w d) s = .next (endCmd s (ends u ((x.slot + x.span) * 256)))) ∧
    (openUnit u d 7 2 0x25 1 = some x →
      let y := { u with twn := { s.twn with
        link := { type := 3, offset := 0, seq := tcReg s, payload := beatPayload u } :: s.twn.link
        txBeat := ((u.clk.cyc, tcReg s) :: s.twn.txBeat).take 2
        detachNow := s.twn.detachNow || s.twn.detach, detach := false } }
      exec (.beat w d) s = .next (endCmd s (ends y (u.clk.cyc + linkTime u y)))) ∧
    (openUnit u d 7 1 0x25 1 = some x → isLead s = false →
      exec (.bundle w d) s = .next (endCmd s (ends (linkPut u (ackFrame u 0 0 0)) ((x.slot + x.span) * 256)))) ∧
    (openUnit u d 7 1 0x25 1 = some x → isLead s = true →
      ∃ b l c, exec (.bundle w d) s = .next (endCmd s b) ∧ b.twn.link = l ++ s.twn.link ∧ (∀ t ∈ l, t.type = 1) ∧
        c ≤ (x.slot + x.span) * 256 ∧ b = ends { u with twn := b.twn } c) ∧
    (isLead s = false ∨ s.twn.copy = none ∨ s.twn.copied = true → exec (.twinCopyRead w) s = .next (endCmd s u)) ∧
    (∀ k off, isLead s = true → s.twn.copied = false → s.twn.copy = some (k, off) → k < (mirrorRegions u).length →
      let base := (lget (mirrorRegions u) k (0, 0)).1
      let len := (lget (mirrorRegions u) k (0, 0)).2
      let n := min 256 (len - off)
      off < len → ∃ f, exec (.twinCopyRead w) s = .next (endCmd s { u with
          twn := { s.twn with mseq := s.twn.mseq + 1, copy := some (if off + n < len then (k, off + n) else (k + 1, 0)) }
          fab := { s.fab with xfers := s.fab.xfers ++ [f] } }) ∧
        f.src = 22 ∧ f.job = .copy (base + off) s.twn.mseq ∧ ∀ q ∈ f.todo, q.req.kind = .read ∧ q.req.cls = 3) ∧
    (∀ k, isLead s = true → s.twn.copied = false → s.twn.copy = some (k, 0) → (mirrorRegions u).length ≤ k → s.twn.redo = none →
      copyReads u = false → exec (.twinCopyRead w) s = .next (endCmd s { u with twn := { s.twn with copied := true } })))

/-- 16 R416, R423, R424, R431, R438, 03 R86: what comes in. A frame that reaches a link that is down or a domain that is off, or that is
damaged, changes nothing; a BUNDLE reaches only a shadow, STATE only a joiner, MIRROR in order only a shadow, a firmware frame each only once.
16 R424, R427, R431, R438, 03 R86: the frames that are taken. Completes: `bundleReceive`, `ackReceive`, `beatReceive`, `mirrorReceive`,
`stateReceive`, `fwReceive`, `bootReceive`. -/
def Obligations.TwinFrames : Prop :=
  (∀ (w : When) (f : TwinFrame) (s : State) (c : Instr),
    let u := advance w s
    c ∈ [Instr.bundleReceive w f, .ackReceive w f, .beatReceive w f, .mirrorReceive w f, .stateReceive w f, .fwReceive w f, .bootReceive w f] →
      (s.twn.up = false ∨ domOn s 56 = false ∨ f.good = false → exec c s = .next (endCmd s u)) ∧
      (c = .bundleReceive w f → isShadow s = false → exec c s = .next (endCmd s u)) ∧
      (c = .mirrorReceive w f → isShadow s = false ∨ f.seq < s.twn.mseq → exec c s = .next (endCmd s u)) ∧
      (c = .stateReceive w f → s.twn.st ≠ 4 → exec c s = .next (endCmd s u)) ∧
      (c = .fwReceive w f → f.seq < s.twn.fack → exec c s = .next (endCmd s u))) ∧
  (∀ (w : When) (f : TwinFrame) (s : State), s.twn.up = true → domOn s 56 = true → f.good = true →
    let u := advance w s
    let p := f.payload
    (isShadow s = true → (shadowRun s = true → s.tsq.tc < f.seq) →
      ∃ b, exec (.bundleReceive w f) s = .next (endCmd s b) ∧ b.twn.rxb = s.twn.rxb ++ [(f.seq, f.offset, p)] ∧ b.mem = s.mem ∧
        b.tsq = s.tsq) ∧
    (hasTwin s = true → ∃ b, exec (.ackReceive w f) s = .next (endCmd s b) ∧ b.twn.ackAge = 0 ∧ b.twn.back = u64 p 0 ∧
      b.twn.mack = u64 p 8 ∧ (∀ t ∈ b.twn.keep, t.type = 4 → u64 p 8 ≤ t.seq) ∧ b.mem = s.mem) ∧
    (hasTwin s = true → ∃ b, exec (.beatReceive w f) s = .next (endCmd s b) ∧ b.twn.beatAge = 0 ∧
      (∃ k, b.twn.beat = some k ∧ k.uid = u64 p 0 ∧ k.st = u8 p 41 ∧ k.seat = u8 p 40 ∧ k.ltc = u64 p 48) ∧
      (b.twn.joinReq = true ↔ s.twn.joinReq = true ∨ bitAt (u8 p 42) 1 = true) ∧ b.mem = s.mem) ∧
    (isShadow s = true → s.twn.mseq < f.seq → s.twn.held = [] →
      ∃ b, exec (.mirrorReceive w f) s = .next (endCmd s b) ∧ b.twn.held = [(f.seq, u64 p 0, p.drop 8)] ∧ b.twn.mseq = s.twn.mseq ∧
        b.mem = s.mem) ∧
    (isShadow s = true → f.seq = s.twn.mseq → s.twn.held = [] → 8 < p.length → 0x10000000 ≤ u64 p 0 →
      u64 p 0 + (p.length - 8) ≤ 0x10400000 → domsOn s (targetDoms s (.sram (u64 p 0 - 0x10000000)) (p.length - 8)) = true →
      ∃ b, exec (.mirrorReceive w f) s = .next (endCmd s b) ∧ b.twn.mseq = s.twn.mseq + 1 ∧ b.twn.held = [] ∧
        (∀ i, i < p.length - 8 → sramByte b (u64 p 0 - 0x10000000 + i) = p.getD (8 + i) 0) ∧
        ∀ a, (a < u64 p 0 - 0x10000000 ∨ u64 p 0 - 0x10000000 + (p.length - 8) ≤ a) → sramByte b a = sramByte s a) ∧
    (s.twn.st = 4 → ∃ b, exec (.stateReceive w f) s = .next (endCmd s b) ∧ b.twn.stage = 2 ∧
      b.twn.rxs = (s.twn.rxs.filter fun x => x.1 == f.seq) ++ [(f.seq, f.offset, p)] ∧ b.mem = s.mem) ∧
    (hasTwin s = true → f.seq = s.twn.fack → (s.twn.rxHead + 2 ^ 32 - rwGet s (Base.twn + 0x64) 0) % 2 ^ 32 < fwRx s →
      ∃ b, exec (.fwReceive w f) s = .next (endCmd s b) ∧ b.twn.fack = f.seq + 1 ∧ b.twn.rxHead = (s.twn.rxHead + 1) % 2 ^ 32) ∧
    (u8 p 0 = 3 → curSource s = some 2 → (p.drop 4).take 8 = uid s →
      exec (.bootReceive w f) s = .next (endCmd s { u with fld := { s.fld with rxCount := some f.seq } })) ∧
    (u8 p 0 = 1 → s.fld.applied = false → exec (.bootReceive w f) s = .next (endCmd s u)))

/-! ### The watchdog and debug (19) -/

/-- 19 R489, R490, R494: the bits of WDG_CTL, which act in the order CLREV, LOADCFG, START, STOP and only with its key from port 0 or 1: START
of a stopped watchdog takes the staged configuration and runs it, STOP stops it, and neither does anything to one that the fuse WDGHW started.
Completes: `start`, `stop`, `loadcfg`, `clrev`. -/
def Obligations.WatchdogControl : Prop :=
  ∀ (w : When) (r : Wr) (s : State), domOn s 8 = true →
    let u := advance w s
    let v := r.val.toNat
    let cfg := (rwGet s (Base.wdg + 0x10) 0xFFFFFFFF, rwGet s (Base.wdg + 0x14) 0, rwGet s (Base.wdg + 0x18) 0)
    let good := 1048576 ≤ cfg.1 ∧ cfg.2.1 < cfg.1 ∧ cfg.2.2 ≤ cfg.1 - cfg.2.1
    let all := [Instr.start w r, .stop w r, .loadcfg w r, .clrev w r]
    (2 ≤ r.src ∨ bits v 31 16 ≠ 0xD06A → ∀ c ∈ all, exec c s = .next (endCmd s u)) ∧
    (r.src < 2 → bits v 31 16 = 0xD06A → bits v 3 0 = 1 → s.wdg.run = false → wdgHw s = false →
      exec (.start w r) s = .next (endCmd s (if good
        then { u with wdg := { u.wdg with timeout := cfg.1, window := cfg.2.1, warn := cfg.2.2, run := true } }
        else { u with wdg := { u.wdg with cfgErr := true, run := true } }))) ∧
    (r.src < 2 → bits v 31 16 = 0xD06A → bits v 3 0 = 2 → exec (.stop w r) s = .next (endCmd s (if wdgHw s then u
      else { u with wdg := { u.wdg with run := false, key := none } }))) ∧
    (r.src < 2 → bits v 31 16 = 0xD06A → bits v 3 0 = 4 → (wdgHw s = true → s.wdg.cfgUsed = false) → good →
      exec (.loadcfg w r) s = .next (endCmd s { u with wdg := { u.wdg with
        timeout := cfg.1, window := cfg.2.1, warn := cfg.2.2, cfgUsed := s.wdg.cfgUsed || wdgHw s } })) ∧
    (r.src < 2 → bits v 31 16 = 0xD06A → bits v 3 0 = 4 → wdgHw s = true → s.wdg.cfgUsed = true →
      exec (.loadcfg w r) s = .next (endCmd s u)) ∧
    (r.src < 2 → bits v 31 16 = 0xD06A → bits v 3 0 = 8 →
      exec (.clrev w r) s = .next (endCmd s { u with wdg := { u.wdg with
        evCount := 0, pcv := false, evCause := 0, evPc := 0, evTc := 0, evCyc := 0, evSvTc := 0, evSv := 0 } }))

/-- 19 R488, R491, R492, R493, R496: keys, warning and bite. The two keys in order within 256 cycles, inside the window, set the count to 0;
the count at TIMEOUT bites where the watchdog runs, CLKLOSS whether it runs or not: the evidence is kept, WDOUT_N is driven and the core is
reset. Completes: `wdgService`, `wdgKeyExpiry`, `wdgWarn`, `wdgTimeout`, `clklossBite`. -/
def Obligations.WatchdogServiceAndBite : Prop :=
  ∀ (w : When) (r : Wr) (pc : Word) (s : State),
    let u := advance w s
    let v := r.val.toNat
    (bootRomRuns s = false → u.wdg.count = (if s.wdg.run = true ∧ s.dbg.hkpHalt = false then s.wdg.count + (if s.clk.on then w.dt else 0) else s.wdg.count)) ∧
    (domOn s 8 = true → r.src ≠ 0 ∨ s.wdg.run = false → exec (.wdgService w r pc) s = .next (endCmd s u)) ∧
    (domOn s 8 = true → r.src = 0 → s.wdg.run = true → u.wdg.key = none → v = 0xC35A →
      exec (.wdgService w r pc) s = .next (endCmd s { u with wdg := { u.wdg with key := some u.clk.mclk } })) ∧
    (∀ t, domOn s 8 = true → r.src = 0 → s.wdg.run = true → u.wdg.key = some t → u.clk.mclk ≤ t + 256 → v = 0x5AC3 →
      s.wdg.window ≤ u.wdg.count → u.wdg.count < s.wdg.timeout →
      exec (.wdgService w r pc) s = .next (endCmd s { u with wdg := { u.wdg with
        count := 0, key := none, svTc := tcReg s, svCyc := u.clk.cyc } })) ∧
    (domOn s 8 = true → r.src = 0 → s.wdg.run = true → u.wdg.key = none → v ≠ 0xC35A →
      ∃ b, exec (.wdgService w r pc) s = .next (endCmd s b) ∧ b.wdg.evCause = 3 ∧ b.wdg.evPc = pc.toNat ∧ b.boot.cause = 2 ∧
        b.saf.dark = true) ∧
    (∀ t, domOn s 8 = true → r.src = 0 → s.wdg.run = true → u.wdg.key = some t → u.clk.mclk ≤ t + 256 → v = 0x5AC3 →
      u.wdg.count < s.wdg.window → u.wdg.count < s.wdg.timeout →
      ∃ b, exec (.wdgService w r pc) s = .next (endCmd s b) ∧ b.wdg.evCause = 2 ∧ b.wdg.evPc = pc.toNat ∧ b.boot.cause = 2 ∧
        b.saf.dark = true) ∧
    (∀ t, u.wdg.key = some t → exec (.wdgKeyExpiry w) s = .next (endCmd s
      (if t + 256 < u.clk.mclk then { u with wdg := { u.wdg with key := none } } else u))) ∧
    (s.wdg.run = true → 0 < s.wdg.warn → s.wdg.timeout - s.wdg.warn ≤ u.wdg.count →
      exec (.wdgWarn w) s = .next (endCmd s { u with wdg := { u.wdg with warned := true } })) ∧
    (s.wdg.run = false → exec (.wdgTimeout w pc) s = .next (endCmd s u)) ∧
    (bitAt s.saf.cond 7 = false → exec (.clklossBite w) s = .next (endCmd s u)) ∧
    (s.wdg.run = true → s.wdg.timeout ≤ u.wdg.count →
      ∃ b, exec (.wdgTimeout w pc) s = .next (endCmd s b) ∧ b.wdg.evCause = 1 ∧ b.wdg.evPc = pc.toNat ∧ b.wdg.pcv = true ∧
        b.wdg.evCount = min 255 (s.wdg.evCount + 1) ∧ b.wdg.outAt = some u.clk.aon ∧ b.boot.cause = 2 ∧ b.boot.step = 5 ∧
        b.saf.dark = true ∧ b.wdg.run = false) ∧
    (bitAt s.saf.cond 7 = true →
      ∃ b, exec (.clklossBite w) s = .next (endCmd s b) ∧ b.wdg.evCause = 4 ∧ b.wdg.pcv = false ∧ b.wdg.evTc = tcReg s ∧ b.wdg.evCyc = 0 ∧
        b.wdg.evSvTc = tcReg s ∧ b.wdg.evSv = 0 ∧ b.wdg.evCount = min 255 (s.wdg.evCount + 1) ∧ b.wdg.outAt = some u.clk.aon ∧
        b.boot.cause = 2 ∧ b.boot.step = 5 ∧ b.saf.dark = true)

/-- 19 R497 to R499, R505, R508, 18 R481: the serial debug port. A bad CRC, a locked part and a word out of range are answered as such and
change nothing; IDENT answers a locked part too; CONNECT powers domain 59; DISCONNECT lets the machine go on; RESET resets the core. 19 R498,
R505: a word of a memory command goes through the fabric from port 1: one read from SRAM is answered with its four bytes, and one written there
lands; on a published buffer or in a mirrored region a forced write lands too, and degrades the tick, and a plain one on a published buffer is
refused (status 3). With the last word's response the port replies: OK with the data, or the first failing status and its word. Completes:
`lineReset`, `ident`, `connect`, `disconnect`, `reset`, `memrd`, `memwr`, `memwrf`, `connectTimeout`. -/
def Obligations.SerialDebug : Prop :=
  (∀ (w : When) (q : SdpReq) (n : Nat) (s : State),
    let u := advance w s
    let said := fun (x : State) (res : Nat) => { x with dbg := { x.dbg with
      reply := leBytes 1 res ++ leBytes 1 0 ++ leBytes 1 0xFF ++ [0] ++ leBytes 4 (crc32 (leBytes 1 res ++ leBytes 1 0 ++ leBytes 1 0xFF ++ [0])) } }
    let mem := [Instr.memrd w q, .memwr w q, .memwrf w q]
    let plain := [Instr.connect w q, .disconnect w q, .reset w q]
    (q.crcOk = false → ∀ c ∈ Instr.ident w q :: (mem ++ plain), exec c s = .next (endCmd s (said u 2))) ∧
    (q.crcOk = true → dbgLock s = true → ∀ c ∈ mem ++ plain, exec c s = .next (endCmd s (said u 4))) ∧
    (q.crcOk = true → dbgLock s = false → q.cnt ≠ 0 ∨ q.arg ≠ 0 → ∀ c ∈ plain, exec c s = .next (endCmd s (said u 3))) ∧
    (q.crcOk = true → dbgLock s = false → q.cnt = 0 ∨ 64 < q.cnt ∨ q.arg % 4 ≠ 0 ∨ 2 ^ 36 ≤ q.arg →
      ∀ c ∈ mem, exec c s = .next (endCmd s (said u 3))) ∧
    (q.crcOk = true → dbgLock s = false → 1 ≤ q.cnt → q.cnt ≤ 64 → q.arg % 4 = 0 → q.arg < 2 ^ 36 → domOn s 59 = false →
      ∀ c ∈ mem, exec c s = .next (endCmd s (said u 5))) ∧
    (q.crcOk = true → q.cnt = 0 → q.arg = 0 → ∃ b, exec (.ident w q) s = .next (endCmd s b) ∧ b = { u with dbg := { s.dbg with reply := b.dbg.reply } } ∧
      b.dbg.reply.length = 24 ∧ b.dbg.reply.take 1 = [1]) ∧
    (q.crcOk = true → dbgLock s = false → q.cnt = 0 → q.arg = 0 → domOn s 59 = true → (hasSec s Ty.domains 0 = true → bitAt (domUsed s) 59 = true) →
      s.pwr.deep = false → 59 < s.pwr.doms.length →
      ∃ b, exec (.connect w q) s = .next (endCmd s b) ∧ b.dbg.conn = true ∧ b.dbg.connWait = false ∧ b = { u with dbg := b.dbg, pwr := b.pwr }) ∧
    (q.crcOk = true → dbgLock s = false → q.cnt = 0 → q.arg = 0 →
      (∃ b, exec (.disconnect w q) s = .next (endCmd s b) ∧ b.dbg.conn = false ∧ b.dbg.hkpHalt = false ∧ b.dbg.halted = false ∧
        b.dbg.pend = false ∧ b.mem = s.mem ∧ b.saf = s.saf) ∧
      (∃ b, exec (.reset w q) s = .next (endCmd s b) ∧ b.boot.cause = 3 ∧ b.boot.step = 5 ∧ b.saf.dark = true)) ∧
    exec (.lineReset w n) s = .next (endCmd s
      (if 64 ≤ n then { u with dbg := { s.dbg with conn := false, connWait := false } } else u)) ∧
    exec (.connectTimeout w) s = .next (endCmd s
      (if s.dbg.connWait then { said u 5 with dbg := { (said u 5).dbg with connWait := false } } else u))) ∧
  (∀ (w : When) (q : SdpReq) (s : State), q.crcOk = true → dbgLock s = false → q.cnt = 1 → q.arg % 4 = 0 → 0x10000000 ≤ q.arg →
    q.arg + 4 ≤ 0x10800000 → domOn s 59 = true → domOn s (sramDom (q.arg - 0x10000000)) = true →
    let u := advance w s
    let off := q.arg - 0x10000000
    let word := leBytes 4 (q.data.getD 0 0).toNat
    let answered := fun (t : State) (status : Nat) (data : List Byte) => ∃ r, t.fab.rsp = s.fab.rsp ++ [r] ∧ r.src = 1 ∧ r.status = status ∧
      r.data = data ∧ t.dbg.mem.isSome = true ∧ t.dbg.reply = s.dbg.reply
    FabricCalm u → mayIssue u 1 = true → (∀ k, s.fab.tags.contains (1, k) = false) →
      (∃ t, exec (.memrd w q) s = .next t ∧ answered t 0 (readRun (sramByte s) off 4) ∧ t.mem = s.mem ∧ t.tsq = s.tsq) ∧
      (publishedIn s q.arg 4 = false → ∃ t, exec (.memwr w q) s = .next t ∧ answered t 0 [] ∧
        (∀ i, i < 4 → sramByte t (off + i) = word.getD i 0) ∧
        (∀ a, (a < off ∨ off + 4 ≤ a) → sramByte t a = sramByte s a) ∧ t.tsq = s.tsq) ∧
      (publishedIn s q.arg 4 = true → ∃ t, exec (.memwr w q) s = .next t ∧ answered t 3 [] ∧ t.mem = s.mem ∧ t.tsq = s.tsq) ∧
      (publishedIn s q.arg 4 = true ∨ inExtraMirror s q.arg 4 = true → ∃ t, exec (.memwrf w q) s = .next t ∧ answered t 0 [] ∧
        bitAt t.tsq.degr 4 = true ∧ ∀ i, i < 4 → sramByte t (off + i) = word.getD i 0) ∧
      (publishedIn s q.arg 4 = false → inExtraMirror s q.arg 4 = false → ∃ t, exec (.memwrf w q) s = .next t ∧ answered t 0 [] ∧ t.tsq = s.tsq ∧
        ∀ i, i < 4 → sramByte t (off + i) = word.getD i 0)) ∧
  (∀ (s : State) (x : Xfer) (m : SdpMem), x.job = .sdp → s.dbg.mem = some m → m.i + 1 = m.cnt → m.bad = none →
    let st := (x.inOrder.head?.map fun y => y.2.1).getD 0
    let head := leBytes 1 (if st = 0 then 1 else 6) ++ leBytes 1 st ++ leBytes 1 (if st = 0 then 0xFF else m.i) ++ [0]
    let body := head ++ (m.got ++ x.data)
    jobDone s x = { s with dbg := { s.dbg with mem := none, reply := body ++ leBytes 4 (crc32 body) } })

/-- 19 R500 to R504: DBG_CMD and the breakpoints. Only port 1 commands the block. A halt of the HKP shows its registers; a halt of the
sequencer fires DEBUGHALT and waits for the boundary; a step of the halted sequencer fires it too. Completes: `hkphalt`, `hkprun`, `hkpstep`,
`pcBreakpoint`, `tsqhalt`, `tsqrun`, `tstep`, `tickSlotBreakpoint`, `hkpStepEnd`. -/
def Obligations.DebugCommands : Prop :=
  ∀ (w : When) (r : Wr) (h : HkpView) (s : State), domOn s 59 = true →
    let u := advance w s
    let v := r.val.toNat
    let all := [Instr.hkphalt w r h, .hkprun w r, .hkpstep w r, .tsqhalt w r, .tsqrun w r, .tstep w r]
    let stopped := fun (k : Nat) => { u with dbg := { s.dbg with hkpHalt := true, hkpStep := 0, cause := k, hkp := hkpView h } }
    (r.src ≠ 1 → ∀ c ∈ all, exec c s = .next (endCmd s u)) ∧
    (r.src = 1 → bits v 3 0 = 1 → exec (.hkphalt w r h) s = .next (endCmd s (if s.dbg.hkpHalt then u else stopped 1))) ∧
    (r.src = 1 → bits v 3 0 = 2 → exec (.hkprun w r) s = .next (endCmd s { u with dbg := { s.dbg with hkpHalt := false, hkpStep := 0 } })) ∧
    (r.src = 1 → bits v 3 0 = 3 → exec (.hkpstep w r) s = .next (endCmd s (if s.dbg.hkpHalt ∧ 0 < bits v 31 16
      then { u with dbg := { s.dbg with hkpHalt := false, hkpStep := bits v 31 16 } } else u))) ∧
    (r.src = 1 → bits v 3 0 = 4 → ∃ b, exec (.tsqhalt w r) s = .next (endCmd s b) ∧ b.saf.dark = true ∧
      lget b.saf.cnt 8 0 = lget (lmod s.saf.cnt 8 sat32) 8 0 ∧ (b.dbg.pend = true ∨ b.dbg.halted = true) ∧
      (s.dbg.pend = false → s.dbg.halted = false → b.dbg.cause = 1)) ∧
    (r.src = 1 → bits v 3 0 = 5 → exec (.tsqrun w r) s = .next (endCmd s
      { u with dbg := { s.dbg with halted := false, pend := false, left := 0, stepping := false } })) ∧
    (r.src = 1 → bits v 3 0 = 6 → s.dbg.halted = true → 0 < bits v 31 16 →
      ∃ b, exec (.tstep w r) s = .next (endCmd s b) ∧ b.dbg = { s.dbg with left := bits v 31 16 } ∧ b.saf.dark = true) ∧
    (r.src = 1 → bits v 3 0 = 6 → s.dbg.halted = false ∨ bits v 31 16 = 0 → exec (.tstep w r) s = .next (endCmd s u)) ∧
    (s.dbg.hkpHalt = false → bpMatch s h.pc.toNat = true → exec (.pcBreakpoint w h) s = .next (endCmd s (stopped 2))) ∧
    (bpMatch s h.pc.toNat = false ∨ s.dbg.hkpHalt = true → exec (.pcBreakpoint w h) s = .next (endCmd s u)) ∧
    exec (.hkpStepEnd w h) s = .next (endCmd s (if s.dbg.hkpStep = 0 then u else stopped 4)) ∧
    (s.clk.on = true → bpSlotHit u = true → s.dbg.pend = false → s.dbg.halted = false →
      ∃ b, exec (.tickSlotBreakpoint w) s = .next (endCmd s b) ∧ b.dbg = { s.dbg with pend := true, cause := 3 } ∧ b.saf.dark = true) ∧
    (s.clk.on = false ∨ bpSlotHit u = false → exec (.tickSlotBreakpoint w) s = .next (endCmd s u))

/-- 19 R509: the boundary-scan port. An instruction is loaded; EXTEST takes effect only on an unlocked part with BENCH_N low, and resets the
core; a reset of the port selects IDCODE and ends EXTEST. 00 R1: the 32-bit data register that IDCODE selects holds 0x32460A5D. Completes:
`tapReset`, `tapInstruction`. -/
def Obligations.BoundaryScan : Prop :=
  ∀ (w : When) (ir : BitVec 4) (s : State),
    let u := advance w s
    let ext := ir = 0 ∧ benchLow s = true ∧ dbgLock s = false
    exec (.tapReset w) s = .next (endCmd s { u with tap := {} }) ∧ tapData s 1 = some (32, 0x32460A5D) ∧
    (¬ ext → exec (.tapInstruction w ir) s = .next (endCmd s { u with tap := { s.tap with ir := ir, extest := false } })) ∧
    (ext → s.tap.extest = true → exec (.tapInstruction w ir) s = .next (endCmd s { u with tap := { s.tap with ir := ir, extest := true } })) ∧
    (ext → s.tap.extest = false → ∃ b, exec (.tapInstruction w ir) s = .next (endCmd s b) ∧ b.tap = { ir := ir, extest := true } ∧
      b.boot.cause = 3 ∧ b.boot.step = 5 ∧ b.saf.dark = true ∧ b.fld.applied = false)
end

