-- ==== Sys2Proof/Laws/Enables.lean ====
section
/-! SUPPORT. What follows every command at once: the enables that Aperture drives, the pins' events they make, and the end of a command. -/

namespace Sys2Proof.Machine

/-! ### Lists and bits -/

theorem lget_lmod {α : Type} (l : List α) (i j : Nat) (f : α → α) (d : α) :
    lget (lmod l i f) j d = if i = j ∧ j < l.length then f (lget l j d) else lget l j d := by
  induction l generalizing i j with
  | nil => simp [lmod, lget]
  | cons a r ih =>
    cases i with
    | zero => cases j <;> simp [lmod, lget]
    | succ i =>
      cases j with
      | zero => simp [lmod, lget]
      | succ j => simpa [lmod, lget] using ih i j

theorem lget_lmod_same {α : Type} (l : List α) (i : Nat) (f : α → α) (d : α) (h : i < l.length) :
    lget (lmod l i f) i d = f (lget l i d) := by
  rw [lget_lmod]; simp [h]

theorem lget_lmod_other {α : Type} (l : List α) (i j : Nat) (f : α → α) (d : α) (h : i ≠ j) :
    lget (lmod l i f) j d = lget l j d := by
  rw [lget_lmod]; simp [h]

theorem bitAt_setBit (v i j : Nat) (b : Bool) : bitAt (setBit v i b) j = if i = j then b else bitAt v j := by
  unfold bitAt setBit
  cases b with
  | true =>
    simp only [if_true, Nat.testBit_or, Nat.testBit_two_pow]
    by_cases h : i = j <;> simp [h]
  | false =>
    by_cases hv : v.testBit i
    · rw [if_neg (by decide), if_pos hv]
      simp only [Nat.testBit_xor, Nat.testBit_two_pow]
      by_cases h : i = j
      · subst h; simp [hv]
      · simp [h]
    · rw [if_neg (by decide), if_neg hv]
      by_cases h : i = j
      · subst h; simpa using hv
      · simp [h]

/-! ### The enables (14 R370) -/

/-- All that a stamped event changes: the guard's queue and the inputs' own counts. -/
theorem srcEvent_pins (s : State) (src arg : Nat) (v : Int) :
    ∃ q l, srcEvent s src arg v = { s with pins := { s.pins with evq := q, ins := l } } := by
  unfold srcEvent stampEv stampEvAt modIn
  split
  · dsimp only
    split <;> exact ⟨_, _, rfl⟩
  · exact ⟨_, _, rfl⟩

/-- All that driving one enable changes. -/
theorem lenDrive_eq (s : State) (n : Nat) :
    ∃ ca l q i, lenDrive s n =
      { s with
        saf := { s.saf with drive := setBit s.saf.drive n (lenLevel s n).1,
                            clear := setBit s.saf.clear n ((lenLevel s n).1 && (lenLevel s n).2),
                            clearAt := ca }
        lse := { s.lse with lenEv := l }
        pins := { s.pins with evq := q, ins := i } } := by
  unfold lenDrive
  dsimp only
  split
  · exact ⟨_, _, _, _, rfl⟩
  · obtain ⟨q, l, h⟩ := srcEvent_pins
      { s with
        saf := { s.saf with drive := setBit s.saf.drive n (lenLevel s n).1,
                            clear := setBit s.saf.clear n ((lenLevel s n).1 && (lenLevel s n).2),
                            clearAt := if bitAt s.saf.clear n && !((lenLevel s n).1 && (lenLevel s n).2) then
                              lmod s.saf.clearAt n fun _ => some s.clk.aclk else s.saf.clearAt }
        lse := { s.lse with lenEv := s.lse.lenEv ++ [(n, s.clk.cyc, (lenLevel s n).1)] } } 0x09 n (b2n (lenLevel s n).1)
    exact ⟨_, _, _, _, h⟩

/-- No level that Aperture computes rests on what it drives. -/
theorem lenDrive_level (s : State) (n m : Nat) : lenLevel (lenDrive s n) m = lenLevel s m := by
  obtain ⟨ca, l, q, i, h⟩ := lenDrive_eq s n
  rw [h]
  rfl

/-- After the enables of a list are driven: those stand at their levels, the others as they were, and no level has changed. -/
theorem lenDrive_fold (ns : List Nat) (s : State) :
    (∀ m, lenLevel (ns.foldl lenDrive s) m = lenLevel s m) ∧
    ∀ m, bitAt (ns.foldl lenDrive s).saf.drive m = if m ∈ ns then (lenLevel s m).1 else bitAt s.saf.drive m := by
  induction ns generalizing s with
  | nil => simp
  | cons n r ih =>
    obtain ⟨h1, h2⟩ := ih (lenDrive s n)
    refine ⟨fun m => (h1 m).trans (lenDrive_level s n m), fun m => ?_⟩
    rw [List.foldl_cons, h2 m, lenDrive_level]
    obtain ⟨ca, l, q, i, h⟩ := lenDrive_eq s n
    rw [h, bitAt_setBit]
    by_cases hm : m ∈ r
    · simp [hm]
    · by_cases hn : n = m
      · subst hn; simp
      · have hn' : m ≠ n := fun h => hn h.symm
        simp [hm, hn, hn']

/-- The zones noted as lit: no level rests on them. -/
theorem lit_level (s : State) (e : Nat) (f : List (Nat × Nat) → List (Nat × Nat)) (m : Nat) :
    lenLevel (modSafEng s e fun x => { x with lit := f x.lit }) m = lenLevel s m := by
  have h (j : Nat) : ∃ l, safEng (modSafEng s e fun x => { x with lit := f x.lit }) j = { safEng s j with lit := l } := by
    unfold safEng modSafEng
    dsimp only
    rw [lget_lmod]
    split
    · exact ⟨_, rfl⟩
    · exact ⟨_, rfl⟩
  obtain ⟨l, hl⟩ := h (m / 4)
  have hfresh : mapFresh (modSafEng s e fun x => { x with lit := f x.lit }) (m / 4) = mapFresh s (m / 4) := by
    unfold mapFresh
    rw [hl]
    rfl
  have hz : clearZones (modSafEng s e fun x => { x with lit := f x.lit }) (m / 4) = clearZones s (m / 4) := by
    unfold clearZones
    rw [hfresh, hl]
  have hrow : beamRow (modSafEng s e fun x => { x with lit := f x.lit }) (m / 4) = beamRow s (m / 4) := by
    unfold beamRow
    rw [hl]
    rfl
  have hzone (t : Nat) : zoneAt (modSafEng s e fun x => { x with lit := f x.lit }) (m / 4) t = zoneAt s (m / 4) t := by
    unfold zoneAt
    rw [hl, hrow]
    rfl
  have hscan : scanClear (modSafEng s e fun x => { x with lit := f x.lit }) (m / 4) = scanClear s (m / 4) := by
    unfold scanClear
    rw [hl, hz]
    simp only [hzone]
    rfl
  unfold lenLevel
  dsimp only
  rw [hl]
  unfold engClear
  rw [hscan, hz]
  rfl

theorem lit_fold (es : List Nat) (s : State) :
    (∀ m, lenLevel (es.foldl noteLit s) m = lenLevel s m) ∧ (es.foldl noteLit s).saf.drive = s.saf.drive := by
  induction es generalizing s with
  | nil => exact ⟨fun _ => rfl, rfl⟩
  | cons e r ih =>
    obtain ⟨h1, h2⟩ := ih (noteLit s e)
    refine ⟨fun m => (h1 m).trans ?_, h2.trans rfl⟩
    unfold noteLit
    exact lit_level s e (fun l => (litNow s e).foldl (fun m z => aset m z s.saf.ltc) l) m

/-- 14 R370: after the enables are driven each one stands at its level, whatever the state before. -/
theorem lenStep_level (s : State) (n : Nat) (hn : n < 16) : bitAt (lenStep s).saf.drive n = (lenLevel (lenStep s) n).1 := by
  obtain ⟨h1, h2⟩ := lenDrive_fold (List.range 16) s
  obtain ⟨h3, h4⟩ := lit_fold (List.range 4) ((List.range 16).foldl lenDrive s)
  unfold lenStep
  rw [h4, h3, h1, h2]
  simp [hn]

end Sys2Proof.Machine
end

