-- ==== Sys2Proof/Laws/Aperture.lean ====
section
/-! SUPPORT. What Aperture's park, triggers and resets do to the rest of the machine (10 R285, 14 R378 to R384, 18 R481). -/

namespace Sys2Proof.Machine

/-- An engine without what the park changes. -/
def unparked (x : SafEng) : SafEng := { x with park := false }

theorem lmod_map {α β : Type} (l : List α) (i : Nat) (f : α → α) (g : α → β) (h : ∀ x, g (f x) = g x) : (lmod l i f).map g = l.map g := by
  induction l generalizing i with
  | nil => rfl
  | cons a r ih => cases i <;> simp [lmod, h, ih]

/-- What holds before a fold and is kept by each of its steps holds after it. -/
theorem foldl_keep {α σ : Type} (p : σ → Prop) (f : σ → α → σ) (hf : ∀ x a, p x → p (f x a)) (l : List α) {x : σ} (h : p x) :
    p (l.foldl f x) := by
  induction l generalizing x with
  | nil => exact h
  | cons a r ih => exact ih (hf x a h)

/-- Parking the loops of an engine changes the servo state only. -/
theorem parkLoops_eq (e : Nat) (level : Bool) (ls : List Nat) (s : State) :
    ∃ sv, ls.foldl (parkLoop e level) s = { s with srv := sv } := by
  refine foldl_keep (fun x => ∃ sv, x = { s with srv := sv }) _ ?_ ls ⟨s.srv, rfl⟩
  rintro x l ⟨sv, rfl⟩
  unfold parkLoop
  dsimp only
  split_ifs
  · split
    · split_ifs <;> exact ⟨_, rfl⟩
    · exact ⟨_, rfl⟩
  all_goals exact ⟨_, rfl⟩

/-- 10 R285: a change of park changes the engine's park level, the servo state and the input events. -/
theorem parkChange_eq (s : State) (e : Nat) (level : Bool) :
    ∃ eg sv q i, parkChange s e level = { s with
      saf := { s.saf with eng := eg }, srv := sv, pins := { s.pins with evq := q, ins := i } } ∧
      eg.map unparked = s.saf.eng.map unparked := by
  unfold parkChange
  split
  · exact ⟨_, _, _, _, rfl, rfl⟩
  · dsimp only
    obtain ⟨q, i, h⟩ := srcEvent_pins { s with
      saf := { s.saf with eng := lmod s.saf.eng e fun x => { x with park := level } }
      srv := { s.srv with parkEv := s.srv.parkEv ++ [(e, s.clk.cyc, level)] } } 0x0B e (b2n level)
    rw [h]
    obtain ⟨sv, h'⟩ := parkLoops_eq e level (List.range 16) _
    rw [h']
    exact ⟨_, _, _, _, rfl, lmod_map _ _ _ _ fun _ => rfl⟩

theorem parkAll_eq (s : State) (level : Bool) :
    ∃ eg sv q i, parkAll s level = { s with
      saf := { s.saf with eng := eg }, srv := sv, pins := { s.pins with evq := q, ins := i } } ∧
      eg.map unparked = s.saf.eng.map unparked := by
  unfold parkAll
  refine foldl_keep (fun x => ∃ eg sv q i, x = ({ s with
    saf := { s.saf with eng := eg }, srv := sv, pins := { s.pins with evq := q, ins := i } } : State) ∧
      eg.map unparked = s.saf.eng.map unparked) _ ?_ _ ⟨s.saf.eng, s.srv, s.pins.evq, s.pins.ins, rfl, rfl⟩
  rintro x e ⟨eg, sv, q, i, rfl, hm⟩
  dsimp only
  split
  · obtain ⟨eg', sv', q', i', h, hm'⟩ := parkChange_eq
      { s with saf := { s.saf with eng := eg }, srv := sv, pins := { s.pins with evq := q, ins := i } } e level
    exact ⟨eg', sv', q', i', h, hm'.trans hm⟩
  · exact ⟨_, _, _, _, rfl, hm⟩

theorem unparked_all {l m : List SafEng} (h : l.map unparked = m.map unparked) (p : SafEng → Prop)
    (hp : ∀ x, p (unparked x) ↔ p x) (hm : ∀ x ∈ m, p x) : ∀ x ∈ l, p x := by
  intro x hx
  have : unparked x ∈ m.map unparked := h ▸ List.mem_map_of_mem hx
  obtain ⟨y, hy, hxy⟩ := List.mem_map.mp this
  exact (hp x).mp (hxy ▸ (hp y).mpr (hm y hy))

/-- 14 R378 to R384: everything a trigger does. -/
theorem fire_eq (s : State) (code tcode chan zone : Nat) :
    ∃ l eg sv q i, fire s code tcode chan zone = { s with
        saf := { s.saf with
          log := (l :: s.saf.log).take 16, logTotal := (s.saf.logTotal + 1) % 2 ^ 32
          cause := if s.saf.dark then s.saf.cause else code
          dark := true, cnt := lmod s.saf.cnt code sat32, lastTrig := some s.clk.aclk, eng := eg }
        srv := sv
        pins := { s.pins with evq := q, ins := i } } ∧
      (∀ x ∈ eg, x.qual = false ∧ x.good = 0) ∧ l.code = code ∧ l.tcode = tcode ∧ l.aclk = s.clk.aclk ∧ l.wasdark = s.saf.dark := by
  unfold fire
  obtain ⟨eg, sv, q, i, h, hm⟩ := parkAll_eq (unqualify (let s := safLog s code tcode chan zone
    { s with saf := { s.saf with
      cause := if s.saf.dark then s.saf.cause else code
      dark := true, cnt := lmod s.saf.cnt code sat32, lastTrig := some s.clk.aclk } })) true
  refine ⟨_, eg, sv, q, i, h, ?_, rfl, rfl, rfl, rfl⟩
  refine unparked_all hm (fun x => x.qual = false ∧ x.good = 0) (fun x => Iff.rfl) ?_
  intro x hx
  obtain ⟨y, _, rfl⟩ := List.mem_map.mp hx
  exact ⟨rfl, rfl⟩

/-- 14 Table 14-3, 18 R481: what a reset of the core does to Aperture, which goes on. -/
theorem coreReset_eq (s : State) :
    ∃ sa sv p, coreReset s = { s with saf := sa, srv := sv, pins := p } ∧ sa.dark = true ∧ sa.ena = s.saf.ena ∧
      sa.cnt = lmod s.saf.cnt 9 sat32 ∧ sa.lastTrig = some s.clk.aclk ∧ sa.cause = (if s.saf.dark then s.saf.cause else 9) := by
  unfold coreReset mapsDrop
  obtain ⟨l, eg, sv, q, i, h, -⟩ := fire_eq s 9 0 0 0
  rw [h]
  exact ⟨_, _, _, rfl, rfl, rfl, rfl, rfl, rfl⟩

end Sys2Proof.Machine
end

