-- ==== Sys2Proof/Laws/Commands.lean ====
section
/-! SUPPORT. What every command can do: each answers a next state with the queue as it was; how a register write reaches its register; and
when a dispatch acts. -/

namespace Sys2Proof.Machine

/-- Every command answers a next state: its own effect and what follows at once. -/
theorem exec_ends (c : Instr) (s : State) : ∃ b, exec c s = .next (endCmd s b) := by
  cases c <;> exact ⟨_, rfl⟩

/-- A command that answers has ended. -/
theorem exec_next {c : Instr} {s t : State} (h : exec c s = .next t) : ∃ b, t = endCmd s b := by
  obtain ⟨b, hb⟩ := exec_ends c s
  rw [hb] at h
  exact ⟨b, by injection h with h; exact h.symm⟩

theorem endCmd_pending (s b : State) : (endCmd s b).pending = s.pending := rfl

/-! ### Domains -/

theorem lget_map {α β : Type} (f : α → β) (l : List α) (i : Nat) (d : β) (d' : α) (h : f d' = d) :
    lget (l.map f) i d = f (lget l i d') := by
  induction l generalizing i with
  | nil => simp [lget, h]
  | cons a r ih => cases i with
    | zero => simp [lget]
    | succ i => simpa [lget] using ih i

/-- The passing of time moves no domain into or out of being fully on. -/
theorem advance_domOn (w : When) (s : State) (d : Nat) : domOn (advance w s) d = domOn s d := by
  have h : domAt (advance w s) d = domTime (advance w s).clk.mclk (domAt s d) := lget_map _ _ _ _ _ rfl
  unfold domOn
  rw [h]
  unfold domTime
  split
  · rename_i hf; simp [hf.1]
  · rfl

/-! ### Register writes -/

/-- An aligned word of the register windows decodes to its register (00 R7). -/
theorem decodeFa_reg (s : State) (a : Nat) (h1 : 0x40000000 ≤ a) (h2 : a < 0x40100000) (h3 : a % 0x10000 + 4 ≤ 0x10000) :
    decodeFa s a 4 = .reg a := by
  unfold decodeFa
  simp only [Bool.and_eq_true, decide_eq_true_eq, Nat.zero_add]
  rw [if_neg (by omega), if_neg (by omega), if_neg (by omega), if_neg (by omega), if_neg (by omega), if_neg (by omega), if_pos (by omega)]

/-- A register write reaches its register where the domain that serves it is fully on, and else changes nothing (00 R8). -/
theorem writeReg_eq (a : Nat) (r : Wr) (o : Outside) (s : State) (h1 : 0x40000000 ≤ a) (h2 : a < 0x40100000)
    (h3 : a % 0x10000 + 4 ≤ 0x10000) (h4 : a % 4 = 0) :
    writeReg a r o s = if domOn s (regDom a) then (regWriteWith s r.src a r.val.toNat o).1 else s := by
  unfold writeReg
  rw [decodeFa_reg s a h1 h2 h3]
  simp [h4, targetDoms, domsOn]

/-- A write that neither stages a high word nor applies one. -/
theorem regWriteWith_plain (s : State) (src a v : Nat) (o : Outside) (h1 : mayWrite src a = true) (h2 : isWideHigh a = false)
    (h3 : widePair a = none) : regWriteWith s src a v o = regWriteRaw s src a v o := by
  unfold regWriteWith
  rw [h1, h2, h3]
  rfl

/-- What such a write does, at a command: the register's own effect, where the domain that serves it is fully on. -/
theorem writeReg_plain (w : When) (a : Nat) (r : Wr) (o : Outside) (s : State) (d : Nat) (hd : domOn s d = true)
    (h1 : 0x40000000 ≤ a) (h2 : a < 0x40100000) (h3 : a % 0x10000 + 4 ≤ 0x10000) (h4 : a % 4 = 0) (h5 : regDom a = d)
    (h6 : mayWrite r.src a = true) (h7 : isWideHigh a = false) (h8 : widePair a = none) :
    writeReg a r o (advance w s) = (regWriteRaw (advance w s) r.src a r.val.toNat o).1 := by
  rw [writeReg_eq a r o _ h1 h2 h3 h4, advance_domOn, h5, hd, if_pos rfl, regWriteWith_plain _ _ _ _ _ h6 h7 h8]

/-! ### The write of each block's registers -/

theorem regWriteRaw_sys (s : State) (src off v : Nat) (o : Outside) (h : off < 0x10000) :
    regWriteRaw s src (Base.sys + off) v o = (sysWrite s off v, 0) := by
  have h1 : blkOf (Base.sys + off) = 0 := by unfold blkOf Base.sys; omega
  have h2 : (Base.sys + off) % 0x10000 = off := by unfold Base.sys; omega
  unfold regWriteRaw
  rw [h1, h2]
  rfl

theorem regWriteRaw_tsq (s : State) (src off v : Nat) (o : Outside) (h : off < 0x10000) :
    regWriteRaw s src (Base.tsq + off) v o = tsqWrite s src off v := by
  have h1 : blkOf (Base.tsq + off) = 2 := by unfold blkOf Base.tsq; omega
  have h2 : (Base.tsq + off) % 0x10000 = off := by unfold Base.tsq; omega
  unfold regWriteRaw
  rw [h1, h2]
  rfl

theorem regWriteRaw_dmc (s : State) (src off v : Nat) (o : Outside) (h : off < 0x10000) :
    regWriteRaw s src (Base.dmc + off) v o = (if off = 4 then rwStore s (Base.dmc + off) v else dmcWrite s off v, 0) := by
  have h1 : blkOf (Base.dmc + off) = 4 := by unfold blkOf Base.dmc; omega
  have h2 : (Base.dmc + off) % 0x10000 = off := by unfold Base.dmc; omega
  unfold regWriteRaw
  rw [h1, h2]
  rfl

theorem regWriteRaw_fab (s : State) (src off v : Nat) (o : Outside) (h : off < 0x10000) :
    regWriteRaw s src (Base.fab + off) v o = (if off = 8 ∨ (0x80 ≤ off ∧ off < 0xC0) then rwStore s (Base.fab + off) v else fabWrite s off v, 0) := by
  have h1 : blkOf (Base.fab + off) = 3 := by unfold blkOf Base.fab; omega
  have h2 : (Base.fab + off) % 0x10000 = off := by unfold Base.fab; omega
  unfold regWriteRaw
  rw [h1, h2]
  rfl

theorem regWriteRaw_pso (s : State) (src off v : Nat) (o : Outside) (h : off < 0x10000) :
    regWriteRaw s src (Base.pso + off) v o = (psoWrite (snapCtlWrite s (Base.pso + off) 5 v) off v, 0) := by
  have h1 : blkOf (Base.pso + off) = 5 := by unfold blkOf Base.pso; omega
  have h2 : (Base.pso + off) % 0x10000 = off := by unfold Base.pso; omega
  unfold regWriteRaw
  rw [h1, h2]
  rfl

theorem regWriteRaw_lse (s : State) (src off v : Nat) (o : Outside) (h : off < 0x10000) :
    regWriteRaw s src (Base.lse + off) v o = (lseWrite s off v, 0) := by
  have h1 : blkOf (Base.lse + off) = 6 := by unfold blkOf Base.lse; omega
  have h2 : (Base.lse + off) % 0x10000 = off := by unfold Base.lse; omega
  unfold regWriteRaw
  rw [h1, h2]
  rfl

theorem regWriteRaw_chn (s : State) (src off v : Nat) (o : Outside) (h : off < 0x10000) :
    regWriteRaw s src (Base.chn + off) v o = (chnWrite s off v, 0) := by
  have h1 : blkOf (Base.chn + off) = 9 := by unfold blkOf Base.chn; omega
  have h2 : (Base.chn + off) % 0x10000 = off := by unfold Base.chn; omega
  unfold regWriteRaw
  rw [h1, h2]
  rfl

theorem regWriteRaw_twn (s : State) (src off v : Nat) (o : Outside) (h : off < 0x10000) :
    regWriteRaw s src (Base.twn + off) v o = (twnWrite s off v, 0) := by
  have h1 : blkOf (Base.twn + off) = 10 := by unfold blkOf Base.twn; omega
  have h2 : (Base.twn + off) % 0x10000 = off := by unfold Base.twn; omega
  unfold regWriteRaw
  rw [h1, h2]
  rfl

theorem regWriteRaw_cal (s : State) (src off v : Nat) (o : Outside) (h : off < 0x10000) :
    regWriteRaw s src (Base.cal + off) v o = (calWrite s off v, 0) := by
  have h1 : blkOf (Base.cal + off) = 11 := by unfold blkOf Base.cal; omega
  have h2 : (Base.cal + off) % 0x10000 = off := by unfold Base.cal; omega
  unfold regWriteRaw
  rw [h1, h2]
  rfl

theorem regWriteRaw_saf (s : State) (src off v : Nat) (o : Outside) (h : off < 0x10000) :
    regWriteRaw s src (Base.saf + off) v o = (safWrite s off v o.lat, 0) := by
  have h1 : blkOf (Base.saf + off) = 12 := by unfold blkOf Base.saf; omega
  have h2 : (Base.saf + off) % 0x10000 = off := by unfold Base.saf; omega
  unfold regWriteRaw
  rw [h1, h2]
  rfl

theorem regWriteRaw_wdg (s : State) (src off v : Nat) (o : Outside) (h : off < 0x10000) :
    regWriteRaw s src (Base.wdg + off) v o = wdgWrite s src off v o.pc := by
  have h1 : blkOf (Base.wdg + off) = 13 := by unfold blkOf Base.wdg; omega
  have h2 : (Base.wdg + off) % 0x10000 = off := by unfold Base.wdg; omega
  unfold regWriteRaw
  rw [h1, h2]
  rfl

theorem regWriteRaw_dbg (s : State) (src off v : Nat) (o : Outside) (h : off < 0x10000) :
    regWriteRaw s src (Base.dbg + off) v o = dbgWrite s src off v o.view := by
  have h1 : blkOf (Base.dbg + off) = 14 := by unfold blkOf Base.dbg; omega
  have h2 : (Base.dbg + off) % 0x10000 = off := by unfold Base.dbg; omega
  unfold regWriteRaw
  rw [h1, h2]
  rfl

theorem regWriteRaw_fld (s : State) (src off v : Nat) (o : Outside) (h : off < 0x10000) :
    regWriteRaw s src (Base.fld + off) v o = fldWrite s off v := by
  have h1 : blkOf (Base.fld + off) = 15 := by unfold blkOf Base.fld; omega
  have h2 : (Base.fld + off) % 0x10000 = off := by unfold Base.fld; omega
  unfold regWriteRaw
  rw [h1, h2]
  rfl

/-! ### Tables -/

theorem alookD_adel (m : Amap) (k j d : Nat) (h : k ≠ j) : alookD (adel m k) j d = alookD m j d := by
  induction m with
  | nil => rfl
  | cons a r ih =>
    obtain ⟨x, y⟩ := a
    unfold adel at *
    by_cases hx : x = k
    · rw [List.filter_cons_of_neg (by simp [hx]), ih]
      conv_rhs => unfold alookD
      rw [if_neg (by omega)]
    · rw [List.filter_cons_of_pos (by simpa using hx)]
      unfold alookD
      rw [ih]

theorem alookD_aset (m : Amap) (k j v d : Nat) : alookD (aset m k v) j d = if k = j then v else alookD m j d := by
  unfold aset
  conv_lhs => unfold alookD
  split
  · rfl
  · rename_i h; exact alookD_adel m k j d h

theorem alook_aset (m : Amap) (k j v : Nat) : alook (aset m k v) j = if k = j then v else alook m j := alookD_aset m k j v 0

theorem ahas_adel (m : Amap) (k : Nat) : ahas (adel m k) k = false := by
  unfold ahas adel
  simp

theorem ahas_adel_other (m : Amap) (k j : Nat) (h : j ≠ k) : ahas (adel m k) j = ahas m j := by
  unfold ahas adel
  rw [Bool.eq_iff_iff]
  simp only [List.any_eq_true, List.mem_filter, bne_iff_ne, ne_eq, beq_iff_eq]
  constructor
  · rintro ⟨x, ⟨h1, _⟩, h2⟩; exact ⟨x, h1, h2⟩
  · rintro ⟨x, h1, h2⟩; exact ⟨x, ⟨h1, by omega⟩, h2⟩

/-! ### Dispatches -/

/-- A dispatch that may act is the one at its position, of its kind and operation, on one of the units named. -/
theorem openUnit_some {s : State} {d kind op u n : Nat} {x : Disp} (h : openUnit s d kind op u n = some x) :
    s.tsq.disp[d]? = some x ∧ x.kind = kind ∧ bits x.payload 63 60 = op ∧ x.done = false ∧ mayStart s d x.unit = true ∧
      unitOn s x.unit = true ∧ u ≤ x.unit ∧ x.unit < u + n := by
  unfold openUnit openDisp at h
  split at h
  · rename_i y hy
    split at hy
    · rename_i z hz
      split at hy
      · split at h
        · simp_all
        · simp at h
      · simp at hy
    · simp at hy
  · simp at h

theorem actDisp_some {s : State} {d kind op u n : Nat} {x : Disp} (f : State → Disp → State)
    (h : openUnit s d kind op u n = some x) : actDisp d kind op u n f s = f (doneDisp s d) x := by
  unfold actDisp
  rw [h]

theorem actDisp_none {s : State} {d kind op u n : Nat} (f : State → Disp → State)
    (h : openUnit s d kind op u n = none) : actDisp d kind op u n f s = s := by
  unfold actDisp
  rw [h]

end Sys2Proof.Machine
end

