-- ==== Sys2Proof/Laws/Fabric.lean ====
section
/-! SUPPORT. What follows a command where nothing waits in the fabric (`FabricCalm`): no more than the enables, their events and WDOUT_N; what a
request does that its target performs at once; and how an address of SRAM decodes. -/

namespace Sys2Proof.Machine

/-! ### The demand of the fetch units rests on nothing in the fabric -/

theorem pathCols_fab (s : State) (f : Fab) (base n ptr k j : Nat) :
    pathCols { s with fab := f } base n ptr k j = pathCols s base n ptr k j := by
  induction n generalizing ptr k j with
  | zero => rfl
  | succ n ih =>
    unfold pathCols
    simp only [ih]
    rfl

theorem nextPiece_fab (s : State) (f : Fab) (e : Nat) : nextPiece { s with fab := f } e = nextPiece s e := by
  unfold nextPiece
  simp only [pathCols_fab]
  rfl

theorem urgency_fab (s : State) (f : Fab) (e : Nat) : urgency { s with fab := f } e = urgency s e := by
  unfold urgency
  simp only [nextPiece_fab]
  rfl

theorem FabricCalm_fab {s : State} (h : FabricCalm s) (f : Fab) (h1 : f.held = []) (h2 : f.xfers = []) : FabricCalm { s with fab := f } := by
  obtain ⟨_, _, h3, h4, h5⟩ := h
  refine ⟨h1, h2, h3, h4, fun k hk => ?_⟩
  rw [urgency_fab]
  exact h5 k hk

/-! ### With nothing waiting, nothing moves -/

theorem fetchLevels_calm (s : State)
    (h : ∀ e : Nat, e < 4 → (psoAt s e).cls = if (psoAt s e).go = true ∨ s.boot.fallback = true then urgency s e else 0) :
    fetchLevels s = s := by
  have h0 := h 0 (by decide)
  have h1 := h 1 (by decide)
  have h2 := h 2 (by decide)
  have h3 := h 3 (by decide)
  unfold fetchLevels
  simp only [show List.range 4 = [0, 1, 2, 3] from rfl, List.foldl]
  rw [if_pos h0.symm, if_pos h1.symm, if_pos h2.symm, if_pos h3.symm]

theorem sdpLost_calm (s : State) (h : s.dbg.mem = none) : sdpLost s = s := by simp [sdpLost, h]

theorem pumpXfers_calm (s : State) (h : s.fab.xfers = []) : pumpXfers s = s := by simp [pumpXfers, xferCut, xferLeft, h, xferPump]

theorem releaseHeld_nil (s : State) (h : s.fab.held = []) : releaseHeld s = s := by
  unfold releaseHeld
  rw [h]
  simp only [List.foldl]
  rw [← h]

/-- The pump does nothing where the fabric is calm. -/
theorem pumpFabric_calm (s : State) (h : FabricCalm s) : pumpFabric s = s := by
  obtain ⟨h1, h2, h3, _, h5⟩ := h
  unfold pumpFabric
  simp only [sdpLost_calm s h3, fetchLevels_calm s h5, pumpXfers_calm s h2, h1, List.length, pumpHeld]
  exact releaseHeld_nil s h1

theorem forwardAll_calm (s : State) (h : s.twn.fwd = []) : forwardAll s = s := by
  unfold forwardAll
  rw [h]
  simp only [List.foldl]
  rw [← h]

/-- 16 R436: forwarding changes the twin's own account and the transfers it starts. -/
theorem forwardAll_eq (s : State) : ∃ tw x, forwardAll s = { s with twn := tw, fab := { s.fab with xfers := x } } := by
  have one (s : State) (w : Nat × Bytes × Bool) : ∃ tw x, forwardOne s w = { s with twn := tw, fab := { s.fab with xfers := x } } := by
    unfold forwardOne
    split
    · exact ⟨_, _, rfl⟩
    · dsimp only
      repeat' split
      all_goals exact ⟨_, _, rfl⟩
  have all (l : List (Nat × Bytes × Bool)) (s : State) :
      ∃ tw x, l.foldl forwardOne s = { s with twn := tw, fab := { s.fab with xfers := x } } := by
    induction l generalizing s with
    | nil => exact ⟨_, _, rfl⟩
    | cons a r ih =>
      obtain ⟨tw, x, h⟩ := one s a
      obtain ⟨tw2, x2, h2⟩ := ih (forwardOne s a)
      rw [List.foldl_cons, h2, h]
      exact ⟨_, _, rfl⟩
  obtain ⟨tw, x, h⟩ := all s.twn.fwd { s with twn := { s.twn with fwd := [] } }
  exact ⟨tw, x, h.trans rfl⟩

/-! ### The enables -/

theorem lenDrive_fold_eq (ns : List Nat) (s : State) : ∃ dr cl ca l q i, ns.foldl lenDrive s = { s with
    saf := { s.saf with drive := dr, clear := cl, clearAt := ca }, lse := { s.lse with lenEv := l }
    pins := { s.pins with evq := q, ins := i } } := by
  induction ns generalizing s with
  | nil => exact ⟨_, _, _, _, _, _, rfl⟩
  | cons n r ih =>
    obtain ⟨ca, l, q, i, h⟩ := lenDrive_eq s n
    obtain ⟨dr, cl, ca', l', q', i', h'⟩ := ih (lenDrive s n)
    rw [List.foldl_cons, h', h]
    exact ⟨_, _, _, _, _, _, rfl⟩

theorem lmod_lit (l : List SafEng) (e : Nat) (f : SafEng → List (Nat × Nat)) :
    (lmod l e fun x => { x with lit := f x }).map (fun x => { x with lit := [] }) = l.map (fun x => { x with lit := [] }) := by
  induction l generalizing e with
  | nil => rfl
  | cons a r ih =>
    cases e with
    | zero => simp [lmod]
    | succ e => simp [lmod, ih]

theorem noteLit_fold_eq (ns : List Nat) (s : State) : ∃ eg, ns.foldl noteLit s = { s with saf := { s.saf with eng := eg } } ∧
    eg.map (fun x => { x with lit := [] }) = s.saf.eng.map (fun x => { x with lit := [] }) := by
  induction ns generalizing s with
  | nil => exact ⟨_, rfl, rfl⟩
  | cons n r ih =>
    obtain ⟨eg, h, h2⟩ := ih (noteLit s n)
    rw [List.foldl_cons, h]
    exact ⟨eg, rfl, h2.trans (lmod_lit _ _ _)⟩

/-- 14 R370, R377: all that driving the enables changes. -/
theorem lenStep_eq (s : State) : ∃ dr cl ca eg l q i, lenStep s = { s with
      saf := { s.saf with drive := dr, clear := cl, clearAt := ca, eng := eg }, lse := { s.lse with lenEv := l }
      pins := { s.pins with evq := q, ins := i } } ∧
    eg.map (fun x => { x with lit := [] }) = s.saf.eng.map (fun x => { x with lit := [] }) := by
  obtain ⟨dr, cl, ca, l, q, i, h⟩ := lenDrive_fold_eq (List.range 16) s
  obtain ⟨eg, h2, h3⟩ := noteLit_fold_eq (List.range 4) ((List.range 16).foldl lenDrive s)
  refine ⟨dr, cl, ca, eg, l, q, i, ?_, ?_⟩
  · unfold lenStep
    rw [h2, h]
  · rw [h3, h]

theorem wdoutRelease_eq (s : State) : wdoutRelease s = { s with wdg := { s.wdg with outAt := match s.wdg.outAt with
    | some t => if 6 ≤ s.boot.step ∧ t + 1000 ≤ s.clk.aon then none else some t
    | none => none } } := by
  unfold wdoutRelease
  cases h : s.wdg.outAt with
  | none =>
    simp only
    rw [← h]
  | some t =>
    simp only
    split
    · rfl
    · rw [← h]

/-! ### A request that its target performs at once -/

theorem holdPkt_held (s : State) (p : Pkt) : (holdPkt s p).fab.held = s.fab.held ++ [p] := rfl

theorem holdPkt_undo (s : State) (p : Pkt) (h1 : s.fab.held = []) (l : List Pkt) (hl : l = []) :
    ({ holdPkt s p with fab := { (holdPkt s p).fab with held := l } } : State) = s := by
  subst hl
  unfold holdPkt
  dsimp only
  rw [← h1]

theorem releaseHeld_one (s : State) (p : Pkt) (h1 : s.fab.held = []) (hp : pktEgress p = none) : releaseHeld (holdPkt s p) = holdPkt s p := by
  unfold releaseHeld
  rw [holdPkt_held, h1, holdPkt_undo s p h1 [] rfl]
  simp only [List.nil_append, List.foldl, srcHolds, h1, List.any, enqueue, hp]
  simp

theorem readyHeld_one (s : State) (p : Pkt) (h1 : s.fab.held = []) (hp : pktEgress p = none) : readyHeld (holdPkt s p) = some p := by
  unfold readyHeld readyAll
  rw [holdPkt_held, h1]
  simp [hp]

theorem pumpHeld_one (s : State) (p : Pkt) (h1 : s.fab.held = []) (hp : pktEgress p = none) (hh : (performPkt s p).fab.held = []) :
    pumpHeld 1 (holdPkt s p) = performPkt s p := by
  show (match readyHeld (releaseHeld (holdPkt s p)) with
    | none => releaseHeld (holdPkt s p)
    | some q => releaseHeld (performPkt { releaseHeld (holdPkt s p) with
        fab := { (releaseHeld (holdPkt s p)).fab with held := (releaseHeld (holdPkt s p)).fab.held.filter fun x => x.seq != q.seq } } q)) = _
  rw [releaseHeld_one s p h1 hp, readyHeld_one s p h1 hp]
  dsimp only
  rw [holdPkt_undo s p h1 _ (by rw [holdPkt_held, h1]; simp), releaseHeld_nil _ hh]

/-- The one request that waits is performed at once (05 R123). -/
theorem pumpFabric_one (s : State) (h : FabricCalm s) (p : Pkt) (hp : pktEgress p = none) (hh : (performPkt s p).fab.held = []) :
    pumpFabric (holdPkt s p) = performPkt s p := by
  obtain ⟨h1, h2, h3, _, h5⟩ := h
  have e1 : sdpLost (holdPkt s p) = holdPkt s p := sdpLost_calm _ h3
  have e2 : fetchLevels (holdPkt s p) = holdPkt s p := fetchLevels_calm _ fun e he => by
    show (psoAt s e).cls = if (psoAt s e).go = true ∨ s.boot.fallback = true then urgency (holdPkt s p) e else 0
    rw [show urgency (holdPkt s p) e = urgency s e from urgency_fab s _ e]
    exact h5 e he
  have e3 : pumpXfers (holdPkt s p) = holdPkt s p := pumpXfers_calm _ h2
  unfold pumpFabric
  rw [e1, e2, e3]
  have hl : (holdPkt s p).fab.held.length = 1 := by
    rw [holdPkt_held, h1]
    rfl
  show pumpHeld (holdPkt s p).fab.held.length (holdPkt s p) = _
  rw [hl, pumpHeld_one s p h1 hp hh]

/-! ### Domains and addresses -/

/-- A domain that is fully on drains nothing. -/
theorem countDrained_on (l : List Nat) (s : State) (h : ∀ d ∈ l, domOn s d = true) : countDrained s l = s := by
  have same (l : List Dom) (d : Nat) (hd : (lget l d {}).phase = .on) :
      lmod l d (fun x => if x.phase = .drain then { x with drained := satAdd 4095 x.drained 1 } else x) = l := by
    induction l generalizing d with
    | nil => rfl
    | cons a r ih =>
      cases d with
      | zero =>
        have hd' : a.phase = .on := hd
        simp [lmod, hd']
      | succ d =>
        simp only [lmod]
        rw [ih]
        exact hd
  unfold countDrained
  induction l with
  | nil => rfl
  | cons d r ih =>
    rw [List.foldl_cons]
    have hd : domOn s d = true := h d (by simp)
    have one : modDom s d (fun x => if x.phase = .drain then { x with drained := satAdd 4095 x.drained 1 } else x) = s := by
      unfold modDom
      rw [same]
      simpa [domOn, domAt] using hd
    rw [one]
    exact ih fun d hd => h d (by simp [hd])

/-- A request is taken while every domain of its target is fully on. -/
theorem pktTaken_on (s : State) (p : Pkt) (h : ∀ d ∈ p.doms, domOn s d = true) : pktTaken s p = true := by
  unfold pktTaken
  rw [List.all_eq_true]
  intro d hd
  have := h d hd
  simp only [domOn, beq_iff_eq] at this
  dsimp only
  rw [this]

/-- 00 R5: a run within one half of SRAM. -/
theorem decodeFa_sram (s : State) (a n : Nat) (h1 : 0x10000000 ≤ a) (h2 : a + n ≤ 0x10800000) (h3 : ¬ (a < 0x10400000 ∧ 0x10400000 < a + n)) :
    decodeFa s a n = .sram (a - 0x10000000) := by
  unfold decodeFa
  rw [if_neg (by omega), if_neg (by omega), if_neg (by omega), if_neg (by simp; omega), if_pos (by simp; omega), if_neg h3]

/-- 00 R8: a run that nothing decodes. -/
theorem decodeFa_none (s : State) (a n : Nat) (hn : 0 < n) (h1 : 0x50000000 ≤ a) (h2 : a + n ≤ 0x80000000) : decodeFa s a n = .none := by
  unfold decodeFa
  rw [if_neg (by omega), if_neg (by omega), if_neg (by omega), if_neg (by simp; omega), if_neg (by simp; omega), if_neg (by simp; omega),
    if_neg (by omega), if_neg (by simp; omega)]

end Sys2Proof.Machine
end

