-- ==== Sys2Proof/Laws/Memory.lean ====
section
/-! SUPPORT. The memories: every operation keeps their canonical form, a byte that is written reads back, and every other byte reads as
before. -/

namespace Sys2Proof.Machine

/-- The canonical form, one cell at a time. -/
theorem Cells.ok_cons (d : Option Byte) (c : Host.Cell) (m : Cells) :
    Cells.ok d (c :: m) = true ↔ d ≠ some c.2 ∧ Cells.ok d m = true ∧ ∀ x ∈ m, c.1 < x.1 := by
  induction m generalizing c with
  | nil => obtain ⟨a, v⟩ := c; simp [Cells.ok]
  | cons y r ih =>
    obtain ⟨a, v⟩ := c
    obtain ⟨b, w⟩ := y
    have hy := ih (b, w)
    simp only [Cells.ok, Bool.and_eq_true, decide_eq_true_eq, bne_iff_ne, ne_eq]
    constructor
    · rintro ⟨⟨h1, h2⟩, h3⟩
      refine ⟨h2, h3, fun x hx => ?_⟩
      rcases List.mem_cons.mp hx with rfl | hx
      · exact h1
      · exact lt_trans h1 ((hy.mp h3).2.2 x hx)
    · rintro ⟨h2, h3, h4⟩
      exact ⟨⟨h4 (b, w) (by simp), h2⟩, h3⟩

/-- Leaving cells out keeps the form. -/
theorem Cells.ok_filter (d : Option Byte) (p : Host.Cell → Bool) (m : Cells) (h : Cells.ok d m = true) :
    Cells.ok d (m.filter p) = true := by
  induction m with
  | nil => simpa using h
  | cons c r ih =>
    rw [Cells.ok_cons] at h
    by_cases hp : p c
    · rw [List.filter_cons_of_pos hp, Cells.ok_cons]
      exact ⟨h.1, ih h.2.1, fun x hx => h.2.2 x (List.mem_of_mem_filter hx)⟩
    · rw [List.filter_cons_of_neg hp]
      exact ih h.2.1

/-- The addresses that a listed byte adds. -/
theorem mem_cellPut (m : Cells) (a : Nat) (v : Byte) (x : Host.Cell) (h : x ∈ cellPut m a v) : x.1 = a ∨ x ∈ m := by
  induction m with
  | nil => simp_all [cellPut]
  | cons c r ih =>
    obtain ⟨k, y⟩ := c
    simp only [cellPut] at h
    split at h
    · rcases List.mem_cons.mp h with rfl | h
      · exact .inl rfl
      · exact .inr h
    · split at h
      · rcases List.mem_cons.mp h with rfl | h
        · exact .inl rfl
        · exact .inr (List.mem_cons_of_mem _ h)
      · rcases List.mem_cons.mp h with rfl | h
        · exact .inr (by simp)
        · rcases ih h with h | h
          · exact .inl h
          · exact .inr (List.mem_cons_of_mem _ h)

theorem cellPut_ok (d : Option Byte) (m : Cells) (a : Nat) (v : Byte) (hv : d ≠ some v) (h : Cells.ok d m = true) :
    Cells.ok d (cellPut m a v) = true := by
  induction m with
  | nil => simpa [cellPut, Cells.ok] using hv
  | cons c r ih =>
    obtain ⟨k, y⟩ := c
    have hc := (Cells.ok_cons d (k, y) r).mp h
    simp only [cellPut]
    split
    · rename_i hlt
      rw [Cells.ok_cons]
      refine ⟨hv, h, fun x hx => ?_⟩
      rcases List.mem_cons.mp hx with rfl | hx
      · exact hlt
      · exact lt_trans hlt (hc.2.2 x hx)
    · split
      · rename_i _ heq
        rw [Cells.ok_cons]
        exact ⟨hv, hc.2.1, fun x hx => heq ▸ hc.2.2 x hx⟩
      · rename_i h1 h2
        rw [Cells.ok_cons]
        refine ⟨hc.1, ih hc.2.1, fun x hx => ?_⟩
        rcases mem_cellPut r a v x hx with h3 | h3
        · simp only [h3]; omega
        · exact hc.2.2 x h3

theorem memPut_ok (d : Option Byte) (m : Cells) (a : Nat) (v : Byte) (h : Cells.ok d m = true) : Cells.ok d (memPut d m a v) = true := by
  unfold memPut
  split
  · exact Cells.ok_filter d _ m h
  · exact cellPut_ok d m a v ‹_› h

theorem memPutAll_ok (d : Option Byte) (m : Cells) (a : Nat) (b : Bytes) (h : Cells.ok d m = true) :
    Cells.ok d (memPutAll d m a b) = true := by
  induction b generalizing m a with
  | nil => exact h
  | cons v r ih => exact ih _ _ (memPut_ok d m a v h)

theorem memClear_ok (d : Option Byte) (m : Cells) (lo hi : Nat) (h : Cells.ok d m = true) : Cells.ok d (memClear m lo hi) = true :=
  Cells.ok_filter d _ m h

/-! ### Reading back -/

theorem cellAt_cellPut (m : Cells) (a b : Nat) (v : Byte) : cellAt (cellPut m a v) b = if b = a then some v else cellAt m b := by
  induction m with
  | nil => simp only [cellPut, cellAt]; split_ifs <;> simp_all
  | cons c r ih =>
    obtain ⟨k, y⟩ := c
    simp only [cellPut]
    split_ifs <;> simp only [cellAt] <;> split_ifs <;> first | rfl | (exfalso; omega) | simp_all only [if_true, if_false]

theorem cellAt_filter (p : Nat → Bool) (m : Cells) (b : Nat) :
    cellAt (m.filter fun c => p c.1) b = if p b then cellAt m b else none := by
  induction m with
  | nil => simp [cellAt]
  | cons c r ih =>
    obtain ⟨k, y⟩ := c
    by_cases hp : p k
    · rw [List.filter_cons_of_pos (by simpa using hp)]
      simp only [cellAt]
      split_ifs with h1 h2 <;> simp_all
    · rw [List.filter_cons_of_neg (by simpa using hp), ih]
      simp only [cellAt]
      split_ifs with h1 h2 <;> simp_all

/-- A byte that is written reads back, and every other byte reads as before. -/
theorem memPut_read (d : Option Byte) (m : Cells) (a b : Nat) (v : Byte) :
    (cellAt (memPut d m a v) b).or d = if b = a then some v else (cellAt m b).or d := by
  unfold memPut
  split_ifs with h1 h2 h3
  · rw [cellDel, cellAt_filter (· != a)]; simp [h1, h2]
  · rw [cellDel, cellAt_filter (· != a)]; simp [h2]
  · rw [cellAt_cellPut]; simp [h3]
  · rw [cellAt_cellPut]; simp [h3]

/-- A run that is written reads back byte by byte, and every byte outside it reads as before. -/
theorem memPutAll_read (d : Option Byte) (m : Cells) (a : Nat) (x : Bytes) (b : Nat) :
    (cellAt (memPutAll d m a x) b).or d = if a ≤ b ∧ b < a + x.length then x[b - a]? else (cellAt m b).or d := by
  induction x generalizing m a with
  | nil =>
    simp only [memPutAll, List.length_nil, Nat.add_zero]
    rw [if_neg (by omega)]
  | cons v r ih =>
    rw [memPutAll, ih, memPut_read]
    simp only [List.length_cons]
    by_cases h : b = a
    · subst h; simp
    · by_cases h1 : a ≤ b ∧ b < a + (r.length + 1)
      · rw [if_pos (by omega), if_pos h1, show b - a = (b - (a + 1)) + 1 by omega, List.getElem?_cons_succ]
      · rw [if_neg (by omega), if_neg h1, if_neg h]

/-! ### The machine's memories -/

/-- The canonical form of every memory, one by one. -/
theorem Memory.wf_iff (m : Mem) : Memory.wf m = true ↔ Cells.ok none m.sram = true ∧ Cells.ok none m.tcm = true ∧
    Cells.ok none m.vis = true ∧ Cells.ok (some 0xFF) m.nvm = true ∧ Cells.ok (some 0) m.dram = true := by
  simp [Memory.wf, and_assoc]

theorem reset_memory_wf : Memory.wf State.reset.mem = true := by decide

theorem sramPut_wf (s : State) (off : Nat) (b : Bytes) (h : Memory.wf s.mem = true) : Memory.wf (sramPut s off b).mem = true := by
  rw [Memory.wf_iff] at *
  exact ⟨memPutAll_ok _ _ _ _ h.1, h.2⟩

theorem tcmPut_wf (s : State) (off : Nat) (b : Bytes) (h : Memory.wf s.mem = true) : Memory.wf (tcmPut s off b).mem = true := by
  rw [Memory.wf_iff] at *
  exact ⟨h.1, memPutAll_ok _ _ _ _ h.2.1, h.2.2⟩

theorem visPut_wf (s : State) (off : Nat) (b : Bytes) (h : Memory.wf s.mem = true) : Memory.wf (visPut s off b).mem = true := by
  rw [Memory.wf_iff] at *
  exact ⟨h.1, h.2.1, memPutAll_ok _ _ _ _ h.2.2.1, h.2.2.2⟩

theorem nvmPut_wf (s : State) (a : Nat) (b : Bytes) (h : Memory.wf s.mem = true) : Memory.wf (nvmPut s a b).mem = true := by
  rw [Memory.wf_iff] at *
  exact ⟨h.1, h.2.1, h.2.2.1, memPutAll_ok _ _ _ _ h.2.2.2.1, h.2.2.2.2⟩

theorem dramPut_wf (s : State) (a : Nat) (b : Bytes) (h : Memory.wf s.mem = true) : Memory.wf (dramPut s a b).mem = true := by
  rw [Memory.wf_iff] at *
  exact ⟨h.1, h.2.1, h.2.2.1, h.2.2.2.1, memPutAll_ok _ _ _ _ h.2.2.2.2⟩

theorem sramLose_wf (s : State) (k : Nat) (h : Memory.wf s.mem = true) : Memory.wf (sramLose s k).mem = true := by
  rw [Memory.wf_iff] at *
  exact ⟨memClear_ok _ _ _ _ h.1, h.2⟩

theorem tcmLose_wf (s : State) (h : Memory.wf s.mem = true) : Memory.wf (tcmLose s).mem = true := by
  rw [Memory.wf_iff] at *
  exact ⟨h.1, rfl, h.2.2⟩

theorem visLose_wf (s : State) (h : Memory.wf s.mem = true) : Memory.wf (visLose s).mem = true := by
  rw [Memory.wf_iff] at *
  exact ⟨h.1, h.2.1, rfl, h.2.2.2⟩

end Sys2Proof.Machine
end

