-- ==== Sys2Proof/Laws/Registers.lean ====
section
/-! SUPPORT. What a write of each command register does, where the domain that serves the register is fully on. -/

namespace Sys2Proof.Machine

theorem write_pwrCmd (w : When) (r : Wr) (o : Outside) (s : State) (hd : domOn s 8 = true) :
    writeReg (Base.sys + 0x118) r o (advance w s) =
      pwrCmd (advance w s) r.val.toNat (dbgLock (advance w s)) := by
  rw [writeReg_plain w _ r o s 8 hd (by decide) (by decide) (by decide) (by decide) rfl rfl rfl rfl]
  rfl

theorem write_planGo (w : When) (r : Wr) (o : Outside) (s : State) (hd : domOn s 8 = true) :
    writeReg (Base.sys + 0x120) r o (advance w s) =
      planGo (advance w s) r.val.toNat := by
  rw [writeReg_plain w _ r o s 8 hd (by decide) (by decide) (by decide) (by decide) rfl rfl rfl rfl]
  rfl

theorem write_deep (w : When) (r : Wr) (o : Outside) (s : State) (hd : domOn s 8 = true) :
    writeReg (Base.sys + 0x130) r o (advance w s) =
      deepWrite (advance w s) r.val.toNat := by
  rw [writeReg_plain w _ r o s 8 hd (by decide) (by decide) (by decide) (by decide) rfl rfl rfl rfl]
  rfl

theorem write_swReset (w : When) (r : Wr) (o : Outside) (s : State) (hd : domOn s 8 = true) :
    writeReg (Base.sys + 0x208) r o (advance w s) =
      if keyIs r.val.toNat 0x5E7A && bitAt r.val.toNat 0 then resetCore (advance w s) 4 else (advance w s) := by
  rw [writeReg_plain w _ r o s 8 hd (by decide) (by decide) (by decide) (by decide) rfl rfl rfl rfl]
  rfl

theorem write_flash (w : When) (r : Wr) (o : Outside) (s : State) (hd : domOn s 8 = true) :
    writeReg (Base.sys + 0x240) r o (advance w s) =
      if (advance w s).pins.flBusy then (advance w s)
      else
        let x := rwStore (advance w s) (Base.sys + 0x240) r.val.toNat
        if bitAt r.val.toNat 15 then { x with pins := { x.pins with flBusy := true } } else x := by
  rw [writeReg_plain w _ r o s 8 hd (by decide) (by decide) (by decide) (by decide) rfl rfl rfl rfl]
  rfl

theorem write_guardMin (w : When) (r : Wr) (o : Outside) (s : State) (hd : domOn s 5 = true) :
    writeReg (Base.tsq + 0x10) r o (advance w s) =
      if bitAt r.val.toNat 31 then { (advance w s) with tsq := { (advance w s).tsq with guardMin := 0x1FFFFF } } else (advance w s) := by
  rw [writeReg_plain w _ r o s 5 hd (by decide) (by decide) (by decide) (by decide) rfl rfl rfl rfl]
  rfl

theorem write_push (w : When) (r : Wr) (o : Outside) (s : State) (hd : domOn s 5 = true) :
    writeReg (Base.tsq + 0x90) r o (advance w s) =
      if bitAt r.val.toNat 0 then (mboxPush (advance w s) r.src).1 else (advance w s) := by
  rw [writeReg_plain w _ r o s 5 hd (by decide) (by decide) (by decide) (by decide) rfl rfl rfl rfl]
  show (if bitAt r.val.toNat 0 then mboxPush (advance w s) r.src else (advance w s, 0)).1 = _
  split <;> rfl

theorem write_mresSel (w : When) (r : Wr) (o : Outside) (s : State) (hd : domOn s 5 = true) :
    writeReg (Base.tsq + 0xa0) r o (advance w s) =
      mresSel (rwStore (advance w s) (Base.tsq + 0xA0) r.val.toNat) r.val.toNat := by
  rw [writeReg_plain w _ r o s 5 hd (by decide) (by decide) (by decide) (by decide) rfl rfl rfl rfl]
  rfl

theorem write_flogSel (w : When) (r : Wr) (o : Outside) (s : State) (hd : domOn s 5 = true) :
    writeReg (Base.tsq + 0x108) r o (advance w s) =
      flogSel (rwStore (advance w s) (Base.tsq + 0x108) r.val.toNat) r.val.toNat := by
  rw [writeReg_plain w _ r o s 5 hd (by decide) (by decide) (by decide) (by decide) rfl rfl rfl rfl]
  rfl

theorem write_qsel (w : When) (r : Wr) (o : Outside) (s : State) (hd : domOn s 8 = true) :
    writeReg (Base.fab + 0x40) r o (advance w s) =
      qselWrite (advance w s) r.val.toNat := by
  rw [writeReg_plain w _ r o s 8 hd (by decide) (by decide) (by decide) (by decide) rfl rfl rfl rfl]
  rw [regWriteRaw_fab _ _ _ _ _ (by decide)]
  rw [if_neg (by decide)]
  rfl

theorem write_retire (w : When) (r : Wr) (o : Outside) (s : State) (hd : domOn s 9 = true) :
    writeReg (Base.dmc + 0x210) r o (advance w s) =
      retireWrite (advance w s) r.val.toNat := by
  rw [writeReg_plain w _ r o s 9 hd (by decide) (by decide) (by decide) (by decide) rfl rfl rfl rfl]
  rw [regWriteRaw_dmc _ _ _ _ _ (by decide), if_neg (by decide)]
  rfl

theorem write_elogSel (w : When) (r : Wr) (o : Outside) (s : State) (hd : domOn s 9 = true) :
    writeReg (Base.dmc + 0x224) r o (advance w s) =
      elogSel (advance w s) r.val.toNat := by
  rw [writeReg_plain w _ r o s 9 hd (by decide) (by decide) (by decide) (by decide) rfl rfl rfl rfl]
  rw [regWriteRaw_dmc _ _ _ _ _ (by decide), if_neg (by decide)]
  rfl

theorem write_psoCtl (w : When) (r : Wr) (o : Outside) (s : State) (hd : domOn s 10 = true) :
    writeReg Base.pso r o (advance w s) =
      let x := rwStore (advance w s) Base.pso r.val.toNat
      if bitAt r.val.toNat 1 then snapWrite x 5 else x := by
  rw [writeReg_plain w _ r o s 10 hd (by decide) (by decide) (by decide) (by decide) rfl rfl rfl rfl]
  show psoWrite (snapCtlWrite _ Base.pso 5 r.val.toNat) 0 r.val.toNat = _
  unfold psoWrite snapCtlWrite
  rw [if_neg (by omega)]
  simp only [show Base.pso % 0x10000 = 0 from rfl, true_and]

theorem write_lseCtl (w : When) (r : Wr) (o : Outside) (s : State) (hd : domOn s 10 = true) :
    writeReg Base.lse r o (advance w s) =
      let x := if bitAt r.val.toNat 2 then lseClrMax (advance w s) else (advance w s)
      if bitAt r.val.toNat 1 then snapWrite x 6 else x := by
  rw [writeReg_plain w _ r o s 10 hd (by decide) (by decide) (by decide) (by decide) rfl rfl rfl rfl]
  rfl

theorem write_srvCtl (w : When) (r : Wr) (o : Outside) (s : State) (hd : domOn s 10 = true) :
    writeReg Base.srv r o (advance w s) =
      let x := rwStore (advance w s) Base.srv r.val.toNat
      if bitAt r.val.toNat 1 then snapWrite x 7 else x := by
  rw [writeReg_plain w _ r o s 10 hd (by decide) (by decide) (by decide) (by decide) rfl rfl rfl rfl]
  show snapCtlWrite _ Base.srv _ _ = _
  unfold snapCtlWrite
  simp only [show Base.srv % 0x10000 = 0 from rfl, true_and]

theorem write_lpeCtl (w : When) (r : Wr) (o : Outside) (s : State) (hd : domOn s 11 = true) :
    writeReg Base.lpe r o (advance w s) =
      let x := rwStore (advance w s) Base.lpe r.val.toNat
      if bitAt r.val.toNat 1 then snapWrite x 8 else x := by
  rw [writeReg_plain w _ r o s 11 hd (by decide) (by decide) (by decide) (by decide) rfl rfl rfl rfl]
  show snapCtlWrite _ Base.lpe _ _ = _
  unfold snapCtlWrite
  simp only [show Base.lpe % 0x10000 = 0 from rfl, true_and]

theorem write_frSel (w : When) (r : Wr) (o : Outside) (s : State) (hd : domOn s 10 = true) :
    writeReg (Base.lse + 0x420) r o (advance w s) =
      frselWrite (advance w s) r.val.toNat := by
  rw [writeReg_plain w _ r o s 10 hd (by decide) (by decide) (by decide) (by decide) rfl rfl rfl rfl]
  rfl

theorem write_colSel (w : When) (r : Wr) (o : Outside) (s : State) (hd : domOn s 10 = true) :
    writeReg (Base.lse + 0x490) r o (advance w s) =
      colselWrite (advance w s) r.val.toNat := by
  rw [writeReg_plain w _ r o s 10 hd (by decide) (by decide) (by decide) (by decide) rfl rfl rfl rfl]
  rfl

theorem write_txTail (w : When) (r : Wr) (o : Outside) (s : State) (hd : domOn s 11 = true) :
    writeReg (Base.chn + 0x2c) r o (advance w s) =
      txPump (rwStore (advance w s) (Base.chn + 0x2C) r.val.toNat) := by
  rw [writeReg_plain w _ r o s 11 hd (by decide) (by decide) (by decide) (by decide) rfl rfl rfl rfl]
  rfl

theorem write_ptpMaster (w : When) (r : Wr) (o : Outside) (s : State) (hd : domOn s 11 = true) :
    writeReg (Base.chn + 0x38) r o (advance w s) =
      ptpForget (rwStore (advance w s) (Base.chn + 0x38) r.val.toNat) := by
  rw [writeReg_plain w _ r o s 11 hd (by decide) (by decide) (by decide) (by decide) rfl rfl rfl rfl]
  rfl

theorem write_twnCtl (w : When) (r : Wr) (o : Outside) (s : State) (hd : domOn s 56 = true) :
    writeReg Base.twn r o (advance w s) =
      let x := twnCtlWrite (advance w s) r.val.toNat
      if bitAt r.val.toNat 5 then snapWrite x 10 else x := by
  rw [writeReg_plain w _ r o s 56 hd (by decide) (by decide) (by decide) (by decide) rfl rfl rfl rfl]
  rfl

theorem write_fldCtl (w : When) (r : Wr) (o : Outside) (s : State) (hd : domOn s 7 = true) :
    writeReg Base.fld r o (advance w s) =
      let x := rwStore (advance w s) Base.fld r.val.toNat
      let y := if bitAt r.val.toNat 5 then snapWrite x 15 else x
      if bitAt r.val.toNat 4 then fldStartNow y (r.val.toNat % 8) else y := by
  rw [writeReg_plain w _ r o s 7 hd (by decide) (by decide) (by decide) (by decide) rfl rfl rfl rfl]
  show (fldWrite _ 0 _).1 = _
  unfold fldWrite
  rfl

theorem write_svBump (w : When) (r : Wr) (o : Outside) (s : State) (hd : domOn s 7 = true) :
    writeReg (Base.fld + 0x18) r o (advance w s) =
      svBump (advance w s) r.val.toNat := by
  rw [writeReg_plain w _ r o s 7 hd (by decide) (by decide) (by decide) (by decide) rfl rfl rfl rfl]
  rfl

theorem write_hotCtl (w : When) (r : Wr) (o : Outside) (s : State) (hd : domOn s 7 = true) :
    writeReg (Base.fld + 0x20) r o (advance w s) =
      (hotCtl (advance w s) r.val.toNat).1 := by
  rw [writeReg_plain w _ r o s 7 hd (by decide) (by decide) (by decide) (by decide) rfl rfl rfl rfl]
  rfl

theorem write_import (w : When) (r : Wr) (o : Outside) (s : State) (hd : domOn s 58 = true) :
    writeReg Base.cal r o (advance w s) =
      if bitAt r.val.toNat 0 then importStart (advance w s) else (advance w s) := by
  rw [writeReg_plain w _ r o s 58 hd (by decide) (by decide) (by decide) (by decide) rfl rfl rfl rfl]
  rfl

theorem write_otpProg (w : When) (r : Wr) (o : Outside) (s : State) (hd : domOn s 58 = true) :
    writeReg (Base.cal + 0x20) r o (advance w s) =
      otpProg (advance w s) r.val.toNat := by
  rw [writeReg_plain w _ r o s 58 hd (by decide) (by decide) (by decide) (by decide) rfl rfl rfl rfl]
  rfl

theorem write_ratioSel (w : When) (r : Wr) (o : Outside) (s : State) (hd : domOn s 58 = true) :
    writeReg (Base.cal + 0x50) r o (advance w s) =
      ratioSel (advance w s) r.val.toNat := by
  rw [writeReg_plain w _ r o s 58 hd (by decide) (by decide) (by decide) (by decide) rfl rfl rfl rfl]
  rfl

theorem write_rearm (w : When) (r : Wr) (o : Outside) (s : State) (hd : domOn s 1 = true) :
    writeReg (Base.saf + 0x8) r o (advance w s) =
      if keyIs r.val.toNat 0xA9E2 && bitAt r.val.toNat 0 then { (advance w s) with saf := { (advance w s).saf with rearmReq := true } } else (advance w s) := by
  rw [writeReg_plain w _ r o s 1 hd (by decide) (by decide) (by decide) (by decide) rfl rfl rfl rfl]
  rfl

theorem write_force (w : When) (r : Wr) (o : Outside) (s : State) (hd : domOn s 1 = true) :
    writeReg (Base.saf + 0xc) r o (advance w s) =
      if keyIs r.val.toNat 0xDA2C && bitAt r.val.toNat 0 then fire (advance w s) 12 0 0 0 else (advance w s) := by
  rw [writeReg_plain w _ r o s 1 hd (by decide) (by decide) (by decide) (by decide) rfl rfl rfl rfl]
  rfl

theorem write_safTest (w : When) (r : Wr) (o : Outside) (s : State) (hd : domOn s 1 = true) :
    writeReg (Base.saf + 0x20) r o (advance w s) =
      if keyIs r.val.toNat 0x7E57 then testFire (advance w s) (r.val.toNat % 16) o.lat else (advance w s) := by
  rw [writeReg_plain w _ r o s 1 hd (by decide) (by decide) (by decide) (by decide) rfl rfl rfl rfl]
  rfl

theorem write_zoneSel (w : When) (r : Wr) (o : Outside) (s : State) (hd : domOn s 1 = true) :
    writeReg (Base.saf + 0x2c) r o (advance w s) =
      zoneSel (advance w s) r.val.toNat := by
  rw [writeReg_plain w _ r o s 1 hd (by decide) (by decide) (by decide) (by decide) rfl rfl rfl rfl]
  rfl

theorem write_safLogSel (w : When) (r : Wr) (o : Outside) (s : State) (hd : domOn s 1 = true) :
    writeReg (Base.saf + 0x30) r o (advance w s) =
      logSel (advance w s) r.val.toNat := by
  rw [writeReg_plain w _ r o s 1 hd (by decide) (by decide) (by decide) (by decide) rfl rfl rfl rfl]
  rfl

theorem write_wdgCtl (w : When) (r : Wr) (o : Outside) (s : State) (hd : domOn s 8 = true) :
    writeReg Base.wdg r o (advance w s) =
      if r.src ≤ 1 then wdgCtl (advance w s) r.val.toNat else (advance w s) := by
  rw [writeReg_plain w _ r o s 8 hd (by decide) (by decide) (by decide) (by decide) rfl rfl rfl rfl]
  show (if r.src ≤ 1 then (wdgCtl (advance w s) r.val.toNat, 0) else (advance w s, 6)).1 = _
  split <;> rfl

theorem write_wdgKey (w : When) (r : Wr) (o : Outside) (s : State) (hd : domOn s 8 = true) :
    writeReg (Base.wdg + 0x4) r o (advance w s) =
      if r.src = 0 then (let k := wdgKey (advance w s) r.val.toNat; if k.2 = 0 then k.1 else bite k.1 k.2 o.pc) else (advance w s) := by
  rw [writeReg_plain w _ r o s 8 hd (by decide) (by decide) (by decide) (by decide) rfl rfl rfl rfl]
  show (if r.src = 0 then (let k := wdgKey (advance w s) r.val.toNat; (if k.2 = 0 then k.1 else bite k.1 k.2 o.pc, 0)) else (advance w s, 0)).1 = _
  split <;> rfl

theorem write_dbgCmd (w : When) (r : Wr) (o : Outside) (s : State) (hd : domOn s 59 = true) :
    writeReg Base.dbg r o (advance w s) = if r.src = 1 then dbgCmd (advance w s) r.val.toNat o.view else advance w s := by
  rw [writeReg_eq _ _ _ _ (by decide) (by decide) (by decide) (by decide), advance_domOn, show regDom Base.dbg = 59 from rfl, hd, if_pos rfl]
  by_cases h : r.src = 1
  · rw [if_pos h, regWriteWith_plain _ _ _ _ _ (show mayWrite r.src Base.dbg = true by rw [h]; rfl) rfl rfl]
    show (if r.src ≠ 1 then (advance w s, 6) else (dbgCmd (advance w s) r.val.toNat o.view, 0)).1 = _
    rw [if_neg (by simp [h])]
  · rw [if_neg h]
    unfold regWriteWith
    rw [show mayWrite r.src Base.dbg = false by
      show (blkOf Base.dbg != 14 || r.src == 1) = false
      simp [show blkOf Base.dbg = 14 from rfl, h]]
    rfl

end Sys2Proof.Machine
end

