-- ==== Sys2Proof/Laws/State.lean ====
section
/-! SUPPORT. What each update of one part of the state leaves as it was, field by field, and the one block that it changes. -/

namespace Sys2Proof.Machine

@[simp] theorem modDom_frame (s : State) (d : Nat) (f : Dom → Dom) : (modDom s d f).pending = s.pending ∧ (modDom s d f).clk = s.clk ∧
      (modDom s d f).pins = s.pins ∧ (modDom s d f).boot = s.boot ∧ (modDom s d f).tsq = s.tsq ∧ (modDom s d f).fld = s.fld ∧
      (modDom s d f).fab = s.fab ∧ (modDom s d f).dmc = s.dmc ∧ (modDom s d f).chn = s.chn ∧ (modDom s d f).saf = s.saf ∧
      (modDom s d f).wdg = s.wdg ∧ (modDom s d f).dbg = s.dbg ∧ (modDom s d f).tap = s.tap ∧ (modDom s d f).cal = s.cal ∧
      (modDom s d f).lse = s.lse ∧ (modDom s d f).pso = s.pso ∧ (modDom s d f).srv = s.srv ∧ (modDom s d f).lpe = s.lpe ∧
      (modDom s d f).twn = s.twn ∧ (modDom s d f).rw = s.rw ∧ (modDom s d f).latch = s.latch ∧ (modDom s d f).staged = s.staged ∧
      (modDom s d f).snapBusy = s.snapBusy ∧ (modDom s d f).free = s.free ∧ (modDom s d f).mem = s.mem ∧ (modDom s d f).shown = s.shown := by
  refine ⟨rfl, rfl, rfl, rfl, rfl, rfl, rfl, rfl, rfl, rfl, rfl, rfl, rfl, rfl, rfl, rfl, rfl, rfl, rfl, rfl, rfl, rfl, rfl, rfl, rfl, rfl⟩

@[simp] theorem modDom_pwr (s : State) (d : Nat) (f : Dom → Dom) :
    (modDom s d f).pwr = { s.pwr with doms := lmod s.pwr.doms d f } := rfl

@[simp] theorem modIn_frame (s : State) (i : Nat) (f : InSt → InSt) : (modIn s i f).pending = s.pending ∧ (modIn s i f).clk = s.clk ∧
      (modIn s i f).pwr = s.pwr ∧ (modIn s i f).boot = s.boot ∧ (modIn s i f).tsq = s.tsq ∧ (modIn s i f).fld = s.fld ∧
      (modIn s i f).fab = s.fab ∧ (modIn s i f).dmc = s.dmc ∧ (modIn s i f).chn = s.chn ∧ (modIn s i f).saf = s.saf ∧
      (modIn s i f).wdg = s.wdg ∧ (modIn s i f).dbg = s.dbg ∧ (modIn s i f).tap = s.tap ∧ (modIn s i f).cal = s.cal ∧
      (modIn s i f).lse = s.lse ∧ (modIn s i f).pso = s.pso ∧ (modIn s i f).srv = s.srv ∧ (modIn s i f).lpe = s.lpe ∧
      (modIn s i f).twn = s.twn ∧ (modIn s i f).rw = s.rw ∧ (modIn s i f).latch = s.latch ∧ (modIn s i f).staged = s.staged ∧
      (modIn s i f).snapBusy = s.snapBusy ∧ (modIn s i f).free = s.free ∧ (modIn s i f).mem = s.mem ∧ (modIn s i f).shown = s.shown := by
  refine ⟨rfl, rfl, rfl, rfl, rfl, rfl, rfl, rfl, rfl, rfl, rfl, rfl, rfl, rfl, rfl, rfl, rfl, rfl, rfl, rfl, rfl, rfl, rfl, rfl, rfl, rfl⟩

@[simp] theorem modIn_pins (s : State) (i : Nat) (f : InSt → InSt) :
    (modIn s i f).pins = { s.pins with ins := lmod s.pins.ins i f } := rfl

@[simp] theorem rwPut_frame (s : State) (addr v : Nat) : (rwPut s addr v).pending = s.pending ∧ (rwPut s addr v).clk = s.clk ∧
      (rwPut s addr v).pwr = s.pwr ∧ (rwPut s addr v).pins = s.pins ∧ (rwPut s addr v).boot = s.boot ∧ (rwPut s addr v).tsq = s.tsq ∧
      (rwPut s addr v).fld = s.fld ∧ (rwPut s addr v).fab = s.fab ∧ (rwPut s addr v).dmc = s.dmc ∧ (rwPut s addr v).chn = s.chn ∧
      (rwPut s addr v).saf = s.saf ∧ (rwPut s addr v).wdg = s.wdg ∧ (rwPut s addr v).dbg = s.dbg ∧ (rwPut s addr v).tap = s.tap ∧
      (rwPut s addr v).cal = s.cal ∧ (rwPut s addr v).lse = s.lse ∧ (rwPut s addr v).pso = s.pso ∧ (rwPut s addr v).srv = s.srv ∧
      (rwPut s addr v).lpe = s.lpe ∧ (rwPut s addr v).twn = s.twn ∧ (rwPut s addr v).latch = s.latch ∧
      (rwPut s addr v).staged = s.staged ∧ (rwPut s addr v).snapBusy = s.snapBusy ∧ (rwPut s addr v).free = s.free ∧
      (rwPut s addr v).mem = s.mem ∧ (rwPut s addr v).shown = s.shown := by
  refine ⟨rfl, rfl, rfl, rfl, rfl, rfl, rfl, rfl, rfl, rfl, rfl, rfl, rfl, rfl, rfl, rfl, rfl, rfl, rfl, rfl, rfl, rfl, rfl, rfl, rfl, rfl⟩

@[simp] theorem rwPut_rw (s : State) (addr v : Nat) :
    (rwPut s addr v).rw = aset s.rw addr v := rfl

@[simp] theorem degrade_frame (s : State) (bit : Nat) : (degrade s bit).pending = s.pending ∧ (degrade s bit).clk = s.clk ∧
      (degrade s bit).pwr = s.pwr ∧ (degrade s bit).pins = s.pins ∧ (degrade s bit).boot = s.boot ∧ (degrade s bit).fld = s.fld ∧
      (degrade s bit).fab = s.fab ∧ (degrade s bit).dmc = s.dmc ∧ (degrade s bit).chn = s.chn ∧ (degrade s bit).saf = s.saf ∧
      (degrade s bit).wdg = s.wdg ∧ (degrade s bit).dbg = s.dbg ∧ (degrade s bit).tap = s.tap ∧ (degrade s bit).cal = s.cal ∧
      (degrade s bit).lse = s.lse ∧ (degrade s bit).pso = s.pso ∧ (degrade s bit).srv = s.srv ∧ (degrade s bit).lpe = s.lpe ∧
      (degrade s bit).twn = s.twn ∧ (degrade s bit).rw = s.rw ∧ (degrade s bit).latch = s.latch ∧ (degrade s bit).staged = s.staged ∧
      (degrade s bit).snapBusy = s.snapBusy ∧ (degrade s bit).free = s.free ∧ (degrade s bit).mem = s.mem ∧
      (degrade s bit).shown = s.shown := by
  refine ⟨rfl, rfl, rfl, rfl, rfl, rfl, rfl, rfl, rfl, rfl, rfl, rfl, rfl, rfl, rfl, rfl, rfl, rfl, rfl, rfl, rfl, rfl, rfl, rfl, rfl, rfl⟩

@[simp] theorem degrade_tsq (s : State) (bit : Nat) :
    (degrade s bit).tsq = { s.tsq with degr := setBit s.tsq.degr bit true } := rfl

@[simp] theorem doneDispAt_frame (s : State) (d c : Nat) : (doneDispAt s d c).pending = s.pending ∧ (doneDispAt s d c).clk = s.clk ∧
      (doneDispAt s d c).pwr = s.pwr ∧ (doneDispAt s d c).pins = s.pins ∧ (doneDispAt s d c).boot = s.boot ∧ (doneDispAt s d c).fld = s.fld ∧
      (doneDispAt s d c).fab = s.fab ∧ (doneDispAt s d c).dmc = s.dmc ∧ (doneDispAt s d c).chn = s.chn ∧ (doneDispAt s d c).saf = s.saf ∧
      (doneDispAt s d c).wdg = s.wdg ∧ (doneDispAt s d c).dbg = s.dbg ∧ (doneDispAt s d c).tap = s.tap ∧ (doneDispAt s d c).cal = s.cal ∧
      (doneDispAt s d c).lse = s.lse ∧ (doneDispAt s d c).pso = s.pso ∧ (doneDispAt s d c).srv = s.srv ∧ (doneDispAt s d c).lpe = s.lpe ∧
      (doneDispAt s d c).twn = s.twn ∧ (doneDispAt s d c).rw = s.rw ∧ (doneDispAt s d c).latch = s.latch ∧ (doneDispAt s d c).staged = s.staged ∧
      (doneDispAt s d c).snapBusy = s.snapBusy ∧ (doneDispAt s d c).free = s.free ∧ (doneDispAt s d c).mem = s.mem ∧ (doneDispAt s d c).shown = s.shown := by
  refine ⟨rfl, rfl, rfl, rfl, rfl, rfl, rfl, rfl, rfl, rfl, rfl, rfl, rfl, rfl, rfl, rfl, rfl, rfl, rfl, rfl, rfl, rfl, rfl, rfl, rfl, rfl⟩

@[simp] theorem doneDispAt_tsq (s : State) (d c : Nat) :
    (doneDispAt s d c).tsq = { s.tsq with disp := lmod s.tsq.disp d fun x => { x with done := true, endAt := c } } := rfl

@[simp] theorem outAdd_frame (s : State) (src tag : Nat) : (outAdd s src tag).pending = s.pending ∧ (outAdd s src tag).clk = s.clk ∧
      (outAdd s src tag).pwr = s.pwr ∧ (outAdd s src tag).pins = s.pins ∧ (outAdd s src tag).boot = s.boot ∧ (outAdd s src tag).tsq = s.tsq ∧
      (outAdd s src tag).fld = s.fld ∧ (outAdd s src tag).dmc = s.dmc ∧ (outAdd s src tag).chn = s.chn ∧ (outAdd s src tag).saf = s.saf ∧
      (outAdd s src tag).wdg = s.wdg ∧ (outAdd s src tag).dbg = s.dbg ∧ (outAdd s src tag).tap = s.tap ∧ (outAdd s src tag).cal = s.cal ∧
      (outAdd s src tag).lse = s.lse ∧ (outAdd s src tag).pso = s.pso ∧ (outAdd s src tag).srv = s.srv ∧ (outAdd s src tag).lpe = s.lpe ∧
      (outAdd s src tag).twn = s.twn ∧ (outAdd s src tag).rw = s.rw ∧ (outAdd s src tag).latch = s.latch ∧ (outAdd s src tag).staged = s.staged ∧
      (outAdd s src tag).snapBusy = s.snapBusy ∧ (outAdd s src tag).free = s.free ∧ (outAdd s src tag).mem = s.mem ∧ (outAdd s src tag).shown = s.shown := by
  refine ⟨rfl, rfl, rfl, rfl, rfl, rfl, rfl, rfl, rfl, rfl, rfl, rfl, rfl, rfl, rfl, rfl, rfl, rfl, rfl, rfl, rfl, rfl, rfl, rfl, rfl, rfl⟩

@[simp] theorem outAdd_fab (s : State) (src tag : Nat) :
    (outAdd s src tag).fab = { s.fab with out := aset s.fab.out src (alook s.fab.out src + 1), tags := (src, tag) :: s.fab.tags } := rfl

@[simp] theorem outSub_frame (s : State) (src tag : Nat) : (outSub s src tag).pending = s.pending ∧ (outSub s src tag).clk = s.clk ∧
      (outSub s src tag).pwr = s.pwr ∧ (outSub s src tag).pins = s.pins ∧ (outSub s src tag).boot = s.boot ∧ (outSub s src tag).tsq = s.tsq ∧
      (outSub s src tag).fld = s.fld ∧ (outSub s src tag).dmc = s.dmc ∧ (outSub s src tag).chn = s.chn ∧ (outSub s src tag).saf = s.saf ∧
      (outSub s src tag).wdg = s.wdg ∧ (outSub s src tag).dbg = s.dbg ∧ (outSub s src tag).tap = s.tap ∧ (outSub s src tag).cal = s.cal ∧
      (outSub s src tag).lse = s.lse ∧ (outSub s src tag).pso = s.pso ∧ (outSub s src tag).srv = s.srv ∧ (outSub s src tag).lpe = s.lpe ∧
      (outSub s src tag).twn = s.twn ∧ (outSub s src tag).rw = s.rw ∧ (outSub s src tag).latch = s.latch ∧ (outSub s src tag).staged = s.staged ∧
      (outSub s src tag).snapBusy = s.snapBusy ∧ (outSub s src tag).free = s.free ∧ (outSub s src tag).mem = s.mem ∧ (outSub s src tag).shown = s.shown := by
  refine ⟨rfl, rfl, rfl, rfl, rfl, rfl, rfl, rfl, rfl, rfl, rfl, rfl, rfl, rfl, rfl, rfl, rfl, rfl, rfl, rfl, rfl, rfl, rfl, rfl, rfl, rfl⟩

@[simp] theorem outSub_fab (s : State) (src tag : Nat) :
    (outSub s src tag).fab = { s.fab with out := aset s.fab.out src (alook s.fab.out src - 1), tags := s.fab.tags.erase (src, tag) } := rfl

@[simp] theorem modPort_frame (s : State) (p : Nat) (f : Port → Port) : (modPort s p f).pending = s.pending ∧
      (modPort s p f).clk = s.clk ∧ (modPort s p f).pwr = s.pwr ∧ (modPort s p f).pins = s.pins ∧ (modPort s p f).boot = s.boot ∧
      (modPort s p f).tsq = s.tsq ∧ (modPort s p f).fld = s.fld ∧ (modPort s p f).fab = s.fab ∧ (modPort s p f).dmc = s.dmc ∧
      (modPort s p f).saf = s.saf ∧ (modPort s p f).wdg = s.wdg ∧ (modPort s p f).dbg = s.dbg ∧ (modPort s p f).tap = s.tap ∧
      (modPort s p f).cal = s.cal ∧ (modPort s p f).lse = s.lse ∧ (modPort s p f).pso = s.pso ∧ (modPort s p f).srv = s.srv ∧
      (modPort s p f).lpe = s.lpe ∧ (modPort s p f).twn = s.twn ∧ (modPort s p f).rw = s.rw ∧ (modPort s p f).latch = s.latch ∧
      (modPort s p f).staged = s.staged ∧ (modPort s p f).snapBusy = s.snapBusy ∧ (modPort s p f).free = s.free ∧
      (modPort s p f).mem = s.mem ∧ (modPort s p f).shown = s.shown := by
  refine ⟨rfl, rfl, rfl, rfl, rfl, rfl, rfl, rfl, rfl, rfl, rfl, rfl, rfl, rfl, rfl, rfl, rfl, rfl, rfl, rfl, rfl, rfl, rfl, rfl, rfl, rfl⟩

@[simp] theorem modRank_frame (s : State) (p : Nat) (f : PRank → PRank) : (modRank s p f).pending = s.pending ∧
      (modRank s p f).clk = s.clk ∧ (modRank s p f).pwr = s.pwr ∧ (modRank s p f).pins = s.pins ∧ (modRank s p f).boot = s.boot ∧
      (modRank s p f).tsq = s.tsq ∧ (modRank s p f).fld = s.fld ∧ (modRank s p f).fab = s.fab ∧ (modRank s p f).chn = s.chn ∧
      (modRank s p f).saf = s.saf ∧ (modRank s p f).wdg = s.wdg ∧ (modRank s p f).dbg = s.dbg ∧ (modRank s p f).tap = s.tap ∧
      (modRank s p f).cal = s.cal ∧ (modRank s p f).lse = s.lse ∧ (modRank s p f).pso = s.pso ∧ (modRank s p f).srv = s.srv ∧
      (modRank s p f).lpe = s.lpe ∧ (modRank s p f).twn = s.twn ∧ (modRank s p f).rw = s.rw ∧ (modRank s p f).latch = s.latch ∧
      (modRank s p f).staged = s.staged ∧ (modRank s p f).snapBusy = s.snapBusy ∧ (modRank s p f).free = s.free ∧
      (modRank s p f).mem = s.mem ∧ (modRank s p f).shown = s.shown := by
  refine ⟨rfl, rfl, rfl, rfl, rfl, rfl, rfl, rfl, rfl, rfl, rfl, rfl, rfl, rfl, rfl, rfl, rfl, rfl, rfl, rfl, rfl, rfl, rfl, rfl, rfl, rfl⟩

@[simp] theorem modRank_dmc (s : State) (p : Nat) (f : PRank → PRank) :
    (modRank s p f).dmc = { s.dmc with ranks := lmod s.dmc.ranks p f } := rfl

@[simp] theorem modRmt_frame (s : State) (lr : Nat) (f : RankMap → RankMap) : (modRmt s lr f).pending = s.pending ∧
      (modRmt s lr f).clk = s.clk ∧ (modRmt s lr f).pwr = s.pwr ∧ (modRmt s lr f).pins = s.pins ∧ (modRmt s lr f).boot = s.boot ∧
      (modRmt s lr f).tsq = s.tsq ∧ (modRmt s lr f).fld = s.fld ∧ (modRmt s lr f).fab = s.fab ∧ (modRmt s lr f).chn = s.chn ∧
      (modRmt s lr f).saf = s.saf ∧ (modRmt s lr f).wdg = s.wdg ∧ (modRmt s lr f).dbg = s.dbg ∧ (modRmt s lr f).tap = s.tap ∧
      (modRmt s lr f).cal = s.cal ∧ (modRmt s lr f).lse = s.lse ∧ (modRmt s lr f).pso = s.pso ∧ (modRmt s lr f).srv = s.srv ∧
      (modRmt s lr f).lpe = s.lpe ∧ (modRmt s lr f).twn = s.twn ∧ (modRmt s lr f).rw = s.rw ∧ (modRmt s lr f).latch = s.latch ∧
      (modRmt s lr f).staged = s.staged ∧ (modRmt s lr f).snapBusy = s.snapBusy ∧ (modRmt s lr f).free = s.free ∧
      (modRmt s lr f).mem = s.mem ∧ (modRmt s lr f).shown = s.shown := by
  refine ⟨rfl, rfl, rfl, rfl, rfl, rfl, rfl, rfl, rfl, rfl, rfl, rfl, rfl, rfl, rfl, rfl, rfl, rfl, rfl, rfl, rfl, rfl, rfl, rfl, rfl, rfl⟩

@[simp] theorem modRmt_dmc (s : State) (lr : Nat) (f : RankMap → RankMap) :
    (modRmt s lr f).dmc = { s.dmc with rmt := lmod s.dmc.rmt lr f } := rfl

@[simp] theorem modChan_frame (s : State) (c : Nat) (f : Chan → Chan) : (modChan s c f).pending = s.pending ∧
      (modChan s c f).clk = s.clk ∧ (modChan s c f).pwr = s.pwr ∧ (modChan s c f).pins = s.pins ∧ (modChan s c f).boot = s.boot ∧
      (modChan s c f).tsq = s.tsq ∧ (modChan s c f).fld = s.fld ∧ (modChan s c f).fab = s.fab ∧ (modChan s c f).chn = s.chn ∧
      (modChan s c f).saf = s.saf ∧ (modChan s c f).wdg = s.wdg ∧ (modChan s c f).dbg = s.dbg ∧ (modChan s c f).tap = s.tap ∧
      (modChan s c f).cal = s.cal ∧ (modChan s c f).lse = s.lse ∧ (modChan s c f).pso = s.pso ∧ (modChan s c f).srv = s.srv ∧
      (modChan s c f).lpe = s.lpe ∧ (modChan s c f).twn = s.twn ∧ (modChan s c f).rw = s.rw ∧ (modChan s c f).latch = s.latch ∧
      (modChan s c f).staged = s.staged ∧ (modChan s c f).snapBusy = s.snapBusy ∧ (modChan s c f).free = s.free ∧
      (modChan s c f).mem = s.mem ∧ (modChan s c f).shown = s.shown := by
  refine ⟨rfl, rfl, rfl, rfl, rfl, rfl, rfl, rfl, rfl, rfl, rfl, rfl, rfl, rfl, rfl, rfl, rfl, rfl, rfl, rfl, rfl, rfl, rfl, rfl, rfl, rfl⟩

@[simp] theorem modChan_dmc (s : State) (c : Nat) (f : Chan → Chan) :
    (modChan s c f).dmc = { s.dmc with ch := lmod s.dmc.ch c f } := rfl

@[simp] theorem modRx_frame (s : State) (r : Nat) (f : CsiRx → CsiRx) : (modRx s r f).pending = s.pending ∧ (modRx s r f).clk = s.clk ∧
      (modRx s r f).pwr = s.pwr ∧ (modRx s r f).pins = s.pins ∧ (modRx s r f).boot = s.boot ∧ (modRx s r f).tsq = s.tsq ∧
      (modRx s r f).fld = s.fld ∧ (modRx s r f).fab = s.fab ∧ (modRx s r f).dmc = s.dmc ∧ (modRx s r f).chn = s.chn ∧
      (modRx s r f).saf = s.saf ∧ (modRx s r f).wdg = s.wdg ∧ (modRx s r f).dbg = s.dbg ∧ (modRx s r f).tap = s.tap ∧
      (modRx s r f).cal = s.cal ∧ (modRx s r f).lse = s.lse ∧ (modRx s r f).pso = s.pso ∧ (modRx s r f).srv = s.srv ∧
      (modRx s r f).twn = s.twn ∧ (modRx s r f).rw = s.rw ∧ (modRx s r f).latch = s.latch ∧ (modRx s r f).staged = s.staged ∧
      (modRx s r f).snapBusy = s.snapBusy ∧ (modRx s r f).free = s.free ∧ (modRx s r f).mem = s.mem ∧ (modRx s r f).shown = s.shown := by
  refine ⟨rfl, rfl, rfl, rfl, rfl, rfl, rfl, rfl, rfl, rfl, rfl, rfl, rfl, rfl, rfl, rfl, rfl, rfl, rfl, rfl, rfl, rfl, rfl, rfl, rfl, rfl⟩

@[simp] theorem modRx_lpe (s : State) (r : Nat) (f : CsiRx → CsiRx) :
    (modRx s r f).lpe = { s.lpe with rx := lmod s.lpe.rx r f } := rfl

@[simp] theorem modCtx_frame (s : State) (c : Nat) (f : LpeCtx → LpeCtx) : (modCtx s c f).pending = s.pending ∧
      (modCtx s c f).clk = s.clk ∧ (modCtx s c f).pwr = s.pwr ∧ (modCtx s c f).pins = s.pins ∧ (modCtx s c f).boot = s.boot ∧
      (modCtx s c f).tsq = s.tsq ∧ (modCtx s c f).fld = s.fld ∧ (modCtx s c f).fab = s.fab ∧ (modCtx s c f).dmc = s.dmc ∧
      (modCtx s c f).chn = s.chn ∧ (modCtx s c f).saf = s.saf ∧ (modCtx s c f).wdg = s.wdg ∧ (modCtx s c f).dbg = s.dbg ∧
      (modCtx s c f).tap = s.tap ∧ (modCtx s c f).cal = s.cal ∧ (modCtx s c f).lse = s.lse ∧ (modCtx s c f).pso = s.pso ∧
      (modCtx s c f).srv = s.srv ∧ (modCtx s c f).twn = s.twn ∧ (modCtx s c f).rw = s.rw ∧ (modCtx s c f).latch = s.latch ∧
      (modCtx s c f).staged = s.staged ∧ (modCtx s c f).snapBusy = s.snapBusy ∧ (modCtx s c f).free = s.free ∧
      (modCtx s c f).mem = s.mem ∧ (modCtx s c f).shown = s.shown := by
  refine ⟨rfl, rfl, rfl, rfl, rfl, rfl, rfl, rfl, rfl, rfl, rfl, rfl, rfl, rfl, rfl, rfl, rfl, rfl, rfl, rfl, rfl, rfl, rfl, rfl, rfl, rfl⟩

@[simp] theorem modCtx_lpe (s : State) (c : Nat) (f : LpeCtx → LpeCtx) :
    (modCtx s c f).lpe = { s.lpe with ctx := lmod s.lpe.ctx c f } := rfl

@[simp] theorem modPso_frame (s : State) (e : Nat) (f : PsoEng → PsoEng) : (modPso s e f).pending = s.pending ∧
      (modPso s e f).clk = s.clk ∧ (modPso s e f).pwr = s.pwr ∧ (modPso s e f).pins = s.pins ∧ (modPso s e f).boot = s.boot ∧
      (modPso s e f).tsq = s.tsq ∧ (modPso s e f).fld = s.fld ∧ (modPso s e f).fab = s.fab ∧ (modPso s e f).dmc = s.dmc ∧
      (modPso s e f).chn = s.chn ∧ (modPso s e f).saf = s.saf ∧ (modPso s e f).wdg = s.wdg ∧ (modPso s e f).dbg = s.dbg ∧
      (modPso s e f).tap = s.tap ∧ (modPso s e f).cal = s.cal ∧ (modPso s e f).lse = s.lse ∧ (modPso s e f).srv = s.srv ∧
      (modPso s e f).lpe = s.lpe ∧ (modPso s e f).twn = s.twn ∧ (modPso s e f).rw = s.rw ∧ (modPso s e f).latch = s.latch ∧
      (modPso s e f).staged = s.staged ∧ (modPso s e f).snapBusy = s.snapBusy ∧ (modPso s e f).free = s.free ∧
      (modPso s e f).mem = s.mem ∧ (modPso s e f).shown = s.shown := by
  refine ⟨rfl, rfl, rfl, rfl, rfl, rfl, rfl, rfl, rfl, rfl, rfl, rfl, rfl, rfl, rfl, rfl, rfl, rfl, rfl, rfl, rfl, rfl, rfl, rfl, rfl, rfl⟩

@[simp] theorem modPso_pso (s : State) (e : Nat) (f : PsoEng → PsoEng) :
    (modPso s e f).pso = { s.pso with eng := lmod s.pso.eng e f } := rfl

@[simp] theorem modLse_frame (s : State) (e : Nat) (f : LseEng → LseEng) : (modLse s e f).pending = s.pending ∧
      (modLse s e f).clk = s.clk ∧ (modLse s e f).pwr = s.pwr ∧ (modLse s e f).pins = s.pins ∧ (modLse s e f).boot = s.boot ∧
      (modLse s e f).tsq = s.tsq ∧ (modLse s e f).fld = s.fld ∧ (modLse s e f).fab = s.fab ∧ (modLse s e f).dmc = s.dmc ∧
      (modLse s e f).chn = s.chn ∧ (modLse s e f).saf = s.saf ∧ (modLse s e f).wdg = s.wdg ∧ (modLse s e f).dbg = s.dbg ∧
      (modLse s e f).tap = s.tap ∧ (modLse s e f).cal = s.cal ∧ (modLse s e f).pso = s.pso ∧ (modLse s e f).srv = s.srv ∧
      (modLse s e f).lpe = s.lpe ∧ (modLse s e f).twn = s.twn ∧ (modLse s e f).rw = s.rw ∧ (modLse s e f).latch = s.latch ∧
      (modLse s e f).staged = s.staged ∧ (modLse s e f).snapBusy = s.snapBusy ∧ (modLse s e f).free = s.free ∧
      (modLse s e f).mem = s.mem ∧ (modLse s e f).shown = s.shown := by
  refine ⟨rfl, rfl, rfl, rfl, rfl, rfl, rfl, rfl, rfl, rfl, rfl, rfl, rfl, rfl, rfl, rfl, rfl, rfl, rfl, rfl, rfl, rfl, rfl, rfl, rfl, rfl⟩

@[simp] theorem modLse_lse (s : State) (e : Nat) (f : LseEng → LseEng) :
    (modLse s e f).lse = { s.lse with eng := lmod s.lse.eng e f } := rfl

@[simp] theorem modLoop_frame (s : State) (l : Nat) (f : Loop → Loop) : (modLoop s l f).pending = s.pending ∧
      (modLoop s l f).clk = s.clk ∧ (modLoop s l f).pwr = s.pwr ∧ (modLoop s l f).pins = s.pins ∧ (modLoop s l f).boot = s.boot ∧
      (modLoop s l f).tsq = s.tsq ∧ (modLoop s l f).fld = s.fld ∧ (modLoop s l f).fab = s.fab ∧ (modLoop s l f).dmc = s.dmc ∧
      (modLoop s l f).chn = s.chn ∧ (modLoop s l f).saf = s.saf ∧ (modLoop s l f).wdg = s.wdg ∧ (modLoop s l f).dbg = s.dbg ∧
      (modLoop s l f).tap = s.tap ∧ (modLoop s l f).cal = s.cal ∧ (modLoop s l f).lse = s.lse ∧ (modLoop s l f).pso = s.pso ∧
      (modLoop s l f).lpe = s.lpe ∧ (modLoop s l f).twn = s.twn ∧ (modLoop s l f).rw = s.rw ∧ (modLoop s l f).latch = s.latch ∧
      (modLoop s l f).staged = s.staged ∧ (modLoop s l f).snapBusy = s.snapBusy ∧ (modLoop s l f).free = s.free ∧
      (modLoop s l f).mem = s.mem ∧ (modLoop s l f).shown = s.shown := by
  refine ⟨rfl, rfl, rfl, rfl, rfl, rfl, rfl, rfl, rfl, rfl, rfl, rfl, rfl, rfl, rfl, rfl, rfl, rfl, rfl, rfl, rfl, rfl, rfl, rfl, rfl, rfl⟩

@[simp] theorem modSafEng_frame (s : State) (e : Nat) (f : SafEng → SafEng) : (modSafEng s e f).pending = s.pending ∧
      (modSafEng s e f).clk = s.clk ∧ (modSafEng s e f).pwr = s.pwr ∧ (modSafEng s e f).pins = s.pins ∧ (modSafEng s e f).boot = s.boot ∧
      (modSafEng s e f).tsq = s.tsq ∧ (modSafEng s e f).fld = s.fld ∧ (modSafEng s e f).fab = s.fab ∧ (modSafEng s e f).dmc = s.dmc ∧
      (modSafEng s e f).chn = s.chn ∧ (modSafEng s e f).wdg = s.wdg ∧ (modSafEng s e f).dbg = s.dbg ∧ (modSafEng s e f).tap = s.tap ∧
      (modSafEng s e f).cal = s.cal ∧ (modSafEng s e f).lse = s.lse ∧ (modSafEng s e f).pso = s.pso ∧ (modSafEng s e f).srv = s.srv ∧
      (modSafEng s e f).lpe = s.lpe ∧ (modSafEng s e f).twn = s.twn ∧ (modSafEng s e f).rw = s.rw ∧ (modSafEng s e f).latch = s.latch ∧
      (modSafEng s e f).staged = s.staged ∧ (modSafEng s e f).snapBusy = s.snapBusy ∧ (modSafEng s e f).free = s.free ∧
      (modSafEng s e f).mem = s.mem ∧ (modSafEng s e f).shown = s.shown := by
  refine ⟨rfl, rfl, rfl, rfl, rfl, rfl, rfl, rfl, rfl, rfl, rfl, rfl, rfl, rfl, rfl, rfl, rfl, rfl, rfl, rfl, rfl, rfl, rfl, rfl, rfl, rfl⟩

@[simp] theorem modSafEng_saf (s : State) (e : Nat) (f : SafEng → SafEng) :
    (modSafEng s e f).saf = { s.saf with eng := lmod s.saf.eng e f } := rfl

@[simp] theorem setCond_frame (s : State) (code : Nat) (b : Bool) : (setCond s code b).pending = s.pending ∧
      (setCond s code b).clk = s.clk ∧ (setCond s code b).pwr = s.pwr ∧ (setCond s code b).pins = s.pins ∧
      (setCond s code b).boot = s.boot ∧ (setCond s code b).tsq = s.tsq ∧ (setCond s code b).fld = s.fld ∧
      (setCond s code b).fab = s.fab ∧ (setCond s code b).dmc = s.dmc ∧ (setCond s code b).chn = s.chn ∧ (setCond s code b).wdg = s.wdg ∧
      (setCond s code b).dbg = s.dbg ∧ (setCond s code b).tap = s.tap ∧ (setCond s code b).cal = s.cal ∧ (setCond s code b).lse = s.lse ∧
      (setCond s code b).pso = s.pso ∧ (setCond s code b).srv = s.srv ∧ (setCond s code b).lpe = s.lpe ∧ (setCond s code b).twn = s.twn ∧
      (setCond s code b).rw = s.rw ∧ (setCond s code b).latch = s.latch ∧ (setCond s code b).staged = s.staged ∧
      (setCond s code b).snapBusy = s.snapBusy ∧ (setCond s code b).free = s.free ∧ (setCond s code b).mem = s.mem ∧
      (setCond s code b).shown = s.shown := by
  refine ⟨rfl, rfl, rfl, rfl, rfl, rfl, rfl, rfl, rfl, rfl, rfl, rfl, rfl, rfl, rfl, rfl, rfl, rfl, rfl, rfl, rfl, rfl, rfl, rfl, rfl, rfl⟩

@[simp] theorem setCond_saf (s : State) (code : Nat) (b : Bool) :
    (setCond s code b).saf = { s.saf with cond := setBit s.saf.cond code b } := rfl

@[simp] theorem unqualify_frame (s : State) : (unqualify s).pending = s.pending ∧ (unqualify s).clk = s.clk ∧ (unqualify s).pwr = s.pwr ∧
      (unqualify s).pins = s.pins ∧ (unqualify s).boot = s.boot ∧ (unqualify s).tsq = s.tsq ∧ (unqualify s).fld = s.fld ∧
      (unqualify s).fab = s.fab ∧ (unqualify s).dmc = s.dmc ∧ (unqualify s).chn = s.chn ∧ (unqualify s).wdg = s.wdg ∧
      (unqualify s).dbg = s.dbg ∧ (unqualify s).tap = s.tap ∧ (unqualify s).cal = s.cal ∧ (unqualify s).lse = s.lse ∧
      (unqualify s).pso = s.pso ∧ (unqualify s).srv = s.srv ∧ (unqualify s).lpe = s.lpe ∧ (unqualify s).twn = s.twn ∧
      (unqualify s).rw = s.rw ∧ (unqualify s).latch = s.latch ∧ (unqualify s).staged = s.staged ∧ (unqualify s).snapBusy = s.snapBusy ∧
      (unqualify s).free = s.free ∧ (unqualify s).mem = s.mem ∧ (unqualify s).shown = s.shown := by
  refine ⟨rfl, rfl, rfl, rfl, rfl, rfl, rfl, rfl, rfl, rfl, rfl, rfl, rfl, rfl, rfl, rfl, rfl, rfl, rfl, rfl, rfl, rfl, rfl, rfl, rfl, rfl⟩

@[simp] theorem mapsDrop_frame (s : State) : (mapsDrop s).pending = s.pending ∧ (mapsDrop s).clk = s.clk ∧ (mapsDrop s).pwr = s.pwr ∧
      (mapsDrop s).pins = s.pins ∧ (mapsDrop s).boot = s.boot ∧ (mapsDrop s).tsq = s.tsq ∧ (mapsDrop s).fld = s.fld ∧
      (mapsDrop s).fab = s.fab ∧ (mapsDrop s).dmc = s.dmc ∧ (mapsDrop s).chn = s.chn ∧ (mapsDrop s).wdg = s.wdg ∧
      (mapsDrop s).dbg = s.dbg ∧ (mapsDrop s).tap = s.tap ∧ (mapsDrop s).cal = s.cal ∧ (mapsDrop s).lse = s.lse ∧
      (mapsDrop s).pso = s.pso ∧ (mapsDrop s).srv = s.srv ∧ (mapsDrop s).lpe = s.lpe ∧ (mapsDrop s).twn = s.twn ∧ (mapsDrop s).rw = s.rw ∧
      (mapsDrop s).latch = s.latch ∧ (mapsDrop s).staged = s.staged ∧ (mapsDrop s).snapBusy = s.snapBusy ∧ (mapsDrop s).free = s.free ∧
      (mapsDrop s).mem = s.mem ∧ (mapsDrop s).shown = s.shown := by
  refine ⟨rfl, rfl, rfl, rfl, rfl, rfl, rfl, rfl, rfl, rfl, rfl, rfl, rfl, rfl, rfl, rfl, rfl, rfl, rfl, rfl, rfl, rfl, rfl, rfl, rfl, rfl⟩

@[simp] theorem mapsDrop_saf (s : State) :
    (mapsDrop s).saf = { s.saf with eng := s.saf.eng.map fun x => { x with mapOk := false } } := rfl

@[simp] theorem safLog_frame (s : State) (code tcode chan zone : Nat) : (safLog s code tcode chan zone).pending = s.pending ∧
      (safLog s code tcode chan zone).clk = s.clk ∧ (safLog s code tcode chan zone).pwr = s.pwr ∧
      (safLog s code tcode chan zone).pins = s.pins ∧ (safLog s code tcode chan zone).boot = s.boot ∧
      (safLog s code tcode chan zone).tsq = s.tsq ∧ (safLog s code tcode chan zone).fld = s.fld ∧
      (safLog s code tcode chan zone).fab = s.fab ∧ (safLog s code tcode chan zone).dmc = s.dmc ∧
      (safLog s code tcode chan zone).chn = s.chn ∧ (safLog s code tcode chan zone).wdg = s.wdg ∧
      (safLog s code tcode chan zone).dbg = s.dbg ∧ (safLog s code tcode chan zone).tap = s.tap ∧
      (safLog s code tcode chan zone).cal = s.cal ∧ (safLog s code tcode chan zone).lse = s.lse ∧
      (safLog s code tcode chan zone).pso = s.pso ∧ (safLog s code tcode chan zone).srv = s.srv ∧
      (safLog s code tcode chan zone).lpe = s.lpe ∧ (safLog s code tcode chan zone).twn = s.twn ∧
      (safLog s code tcode chan zone).rw = s.rw ∧ (safLog s code tcode chan zone).latch = s.latch ∧
      (safLog s code tcode chan zone).staged = s.staged ∧ (safLog s code tcode chan zone).snapBusy = s.snapBusy ∧
      (safLog s code tcode chan zone).free = s.free ∧ (safLog s code tcode chan zone).mem = s.mem ∧
      (safLog s code tcode chan zone).shown = s.shown := by
  refine ⟨rfl, rfl, rfl, rfl, rfl, rfl, rfl, rfl, rfl, rfl, rfl, rfl, rfl, rfl, rfl, rfl, rfl, rfl, rfl, rfl, rfl, rfl, rfl, rfl, rfl, rfl⟩

@[simp] theorem sramPut_frame (s : State) (off : Nat) (b : Bytes) : (sramPut s off b).pending = s.pending ∧
      (sramPut s off b).clk = s.clk ∧ (sramPut s off b).pwr = s.pwr ∧ (sramPut s off b).pins = s.pins ∧ (sramPut s off b).boot = s.boot ∧
      (sramPut s off b).tsq = s.tsq ∧ (sramPut s off b).fld = s.fld ∧ (sramPut s off b).fab = s.fab ∧ (sramPut s off b).dmc = s.dmc ∧
      (sramPut s off b).chn = s.chn ∧ (sramPut s off b).saf = s.saf ∧ (sramPut s off b).wdg = s.wdg ∧ (sramPut s off b).dbg = s.dbg ∧
      (sramPut s off b).tap = s.tap ∧ (sramPut s off b).cal = s.cal ∧ (sramPut s off b).lse = s.lse ∧ (sramPut s off b).pso = s.pso ∧
      (sramPut s off b).srv = s.srv ∧ (sramPut s off b).lpe = s.lpe ∧ (sramPut s off b).twn = s.twn ∧ (sramPut s off b).rw = s.rw ∧
      (sramPut s off b).latch = s.latch ∧ (sramPut s off b).staged = s.staged ∧ (sramPut s off b).snapBusy = s.snapBusy ∧
      (sramPut s off b).free = s.free ∧ (sramPut s off b).shown = s.shown := by
  refine ⟨rfl, rfl, rfl, rfl, rfl, rfl, rfl, rfl, rfl, rfl, rfl, rfl, rfl, rfl, rfl, rfl, rfl, rfl, rfl, rfl, rfl, rfl, rfl, rfl, rfl, rfl⟩

@[simp] theorem sramPut_mem (s : State) (off : Nat) (b : Bytes) :
    (sramPut s off b).mem = { s.mem with sram := memPutAll none s.mem.sram off b } := rfl

@[simp] theorem tcmPut_frame (s : State) (off : Nat) (b : Bytes) : (tcmPut s off b).pending = s.pending ∧ (tcmPut s off b).clk = s.clk ∧
      (tcmPut s off b).pwr = s.pwr ∧ (tcmPut s off b).pins = s.pins ∧ (tcmPut s off b).boot = s.boot ∧ (tcmPut s off b).tsq = s.tsq ∧
      (tcmPut s off b).fld = s.fld ∧ (tcmPut s off b).fab = s.fab ∧ (tcmPut s off b).dmc = s.dmc ∧ (tcmPut s off b).chn = s.chn ∧
      (tcmPut s off b).saf = s.saf ∧ (tcmPut s off b).wdg = s.wdg ∧ (tcmPut s off b).dbg = s.dbg ∧ (tcmPut s off b).tap = s.tap ∧
      (tcmPut s off b).cal = s.cal ∧ (tcmPut s off b).lse = s.lse ∧ (tcmPut s off b).pso = s.pso ∧ (tcmPut s off b).srv = s.srv ∧
      (tcmPut s off b).lpe = s.lpe ∧ (tcmPut s off b).twn = s.twn ∧ (tcmPut s off b).rw = s.rw ∧ (tcmPut s off b).latch = s.latch ∧
      (tcmPut s off b).staged = s.staged ∧ (tcmPut s off b).snapBusy = s.snapBusy ∧ (tcmPut s off b).free = s.free ∧
      (tcmPut s off b).shown = s.shown := by
  refine ⟨rfl, rfl, rfl, rfl, rfl, rfl, rfl, rfl, rfl, rfl, rfl, rfl, rfl, rfl, rfl, rfl, rfl, rfl, rfl, rfl, rfl, rfl, rfl, rfl, rfl, rfl⟩

@[simp] theorem tcmPut_mem (s : State) (off : Nat) (b : Bytes) :
    (tcmPut s off b).mem = { s.mem with tcm := memPutAll none s.mem.tcm off b } := rfl

@[simp] theorem visPut_frame (s : State) (off : Nat) (b : Bytes) : (visPut s off b).pending = s.pending ∧ (visPut s off b).clk = s.clk ∧
      (visPut s off b).pwr = s.pwr ∧ (visPut s off b).pins = s.pins ∧ (visPut s off b).boot = s.boot ∧ (visPut s off b).tsq = s.tsq ∧
      (visPut s off b).fld = s.fld ∧ (visPut s off b).fab = s.fab ∧ (visPut s off b).dmc = s.dmc ∧ (visPut s off b).chn = s.chn ∧
      (visPut s off b).saf = s.saf ∧ (visPut s off b).wdg = s.wdg ∧ (visPut s off b).dbg = s.dbg ∧ (visPut s off b).tap = s.tap ∧
      (visPut s off b).cal = s.cal ∧ (visPut s off b).lse = s.lse ∧ (visPut s off b).pso = s.pso ∧ (visPut s off b).srv = s.srv ∧
      (visPut s off b).lpe = s.lpe ∧ (visPut s off b).twn = s.twn ∧ (visPut s off b).rw = s.rw ∧ (visPut s off b).latch = s.latch ∧
      (visPut s off b).staged = s.staged ∧ (visPut s off b).snapBusy = s.snapBusy ∧ (visPut s off b).free = s.free ∧
      (visPut s off b).shown = s.shown := by
  refine ⟨rfl, rfl, rfl, rfl, rfl, rfl, rfl, rfl, rfl, rfl, rfl, rfl, rfl, rfl, rfl, rfl, rfl, rfl, rfl, rfl, rfl, rfl, rfl, rfl, rfl, rfl⟩

@[simp] theorem visPut_mem (s : State) (off : Nat) (b : Bytes) :
    (visPut s off b).mem = { s.mem with vis := memPutAll none s.mem.vis off b } := rfl

@[simp] theorem nvmPut_frame (s : State) (a : Nat) (b : Bytes) : (nvmPut s a b).pending = s.pending ∧ (nvmPut s a b).clk = s.clk ∧
      (nvmPut s a b).pwr = s.pwr ∧ (nvmPut s a b).pins = s.pins ∧ (nvmPut s a b).boot = s.boot ∧ (nvmPut s a b).tsq = s.tsq ∧
      (nvmPut s a b).fld = s.fld ∧ (nvmPut s a b).fab = s.fab ∧ (nvmPut s a b).dmc = s.dmc ∧ (nvmPut s a b).chn = s.chn ∧
      (nvmPut s a b).saf = s.saf ∧ (nvmPut s a b).wdg = s.wdg ∧ (nvmPut s a b).dbg = s.dbg ∧ (nvmPut s a b).tap = s.tap ∧
      (nvmPut s a b).cal = s.cal ∧ (nvmPut s a b).lse = s.lse ∧ (nvmPut s a b).pso = s.pso ∧ (nvmPut s a b).srv = s.srv ∧
      (nvmPut s a b).lpe = s.lpe ∧ (nvmPut s a b).twn = s.twn ∧ (nvmPut s a b).rw = s.rw ∧ (nvmPut s a b).latch = s.latch ∧
      (nvmPut s a b).staged = s.staged ∧ (nvmPut s a b).snapBusy = s.snapBusy ∧ (nvmPut s a b).free = s.free ∧
      (nvmPut s a b).shown = s.shown := by
  refine ⟨rfl, rfl, rfl, rfl, rfl, rfl, rfl, rfl, rfl, rfl, rfl, rfl, rfl, rfl, rfl, rfl, rfl, rfl, rfl, rfl, rfl, rfl, rfl, rfl, rfl, rfl⟩

@[simp] theorem nvmPut_mem (s : State) (a : Nat) (b : Bytes) :
    (nvmPut s a b).mem = { s.mem with nvm := memPutAll (some 0xFF) s.mem.nvm a b } := rfl

@[simp] theorem dramPut_frame (s : State) (a : Nat) (b : Bytes) : (dramPut s a b).pending = s.pending ∧ (dramPut s a b).clk = s.clk ∧
      (dramPut s a b).pwr = s.pwr ∧ (dramPut s a b).pins = s.pins ∧ (dramPut s a b).boot = s.boot ∧ (dramPut s a b).tsq = s.tsq ∧
      (dramPut s a b).fld = s.fld ∧ (dramPut s a b).fab = s.fab ∧ (dramPut s a b).dmc = s.dmc ∧ (dramPut s a b).chn = s.chn ∧
      (dramPut s a b).saf = s.saf ∧ (dramPut s a b).wdg = s.wdg ∧ (dramPut s a b).dbg = s.dbg ∧ (dramPut s a b).tap = s.tap ∧
      (dramPut s a b).cal = s.cal ∧ (dramPut s a b).lse = s.lse ∧ (dramPut s a b).pso = s.pso ∧ (dramPut s a b).srv = s.srv ∧
      (dramPut s a b).lpe = s.lpe ∧ (dramPut s a b).twn = s.twn ∧ (dramPut s a b).rw = s.rw ∧ (dramPut s a b).latch = s.latch ∧
      (dramPut s a b).staged = s.staged ∧ (dramPut s a b).snapBusy = s.snapBusy ∧ (dramPut s a b).free = s.free ∧
      (dramPut s a b).shown = s.shown := by
  refine ⟨rfl, rfl, rfl, rfl, rfl, rfl, rfl, rfl, rfl, rfl, rfl, rfl, rfl, rfl, rfl, rfl, rfl, rfl, rfl, rfl, rfl, rfl, rfl, rfl, rfl, rfl⟩

@[simp] theorem dramPut_mem (s : State) (a : Nat) (b : Bytes) :
    (dramPut s a b).mem = { s.mem with dram := memPutAll (some 0) s.mem.dram a b } := rfl

@[simp] theorem useOutside_frame (s : State) : (useOutside s).pending = s.pending ∧ (useOutside s).clk = s.clk ∧
      (useOutside s).pwr = s.pwr ∧ (useOutside s).pins = s.pins ∧ (useOutside s).boot = s.boot ∧ (useOutside s).tsq = s.tsq ∧
      (useOutside s).fld = s.fld ∧ (useOutside s).fab = s.fab ∧ (useOutside s).dmc = s.dmc ∧ (useOutside s).chn = s.chn ∧
      (useOutside s).saf = s.saf ∧ (useOutside s).wdg = s.wdg ∧ (useOutside s).dbg = s.dbg ∧ (useOutside s).tap = s.tap ∧
      (useOutside s).cal = s.cal ∧ (useOutside s).lse = s.lse ∧ (useOutside s).pso = s.pso ∧ (useOutside s).srv = s.srv ∧
      (useOutside s).lpe = s.lpe ∧ (useOutside s).twn = s.twn ∧ (useOutside s).rw = s.rw ∧ (useOutside s).latch = s.latch ∧
      (useOutside s).staged = s.staged ∧ (useOutside s).snapBusy = s.snapBusy ∧ (useOutside s).mem = s.mem ∧
      (useOutside s).shown = s.shown := by
  refine ⟨rfl, rfl, rfl, rfl, rfl, rfl, rfl, rfl, rfl, rfl, rfl, rfl, rfl, rfl, rfl, rfl, rfl, rfl, rfl, rfl, rfl, rfl, rfl, rfl, rfl, rfl⟩

@[simp] theorem useOutside_free (s : State) :
    (useOutside s).free = s.free + 35 := rfl

@[simp] theorem snapDone_frame (s : State) (blk : Nat) : (snapDone s blk).pending = s.pending ∧ (snapDone s blk).clk = s.clk ∧
      (snapDone s blk).pwr = s.pwr ∧ (snapDone s blk).pins = s.pins ∧ (snapDone s blk).boot = s.boot ∧ (snapDone s blk).tsq = s.tsq ∧
      (snapDone s blk).fld = s.fld ∧ (snapDone s blk).fab = s.fab ∧ (snapDone s blk).dmc = s.dmc ∧ (snapDone s blk).chn = s.chn ∧
      (snapDone s blk).saf = s.saf ∧ (snapDone s blk).wdg = s.wdg ∧ (snapDone s blk).dbg = s.dbg ∧ (snapDone s blk).tap = s.tap ∧
      (snapDone s blk).cal = s.cal ∧ (snapDone s blk).lse = s.lse ∧ (snapDone s blk).pso = s.pso ∧ (snapDone s blk).srv = s.srv ∧
      (snapDone s blk).lpe = s.lpe ∧ (snapDone s blk).twn = s.twn ∧ (snapDone s blk).rw = s.rw ∧ (snapDone s blk).latch = s.latch ∧
      (snapDone s blk).staged = s.staged ∧ (snapDone s blk).free = s.free ∧ (snapDone s blk).mem = s.mem ∧
      (snapDone s blk).shown = s.shown := by
  refine ⟨rfl, rfl, rfl, rfl, rfl, rfl, rfl, rfl, rfl, rfl, rfl, rfl, rfl, rfl, rfl, rfl, rfl, rfl, rfl, rfl, rfl, rfl, rfl, rfl, rfl, rfl⟩

@[simp] theorem snapDone_snapBusy (s : State) (blk : Nat) :
    (snapDone s blk).snapBusy = s.snapBusy.filter fun x => x.1 != blk := rfl

/-- A watchdog that stands, or whose HKP is halted, does not count. -/
theorem wdgTime_stands (dt : Nat) (s : State) (h : wdgCounts s = false) : wdgTime dt s = s.wdg := by simp [wdgTime, h]

/-- One that the HKP's firmware services only counts. -/
theorem wdgTime_counts (dt : Nat) (s : State) (h : wdgCounts s = true) (hb : bootRomRuns s = false) :
    wdgTime dt s = { s.wdg with count := s.wdg.count + dt } := by simp [wdgTime, h, hb]

/-- A free value is taken only where the boot ROM services the watchdog. -/
theorem advance_free (w : When) (s : State) (h : wdgCounts s = false ∨ bootRomRuns s = false) : (advance w s).free = s.free := by
  rcases h with h | h <;> simp [advance, h]

/-- The time before a command moves the oscillators, the watchdog and domains from FENCE to DRAIN, and nothing else. -/
@[simp] theorem advance_frame (w : When) (s : State) :
      (advance w s).pending = s.pending ∧ (advance w s).pins = s.pins ∧ (advance w s).boot = s.boot ∧
      (advance w s).tsq = s.tsq ∧ (advance w s).fld = s.fld ∧ (advance w s).fab = s.fab ∧ (advance w s).dmc = s.dmc ∧
      (advance w s).chn = s.chn ∧ (advance w s).saf = s.saf ∧ (advance w s).dbg = s.dbg ∧ (advance w s).tap = s.tap ∧
      (advance w s).cal = s.cal ∧ (advance w s).lse = s.lse ∧ (advance w s).pso = s.pso ∧ (advance w s).srv = s.srv ∧
      (advance w s).lpe = s.lpe ∧ (advance w s).twn = s.twn ∧ (advance w s).rw = s.rw ∧
      (advance w s).latch = s.latch ∧ (advance w s).staged = s.staged ∧ (advance w s).snapBusy = s.snapBusy ∧
      (advance w s).mem = s.mem ∧ (advance w s).shown = s.shown :=
  ⟨rfl, rfl, rfl, rfl, rfl, rfl, rfl, rfl, rfl, rfl, rfl, rfl, rfl, rfl, rfl, rfl, rfl, rfl, rfl, rfl, rfl, rfl, rfl⟩

end Sys2Proof.Machine
end

