-- ==== Sys2Proof/WellFormed.lean ====
section
/-! DEFINITION. Which commands are well formed: every operand in the range that the spec gives it. What stands outside the chip sends only
such commands (assumption log entry 1); the meanings are total all the same. -/

namespace Sys2Proof

/-- 05 R122: one of the 24 fabric ports. -/
def Wr.wf (r : Wr) : Bool := decide (r.src < 24)

/-- 00 R4, Table 0-6: an aligned word of the register windows. -/
def regAddr (a : Nat) : Bool := decide (0x40000000 ≤ a ∧ a < 0x40100000 ∧ a % 4 = 0)

/-- 05 R122 to R125: a port, a 36-bit address, 1 to 256 bytes, an 8-bit tag, a class, and data where the kind carries them; a message
goes to a chain or the twin port. -/
def Req.wf (q : Req) : Bool :=
  decide (q.src < 24) && decide (q.fa < 2 ^ 36) && decide (1 ≤ q.flen ∧ q.flen ≤ 256) && decide (q.tag < 256) && decide (q.cls < 4) &&
    match q.kind with
    | .read => decide (q.data.length = 0)
    | .write => decide (q.data.length = q.flen)
    | .msg => decide (q.data.length = q.flen) && decide (20 ≤ q.dst ∧ q.dst ≤ 22)

/-- 07 R189, R190: a symbol of a data line's codeword (64 data, 8 check), or a byte of a check line. -/
def EccErr.wf (x : EccErr) : Bool := if x.check then decide (x.sym < 64) else decide (x.sym < 72)

/-- 13 R341: a virtual channel and a data type of CSI-2, pixels of at most 16 bits. -/
def CsiPacket.wf (p : CsiPacket) : Bool :=
  decide (p.kind < 5) && decide (p.vc < 16) && decide (p.dt < 64) && decide (p.hdr < 3) && p.pixels.all fun x => decide (x < 65536)

/-- 15 R392: an Ethernet frame from its destination address to its FCS. One shorter than 64 or longer than 9216 bytes is received too, and
dropped. -/
def ChainFrame.wf (f : ChainFrame) : Bool := decide (1 ≤ f.bytes.length)

/-- 16 R417: header fields of a Guosh frame. -/
def TwinFrame.wf (f : TwinFrame) : Bool := decide (f.offset < 2 ^ 32) && decide (f.seq < 2 ^ 64) && decide (f.payload.length ≤ 16384)

/-- 18 Table 18-5: conversions of the twelve sense channels. -/
def BoundaryIn.wf (b : BoundaryIn) : Bool := b.tsns.all fun p => decide (p.1 < 12) && decide (p.2 < 65536)

/-- 19 Table 19-1: a count of at most 64 words, an 8-byte argument, and the words it counts. -/
def SdpReq.wf (q : SdpReq) : Bool := decide (q.cnt ≤ 64) && decide (q.arg < 2 ^ 64) && decide (q.data.length ≤ 64)

/-- 19 R501: the registers X1 to X31 and the two that stand beside them in the view. -/
def HkpView.wf (h : HkpView) : Bool := decide (h.regs.length ≤ 32)

/-- Every operand is in its range. -/
def wellFormed (i : Instr) : Bool :=
  match i with
  | .tickBoundary _ i => i.wf
  | .mailboxPush _ r => r.wf
  | .wait _ _ => true
  | .barrier _ _ => true
  | .slotOverrun _ _ => true
  | .deadline _ _ => true
  | .guardminClr _ r => r.wf
  | .mresselWrite _ r => r.wf
  | .flogselWrite _ r => r.wf
  | .wideLowRead _ src addr => decide (src < 24) && regAddr addr
  | .wideHighWrite _ addr r => regAddr addr && r.wf
  | .wideLowWrite _ addr r => regAddr addr && r.wf
  | .registerWrite _ _ _ r => r.wf
  | .snapCopyDone _ blk => decide (blk < 16)
  | .fldSnap _ r => r.wf
  | .fldStart _ r => r.wf
  | .baseImageReceived _ _ _ => true
  | .bootSourceTimeout _ => true
  | .bootRetry _ => true
  | .hotCheck _ r => r.wf
  | .hotDiscard _ r => r.wf
  | .hotCheckDone _ => true
  | .svbump _ r => r.wf
  | .fabricRequest _ q => q.wf
  | .egressDequeue _ e => decide (e < 7)
  | .responseDelivery _ src => decide (src < 25)
  | .qselWrite _ r => r.wf
  | .drainEnd _ dom => decide (dom < 64)
  | .flushEnd _ dom => decide (dom < 64)
  | .isolateEnd _ dom => decide (dom < 64)
  | .powerSwitchOpen _ dom => decide (dom < 64)
  | .dramRead _ _ errs => (errs.all EccErr.wf)
  | .dramWrite _ _ errs => (errs.all EccErr.wf)
  | .refab _ _ => true
  | .refpb _ _ => true
  | .mrr4 _ _ => true
  | .rfmab _ _ => true
  | .rfmpb _ _ => true
  | .zqlat _ _ => true
  | .sre _ _ => true
  | .srx _ _ => true
  | .mr4Return _ chan rank _ => decide (chan < 4 ∧ rank < 2)
  | .elasticIssue _ c errs => decide (c < 4) && (errs.all EccErr.wf)
  | .retireCondemn _ r => r.wf
  | .retireStart _ r => r.wf
  | .retireAbort _ r => r.wf
  | .migCopy _ _ => true
  | .freqStepDone _ _ => true
  | .freqChangeEnd _ => true
  | .bootTrainingDone _ _ rfm => decide (rfm.length ≤ 4)
  | .chmaxageClr _ c r => decide (c < 4) && r.wf
  | .elogselWrite _ r => r.wf
  | .field _ _ => true
  | .raster _ _ => true
  | .vector _ _ => true
  | .pathElementEnd _ e => decide (e < 4)
  | .lseSnap _ r => r.wf
  | .clrmax _ r => r.wf
  | .frselWrite _ r => r.wf
  | .colselWrite _ r => r.wf
  | .fetchArray _ _ => true
  | .fetchLines _ _ => true
  | .fetchElasticRead _ e => decide (e < 4)
  | .push _ _ => true
  | .commit _ _ => true
  | .commitSend _ e => decide (e < 4)
  | .commitLate _ e => decide (e < 4)
  | .retrain _ e r => decide (e < 4) && r.wf
  | .psoSnap _ r => r.wf
  | .compute _ _ => true
  | .drvWrite _ _ => true
  | .sharedDrvWrite _ _ => true
  | .snsSample _ ch j raws _ => decide (ch < 12) && decide (j < 16) && (raws.all fun x => x < 65536)
  | .srvSnap _ r => r.wf
  | .otpProgram _ r => r.wf
  | .otpProgramDone _ _ => true
  | .importRec _ r => r.wf
  | .importDone _ => true
  | .nvmRecordWriteDone _ _ => true
  | .nvmdataRead _ src => decide (src < 24)
  | .ratioselWrite _ r => r.wf
  | .calStep _ _ raws => (raws.all fun x => x < 65536)
  | .runTimeout _ => true
  | .csiPacketReceive _ rx p => decide (rx < 2) && p.wf
  | .process _ _ => true
  | .expose _ _ => true
  | .metric _ _ => true
  | .presence _ _ => true
  | .mapHandover _ _ => true
  | .frameDone _ c => decide (c < 8)
  | .lpeSnap _ r => r.wf
  | .intlkOpen _ => true
  | .intlkDisc _ _ _ => true
  | .scanloss _ e => decide (e < 4)
  | .overpower _ m => decide (m.chan < 16 ∧ m.lvl < 65536)
  | .tickloss _ => true
  | .clkloss _ => true
  | .strap _ _ => true
  | .lenfault _ n _ => decide (n < 16)
  | .force _ r => r.wf
  | .test _ r lat => r.wf && decide (lat < 65536)
  | .rearmRequest _ r => r.wf
  | .rearmholdExpiry _ => true
  | .zxinEdge _ e _ _ slow => decide (e < 4) && decide (slow < 4096)
  | .zoneselWrite _ r => r.wf
  | .logselWrite _ r => r.wf
  | .chainFrameReceive _ p f => decide (p < 2) && f.wf
  | .chainFrameTxStart _ q _ => decide (q < 2)
  | .txtailWrite _ r => r.wf
  | .hold _ _ => true
  | .send _ _ => true
  | .delayReqSend _ _ => true
  | .ptpMasterWrite _ addr r => regAddr addr && r.wf
  | .bootreq _ => true
  | .bootdone _ => true
  | .trefEdge _ => true
  | .twinLinkUp _ => true
  | .twinLinkDown _ => true
  | .bundle _ _ => true
  | .beat _ _ => true
  | .twnHold _ _ => true
  | .bundleReceive _ f => f.wf
  | .ackReceive _ f => f.wf
  | .beatReceive _ f => f.wf
  | .mirrorReceive _ f => f.wf
  | .stateReceive _ f => f.wf
  | .fwReceive _ f => f.wf
  | .bootReceive _ f => f.wf
  | .twinCopyRead _ => true
  | .joindone _ => true
  | .leadInChange _ _ => true
  | .partnerTimeout _ => true
  | .detach _ r => r.wf
  | .yield _ r => r.wf
  | .clrfault _ r => r.wf
  | .twnSnap _ r => r.wf
  | .domainUp _ r => r.wf
  | .domainDown _ r => r.wf
  | .powerUpStart _ => true
  | .domainFullyOn _ dom => decide (dom < 64)
  | .powerGoodFail _ dom => decide (dom < 64)
  | .planStart _ r => r.wf
  | .planCancel _ r => r.wf
  | .planTimeout _ => true
  | .safeDarkEntry _ r => r.wf
  | .wakeTimer _ => true
  | .wakeGp0 _ => true
  | .porstN _ _ _ => true
  | .resetN _ => true
  | .softwareReset _ r => r.wf
  | .brownout _ => true
  | .vaonLow _ => true
  | .inputEvent _ idx _ => decide (idx < 544)
  | .stale _ idx => decide (idx < 544)
  | .flashCommand _ r => r.wf
  | .flashCommandDone _ data => decide (data.length ≤ 4096)
  | .start _ r => r.wf
  | .stop _ r => r.wf
  | .loadcfg _ r => r.wf
  | .clrev _ r => r.wf
  | .wdgService _ r _ => r.wf
  | .wdgKeyExpiry _ => true
  | .wdgWarn _ => true
  | .wdgTimeout _ _ => true
  | .clklossBite _ => true
  | .lineReset _ _ => true
  | .ident _ q => q.wf
  | .connect _ q => q.wf
  | .disconnect _ q => q.wf
  | .reset _ q => q.wf
  | .memrd _ q => q.wf
  | .memwr _ q => q.wf
  | .memwrf _ q => q.wf
  | .hkphalt _ r h => r.wf && h.wf
  | .hkprun _ r => r.wf
  | .hkpstep _ r => r.wf
  | .pcBreakpoint _ h => h.wf
  | .tsqhalt _ r => r.wf
  | .tsqrun _ r => r.wf
  | .tstep _ r => r.wf
  | .tickSlotBreakpoint _ => true
  | .tapInstruction _ _ => true
  | .interlockClosed _ => true
  | .chnLinkUp _ p => decide (p < 2)
  | .chnLinkDown _ p => decide (p < 2)
  | .hkpStepEnd _ h => h.wf
  | .connectTimeout _ => true
  | .railRecovery _ => true
  | .tapReset _ => true
  | .pll0Lock _ => true

end Sys2Proof
end

