-- ==== Sys2Proof/Tests/Slice0.lean ====
section
/-! SUPPORT. Tests: ill-formed commands, the spec's worked examples and single steps of every family, and for each statement a state and
operands that meet its hypotheses. Expected values come from the spec's tables and examples, or are worked out by hand from them. -/

set_option maxRecDepth 100000
set_option Elab.async false

namespace Sys2Proof.Tests

open Sys2Proof Sys2Proof.Machine

/-! ### States to test on -/

def now : When := { dt := 0, da := 0, du := 0 }
def wr (src : Nat) (val : Word) : Wr := { src := src, val := val }

/-- The machine after reset with every domain fully on and PLL0 locked. -/
def up : State := { State.reset with
  clk := { State.reset.clk with on := true }
  pwr := { State.reset.pwr with doms := State.reset.pwr.doms.map fun x => { x with phase := .on } } }

/-- `up` with domain `d` in phase `p`. -/
def inPhase (d : Nat) (p : DomPhase) : State := modDom up d fun x => { x with phase := p }

/-- The state that a command leaves. -/
def run (c : Instr) (s : State) : State := match exec c s with | .next t => t | _ => State.reset

/-- `n` zero bytes with some of them set. -/
def bytes (n : Nat) (l : List (Nat × Nat)) : Bytes := l.foldl (fun b x => b.set x.1 (BitVec.ofNat 8 x.2)) (List.replicate n 0)

/-- A state with sections in force. -/
def withSecs (l : List (Nat × Bytes)) (s : State) : State :=
  { s with fld := { s.fld with secs := l.map fun x => { type := x.1, inst := 0, body := x.2 }, applied := true } }

/-- A dispatch of operation `op`, with the low 60 bits `p` of its payload. -/
def act (kind unit op p : Nat) : Disp :=
  { word := 0, kind := kind, unit := unit, res := 0, slot := 0, deadline := 0, span := 1, feedx := false, early := false, finish := 0
    payload := op * 2 ^ 60 + p, reps := [], done := false, overrun := false, late := false, held := false, endAt := 0 }

/-- `up` with one dispatch. -/
def ran (x : Disp) : State := { up with tsq := { up.tsq with disp := [x] } }

/-- An OTP array whose factory record and ceiling region are all zeros and carry good check words. -/
def goodOtp : Bytes :=
  List.replicate 0x7C 0 ++ leBytes 4 0x15D70E0C ++ List.replicate 0x80 0 ++ List.replicate 0xFC 0 ++ leBytes 4 0xA66359F1

/-- Engine 0 an array with red on channel 0, which may emit under OPEN; the machine runs set 0, not Dark, with that enable high. -/
def lit : State :=
  let s := withSecs [(Ty.engine, bytes 128 [(0, 1), (2, 1)]), (Ty.safety, bytes 128 [(0x40, 1), (0x42, 1)])] up
  { s with
    cal := { s.cal with otp := goodOtp }
    saf := { s.saf with dark := false, drive := 1 }
    tsq := { s.tsq with run := true, set := 0 } }

/-! ### Commands that are not well formed -/

def badReq : Req := { src := 2, kind := .write, fa := 0, flen := 4, tag := 0, cls := 0, dst := 0, data := [] }
def badPkt : CsiPacket := { kind := 0, vc := 16, dt := 0, hdr := 0, crcBad := false, sotBad := false, pixels := [], bytes := [] }
def farFrame : TwinFrame := { offset := 2 ^ 32, seq := 0, payload := [], good := true }
def longReq : SdpReq := { cnt := 65, arg := 0, data := [], crcOk := true }
def hotBoundary : BoundaryIn := { die := 0, tsns := [(12, 0)], trefPer := 0, trefRate := none }
def manyRegs : HkpView := { pc := 0, regs := List.replicate 33 0 }

theorem test_ill_source : wellFormed (.mailboxPush now (wr 24 0)) = false := by decide +kernel
theorem test_ill_reg_addr : wellFormed (.wideLowRead now 0 0x40000002) = false := by decide +kernel
theorem test_ill_reg_window : wellFormed (.ptpMasterWrite now 0x40100000 (wr 0 0)) = false := by decide +kernel
theorem test_ill_block : wellFormed (.snapCopyDone now 16) = false := by decide +kernel
theorem test_ill_request : wellFormed (.fabricRequest now badReq) = false := by decide +kernel
theorem test_ill_request_kinds : ({ badReq with kind := .read, flen := 257 } : Req).wf = false ∧ ({ badReq with src := 24 } : Req).wf = false ∧
    ({ badReq with kind := .read, fa := 2 ^ 36 } : Req).wf = false ∧ ({ badReq with kind := .read, tag := 256 } : Req).wf = false ∧
    ({ badReq with kind := .read, cls := 4 } : Req).wf = false ∧
    ({ badReq with kind := .msg, data := [0, 0, 0, 0] } : Req).wf = false ∧ ({ badReq with kind := .read } : Req).wf = true := by
  decide +kernel
theorem test_ill_egress : wellFormed (.egressDequeue now 7) = false := by decide +kernel
theorem test_ill_domain : wellFormed (.drainEnd now 64) = false := by decide +kernel
theorem test_ill_symbol : wellFormed (.dramRead now 0 [{ line := 0, check := false, sym := 72, mask := 1 }]) = false := by decide +kernel
theorem test_ill_check_byte : wellFormed (.dramWrite now 0 [{ line := 0, check := true, sym := 64, mask := 1 }]) = false := by decide +kernel
theorem test_ill_rank : wellFormed (.mr4Return now 4 0 0) = false ∧ wellFormed (.mr4Return now 0 2 0) = false := by decide +kernel
theorem test_ill_channel : wellFormed (.elasticIssue now 4 []) = false := by decide +kernel
theorem test_ill_rfm : wellFormed (.bootTrainingDone now 0 (List.replicate 5 (0, 0))) = false := by decide +kernel
theorem test_ill_engine : wellFormed (.pathElementEnd now 4) = false := by decide +kernel
theorem test_ill_sense : wellFormed (.snsSample now 12 0 [] true) = false ∧ wellFormed (.snsSample now 0 16 [] true) = false ∧
    wellFormed (.snsSample now 0 0 [65536] true) = false := by decide +kernel
theorem test_ill_raws : wellFormed (.calStep now 0 [65536]) = false := by decide +kernel
theorem test_ill_packet : wellFormed (.csiPacketReceive now 0 badPkt) = false ∧
    wellFormed (.csiPacketReceive now 2 { badPkt with vc := 0 }) = false ∧ ({ badPkt with vc := 0, kind := 5 } : CsiPacket).wf = false ∧
    ({ badPkt with vc := 0, dt := 64 } : CsiPacket).wf = false ∧ ({ badPkt with vc := 0, hdr := 3 } : CsiPacket).wf = false ∧
    ({ badPkt with vc := 0, pixels := [65536] } : CsiPacket).wf = false := by decide +kernel
theorem test_ill_context : wellFormed (.frameDone now 8) = false := by decide +kernel
theorem test_ill_enable : wellFormed (.overpower now ⟨16, 0⟩) = false ∧ wellFormed (.overpower now ⟨0, 65536⟩) = false := by decide +kernel
theorem test_ill_latency : wellFormed (.test now (wr 0 0) 65536) = false := by decide +kernel
theorem test_ill_slow : wellFormed (.zxinEdge now 0 true true 4096) = false := by decide +kernel
theorem test_ill_frame : wellFormed (.chainFrameReceive now 0 { bytes := [], fcsOk := true, ts := 0 }) = false := by decide +kernel
theorem test_ill_port : wellFormed (.chainFrameTxStart now 2 0) = false := by decide +kernel
theorem test_ill_twin : wellFormed (.beatReceive now farFrame) = false := by decide +kernel
theorem test_ill_input : wellFormed (.inputEvent now 544 0) = false := by decide +kernel
theorem test_ill_flash : wellFormed (.flashCommandDone now (List.replicate 4097 0)) = false := by decide +kernel
theorem test_ill_debug : wellFormed (.memrd now longReq) = false := by decide +kernel
theorem test_ill_boundary : wellFormed (.tickBoundary now hotBoundary) = false := by decide +kernel
theorem test_ill_view : wellFormed (.pcBreakpoint now manyRegs) = false := by decide +kernel
theorem test_well : wellFormed (.mailboxPush now (wr 23 0)) = true ∧ wellFormed (.tickloss now) = true := by decide +kernel

/-! ### Worked examples of the spec -/

/-- 02, example after R39: the lengths at 2400 Hz repeat as 416 667, 416 667 and 416 666 cycles. -/
theorem test_tick_lengths : nomLen 2400 0 = (416667, 800) ∧ nomLen 2400 800 = (416667, 1600) ∧ nomLen 2400 1600 = (416666, 0) := by
  decide +kernel

/-- 04 and 06: the MR4 poll of DMC2 rank 1 at slot 40. -/
def mr4Word : Nat := 0x10D80A00000200294200000004000000

theorem test_slot_word : swKind mr4Word = 1 ∧ swUnit mr4Word = 3 ∧ swRes mr4Word = 3 ∧ swSlot mr4Word = 40 ∧ swDeadline mr4Word = 0 ∧
    swSpan mr4Word = 1 ∧ swFinish mr4Word = 41 ∧ swFeedx mr4Word = false ∧ dwOp (swPayload mr4Word) = 4 ∧
    bitAt (swPayload mr4Word) 57 = true ∧ dwCount (swPayload mr4Word) = 1 := by decide +kernel

/-- 04, example before R108: the branch on the first 12 ticks after entry. -/
theorem test_branch_word :
    let w := 0xC0000000000000003000000030000040
    let e (age : Nat) : WalkEnv := { phase := 0, prev := 0, age := age, fsp := 0, param := [] }
    swKind w = 0xC ∧ branchTaken (e 11) (swPayload w) = true ∧ branchTaken (e 12) (swPayload w) = false := by decide +kernel

/-- 05 Table 5-4: the tags of the first frames of q0, q1 and q2, and of q2 after its idle spell. -/
def frameOf108 (n : Nat) : Pkt :=
  { req := { src := 0, kind := .msg, fa := 0, flen := n, tag := 0, cls := 0, dst := 20, data := [] }
    tgt := .none, hdrs := [], bad := [], forced := false, arr := 0, enq := 0, first := true, tag := none, doms := [], seq := 0 }

theorem test_tags :
    let g (v : Nat) : Egress := { lmode := 1, ovh := 20, v := v * 65536 }
    headTag (g 1000) { weight := 4, fl := 1000 * 65536 } (frameOf108 108) = 1032 * 65536 ∧
      headTag (g 1000) { weight := 16, fl := 1000 * 65536 } (frameOf108 1004) = 1064 * 65536 ∧
      headTag (g 1000) { weight := 2, credit := 512, fl := 1000 * 65536 } (frameOf108 236) = 1128 * 65536 ∧
      headTag (g 1384) { weight := 2, credit := 512, fl := 1256 * 65536 } (frameOf108 236) = 1384 * 65536 := by decide +kernel

/-- 06, example after R159: SA 0x1_0000_0000 on head 7C-a. -/
def headMap : Bytes :=
  bytes 64 [(0, 0xFF), (1, 1), (2, 7), (3, 28), (4, 1), (5, 0x87), (8, 0x80), (9, 0x82), (10, 0x84), (11, 0x86), (12, 0x81), (13, 0x83), (14, 0x85)]

theorem test_dram_map : dmSize headMap = 13153337344 ∧ saLine headMap 67108864 = (1, 9586980) ∧ linePos headMap 9586980 = { row := 21399, bank := 15, pos := 4 } ∧
    lineSa headMap 1 9586980 = 67108864 := by decide +kernel

/-- 11, example after R295: the power of the violet channel between two temperatures. -/
theorem test_power_mix : colMix 400000 372000 21299 = 390900 := by decide +kernel

/-- 11, example after R300: the dose at which PM-V2 reaches 0.75. -/
def pmV2 : Bytes :=
  patch (bytes 0x480 [(0x14, 6)]) 0x80 ((([(0, 0), (4000, 19661), (8000, 34079), (12000, 43254), (18000, 51118), (24000, 53740)] : List (Nat × Nat)).map
    fun x => leBytes 4 x.1 ++ leBytes 4 x.2).flatten)

theorem test_media_inverse : mediaInv pmV2 true 49152 = 16500 := by decide +kernel

/-- The check value of the CRC-32 of 03 R75, over the digits 1 to 9. -/
theorem test_crc : crc32 ([0x31, 0x32, 0x33, 0x34, 0x35, 0x36, 0x37, 0x38, 0x39] : Bytes) = 0xCBF43926 := by decide +kernel

/-- FIPS 180-4's example: SHA-256 of "abc" begins BA7816BF 8F01CFEA. -/
theorem test_sha : (sha256 [0x61, 0x62, 0x63]).take 8 = [0xBA, 0x78, 0x16, 0xBF, 0x8F, 0x01, 0xCF, 0xEA] := by decide +kernel

/-- 07 R187, R189: one wrong symbol of a data line is found, and so are two; an address that is not the line's own is not taken for an error
of the line. -/
theorem test_ecc :
    let line := bytes 64 [(3, 0x5A), (63, 0xFF)]
    let chk := lineCheck 1 77 line
    dataDecode 1 77 line chk = some [] ∧ dataDecode 1 77 (line.set 5 0x80) chk = some [(5, 0x80)] ∧
      dataDecode 1 77 ((line.set 5 0x80).set 60 1) chk = some [(5, 0x80), (60, 1)] ∧ dataDecode 1 78 line chk = none := by decide +kernel

/-! ### Single steps -/

/-- 00 Table 0-1: SYS_ID. 05 R125: an address that decodes to nothing. -/
def readReq (fa : Nat) : Req := { src := 2, kind := .read, fa := fa, flen := 4, tag := 7, cls := 0, dst := 0, data := [] }

theorem test_read_id : ((run (.fabricRequest now (readReq 0x40000000)) up).fab.rsp.map fun r => (r.status, r.data)) = [(0, [0x60, 0x24, 0x46, 0x4E])] := by
  decide +kernel
theorem test_read_hole : ((run (.fabricRequest now (readReq 0x50000000)) up).fab.rsp.map fun r => r.status) = [1] := by decide +kernel

/-- 04 R109: an empty staged entry is a bad operation. -/
theorem test_push_bad : (run (.mailboxPush now (wr 0 1)) up).tsq.drop = 1 ∧ (run (.mailboxPush now (wr 0 1)) up).tsq.mbox = [] := by decide +kernel
/-- 04 R108: two pushes in one cycle get stamps one apart. -/
theorem test_push_stamps :
    let s : State := { up with tsq := { up.tsq with stage := [(0, 0x05010000)] }, clk := { up.clk with cyc := 118402 } }
    (run (.mailboxPush now (wr 0 1)) (run (.mailboxPush now (wr 0 1)) s)).tsq.mbox.map (·.stamp) = [118402, 118403] := by decide +kernel

/-- 18 R478, R480: MAXEV 1 drops the second entry of a tick, the first one carries OVERRUN, and it ends the input's staleness. -/
theorem test_mailbox_events :
    let e (n : Nat) : MboxEntry := { stamp := n, src := 0, w := [0x05010000, n, 0, 0] }
    let s := withSecs [(Ty.inputs, bytes 0x460 [(0, 1), (inAt 0, 1), (inAt 0 + 14, 1)])]
      { up with tsq := { up.tsq with mbox := [e 3, e 9] }, pins := { up.pins with ins := [{ stale := true }] } }
    (mboxEvents s).tsq.mbox = [e 3] ∧ (mboxEvents s).pins.evq.map (fun v => (v.stamp, v.stale, v.ovr)) = [(3, false, true), (3, true, false)] ∧
      ((mboxEvents s).pins.ins.map fun x => (x.stale, x.drops)) = [(false, 1)] := by decide +kernel

/-- 00 R9: the high word that is read is the one latched with the low word. -/
theorem test_latch :
    let s : State := { up with shown := { up.shown with tsq := { up.tsq with tc := 0x1FFFFFFFF } } }
    (regRead (run (.wideLowRead now 2 (Base.tsq + 0x20)) s) 2 (Base.tsq + 0x24)).1 = 1 := by decide +kernel

/-- 14 R378: Dark lowers every enable at once; 14 Table 14-3: the cause. -/
theorem test_dark : lit.saf.drive = 1 ∧ (run (.tickloss now) lit).saf.drive = 0 ∧ (run (.tickloss now) lit).saf.cause = 6 := by decide +kernel
/-- 14 R379: the log keeps the newest first. -/
theorem test_dark_log : ((run (.overpower now ⟨0, 65535⟩) (run (.tickloss now) lit)).saf.log.map fun l => (l.code, l.wasdark)) = [(4, true), (6, false)] := by
  decide +kernel
/-- 14 R375: a level at the cap (0 here) is not above it. -/
theorem test_at_cap : (run (.overpower now ⟨0, 0⟩) lit).saf.log = [] := by decide +kernel

/-- 17 Table 17-3: AON takes no command (2), and domain 9's children hold it up (4). -/
theorem test_power_refused : (run (.domainDown now (wr 0 0x9D0E0200)) up).pwr.errCause = 2 ∧ (run (.domainDown now (wr 0 0x9D0E0209)) up).pwr.errCause ≠ 0 := by
  decide +kernel
/-- 05 R143: a domain that goes down waits in FENCE for one cycle. -/
theorem test_fence : (domAt (run (.domainDown now (wr 0 0x9D0E023C)) up) 60).phase = .fence ∧
    (domAt (run (.flashCommandDone { now with dt := 1 } []) (run (.domainDown now (wr 0 0x9D0E023C)) up)) 60).phase = .drain := by decide +kernel

/-- 19, example after R496: a service 4 ms after the one before, with WINDOW 5 ms, bites with cause EARLY. -/
theorem test_early_bite :
    let s : State := { up with wdg := { up.wdg with run := true, timeout := 50000000, window := 5000000, warn := 10000000, count := 4000000 } }
    (run (.wdgService now (wr 0 0x5AC3) 0) (run (.wdgService now (wr 0 0xC35A) 0) s)).wdg.evCause = 2 := by decide +kernel

/-- 18 R482, R481: RESET_N starts the core again, and PLL0's lock asks for the domains of step 5. -/
theorem test_reset_again : (run (.resetN now) up).boot.step = 5 ∧ domOn (run (.resetN now) up) 8 = false ∧
    (domAt (run (.pll0Lock now) (run (.resetN now) up)) 8).want = true := by decide +kernel

/-- 06 R179 and Table 6-7: a demand of 2x with the running set at 1x is a deficit; in self-refresh it is only recorded. -/
def polled (sr : Bool) : State := { up with dmc := { up.dmc with ranks := [{ mrrAt := some 0, sr := sr }] } }
theorem test_deficit : (run (.mr4Return now 0 0 10) (polled false)).tsq.fcnt.getD 3 0 = 1 ∧
    (run (.mr4Return now 0 0 10) (polled true)).tsq.fcnt.getD 3 0 = 0 ∧ (prankAt (run (.mr4Return now 0 0 10) (polled true)) 0).demand = 1 := by decide +kernel

/-- 08 R221: a FIELD word's light lies at its own cycle and length. -/
theorem test_field : (run (.field { now with dt := 512 } 0) (ran { act 4 0xD 0 (100 * 2 ^ 36 + 300 * 2 ^ 15) with slot := 2 })).lse.spans.map (fun x => (x.a, x.b)) = [(612, 912)] := by
  decide +kernel

/-- 13 R341: an uncorrectable header is counted. -/
def cameraOn : State := withSecs [(Ty.loupe, bytes 128 [(0x40, 1)])] up
theorem test_bad_header : ((run (.csiPacketReceive now 0 { badPkt with vc := 0, hdr := 2 }) cameraOn).lpe.rx.map (·.eccBad)) = [1, 0] := by decide +kernel

/-- 15 R392: a frame with a bad FCS is counted and dropped. -/
def linkUp : State := run (.chnLinkUp now 0) up
theorem test_bad_fcs : ((run (.chainFrameReceive now 0 { bytes := List.replicate 64 0, fcsOk := false, ts := 0 }) linkUp).chn.ports.map (·.fcs)) = [1, 0] := by
  decide +kernel

/-- 16 R437: LEAD_IN's level is kept. 12 R317: programming without BENCH_N sets PROGERR. -/
theorem test_lead_in : (run (.leadInChange now true) up).twn.leadIn = true := by decide +kernel
theorem test_otp_bench : (run (.otpProgram now (wr 0 0x0F5E0001)) { up with boot := { up.boot with straps := 8 } }).cal.progErr = true := by decide +kernel

/-- 19 Table 19-1: the reply to a locked part. -/
def askDebug : SdpReq := { cnt := 0, arg := 0, data := [], crcOk := true }
theorem test_bad_crc : (run (.ident now { askDebug with crcOk := false }) up).dbg.reply.take 1 = [2] := by decide +kernel
theorem test_debug_halt : (run (.tsqhalt now (wr 1 4)) up).saf.dark = true ∧ (run (.tsqhalt now (wr 1 4)) up).dbg.pend = true := by decide +kernel

/-- 10 R273: a loop without a COMPUTE word that may act drives nothing; 09 R252: nor does a PUSH word whose unit is another's. -/
theorem test_wrong_unit : (run (.compute now 0) (ran (act 5 0x21 0 0))).srv = up.srv ∧ (run (.push now 0) (ran (act 3 0xD 0 0))).pso = up.pso := by
  decide +kernel

/-! ### States that meet the hypotheses of each statement (Certificates/Slice0/Obligations.lean) -/

theorem witness_StepRunsFrontCommand : ({ up with pending := [.tickloss now] } : State).pending = .tickloss now :: [] := rfl
theorem witness_EmptyQueueIdles : State.reset.pending = [] := rfl
theorem witness_CommandsAnswerAndKeepQueue : ({ up with pending := [.tickloss now, .clkloss now] } : State).pending = .tickloss now :: [.clkloss now] := rfl
theorem witness_StepKeepsEnablesRight : EnablesRight lit ∧ ∃ t, step { lit with pending := [.tickloss now] } = .next t := by
  refine ⟨?_, _, rfl⟩
  unfold EnablesRight
  decide +kernel
theorem witness_EnablesRightIsSafe : EnablesRight lit ∧ 0 < 16 ∧ bitAt lit.saf.drive 0 = true ∧ 15 < 16 := by
  unfold EnablesRight
  decide +kernel
/-- The watchdog runs while the boot ROM does. -/
def romRuns : State := { up with wdg := { up.wdg with run := true, timeout := 1048576 }, boot := { up.boot with step := 6 } }
theorem witness_TimePasses : ¬ (up.wdg.run = true ∧ up.dbg.hkpHalt = false) ∧ romRuns.wdg.run = true ∧ romRuns.dbg.hkpHalt = false ∧
    bootRomRuns romRuns = true ∧ romRuns.clk.on = true ∧ 0 < romRuns.wdg.timeout ∧
    bootRomRuns { romRuns with boot := { romRuns.boot with hkpRun := true } } = false := by decide +kernel
theorem witness_CommandEndFrame : FabricCalm up := by
  unfold FabricCalm
  decide +kernel

theorem witness_MailboxPush :
    let s : State := { up with tsq := { up.tsq with mbox := [{ stamp := 0, src := 0, w := [] }] } }
    domOn s 5 = true ∧ bitAt (wr 0 1).val.toNat 0 = true ∧ s.tsq.mbox.getLast? = some { stamp := 0, src := 0, w := [] } := by decide +kernel

/-- A WAIT and a BARRIER at slot 0. -/
def ctls : State := { up with tsq := { up.tsq with
  disp := [{ act 1 1 0 0 with finish := 1 }]
  ctl := [{ word := 1, isWait := true, slot := 0, src := 1, dst := 9, mask := 0, before := 1, done := false },
          { word := 2, isWait := false, slot := 0, src := 0, dst := 0, mask := 2, before := 1, done := false }] } }
theorem witness_TickChecks_wait : (ctls.tsq.ctl[0]?.map fun c => (c.isWait, c.slot, c.done)) = some (true, 0, false) ∧
    (ctls.tsq.ctl[1]?.map fun c => (c.isWait, c.slot, c.done)) = some (false, 0, false) ∧
    (ctls.tsq.ctl[0]?.map fun c => lateUnits ctls c) = some [(1, 3)] ∧ (ctls.tsq.ctl[1]?.map fun c => lateUnits ctls c) = some [(1, 2)] := by decide +kernel
theorem witness_TickChecks_overrun :
    let x := { act 1 1 0 0 with finish := 1, deadline := 1 }
    let s : State := { ran x with clk := { up.clk with cyc := 256 } }
    s.tsq.disp[0]? = some x ∧ 256 * x.finish ≤ (advance now s).clk.cyc ∧ x.overrun = false ∧ isMetric x = false ∧ isMetric (act 6 0x21 2 0) = true ∧ ¬ (x.done = true ∧ x.endAt ≤ 256 * x.finish) ∧
      256 * x.deadline ≤ (advance now s).clk.cyc ∧ x.late = false ∧ x.deadline ≠ 0 ∧ ¬ (x.done = true ∧ x.endAt ≤ 256 * x.deadline) := by decide +kernel
theorem witness_ContractFault : 1 ≤ 1 ∧ 1 ≤ up.tsq.fcnt.length ∧ 6 ≤ up.tsq.fcnt.length := by decide +kernel
theorem witness_TickBoundaryShowsResults : up.clk.on = true ∧ up.clk.cyc ≤ up.clk.len ∧ State.reset.clk.on = false ∧
    ∃ r ∈ (regimeStep up [{ tag := 0, op := 1, status := 0, detail := 2, tc := 0 }] 0 true false).1, r.op = 1 := by decide +kernel
theorem witness_TsqRegisterCommands : domOn up 5 = true := by decide +kernel

theorem witness_WideRegisters_read : isWideLow (Base.tsq + 0x20) = true ∧ (Base.tsq + 0x20) % 4 = 0 ∧
    0x40000000 ≤ Base.tsq + 0x20 ∧ Base.tsq + 0x20 < 0x40100000 ∧ domOn up (regDom (Base.tsq + 0x20)) = true ∧ 0 < 2 ^ 32 ∧
    Base.tsq + 0x20 + 4 < 2 ^ 32 ∧ 1 ≠ 0 := by decide +kernel
theorem witness_WideRegisters_write : isWideHigh (Base.dbg + 0x24) = true ∧ mayWrite 1 (Base.dbg + 0x24) = true ∧ domOn up (regDom (Base.dbg + 0x24)) = true ∧
    widePair (Base.dbg + 0x20) = some (Base.dbg + 0x24) ∧ mayWrite 1 (Base.dbg + 0x20) = true ∧ domOn up (regDom (Base.dbg + 0x20)) = true ∧
    srcKey 2 (Base.dbg + 0x24) ≠ srcKey 1 (Base.dbg + 0x24) := by decide +kernel
theorem witness_RegisterWrite : 1 ≠ 4 ∧ 0x40000000 ≤ Base.lse ∧ Base.lse < 0x40100000 ∧ takesOutside Base.lse = false ∧
    domOn State.reset (regDom Base.lse) = false ∧ Base.lse % 4 = 0 ∧ mayWrite 2 (Base.dbg + 4) = false ∧ takesOutside (Base.dbg + 4) = false ∧
    takesOutside (Base.wdg + 4) = true ∧ domOn up (regDom (Base.wdg + 4)) = true ∧ domOn up (regDom Base.lse) = true ∧ 3 < 4 ∧ domOn up 5 = true ∧ domOn up 8 = true := by decide +kernel
theorem witness_SnapshotCommands : domOn up 10 = true ∧ domOn up 11 = true ∧ domOn up 56 = true ∧ domOn up 7 = true ∧ bitAt 2 1 = true ∧
    bitAt 2 2 = false ∧ bitAt 32 5 = true ∧ bits 32 31 16 ≠ 0x7A1D ∧ bitAt 32 4 = false := by decide +kernel

def checking : State := { up with fld := { up.fld with checking := true } }
theorem witness_HotImageControl :
    let lockd : State := { up with fld := { up.fld with staged := some { seq := 1, body := [], whole := [], secs := [] }, applyPend := 1 } }
    let fits : State := { withSecs [] up with fld := { (withSecs [] up).fld with secver := 5 } }
    domOn up 7 = true ∧ up.fld.checking = false ∧ checking.fld.checking = true ∧ lockd.fld.staged.isSome = true ∧ lockd.fld.applyPend ≠ 0 ∧
      up.fld.staged.isSome = false ∧ up.fld.applyPend = 0 ∧ bitAt 2 1 = true ∧ bitAt 2 0 = false ∧ bitAt 1 0 = true ∧
      0x10100000 ≤ rwGet { up with rw := [(Base.fld + 0x1C, 0x10100000)] } (Base.fld + 0x1C) 0 ∧
      ¬ ((0x10100000 ≤ rwGet up (Base.fld + 0x1C) 0 ∧ rwGet up (Base.fld + 0x1C) 0 < 0x10800000) ∨ 0x80000000 ≤ rwGet up (Base.fld + 0x1C) 0) ∧
      up.fld.hotBuf = none ∧ ({ checking with fld := { checking.fld with hotBuf := some [] } } : State).fld.hotBuf = some [] ∧
      bits 0x5EC00005 31 16 = 0x5EC0 ∧ fits.fld.applied = true ∧ minVerOf fits.cal.array < bits 0x5EC00005 7 0 ∧
      bits 0x5EC00005 7 0 ≤ fits.fld.secver := by decide +kernel
def onFlash : State := { up with fld := { up.fld with st := 1, left := [0, 1] } }
theorem witness_BootSourceSequence : domOn up 7 = true ∧ bitAt 0x10 4 = true ∧ bitAt 0x10 5 = false ∧ curSource onFlash = some 0 ∧
    (withSecs [] up).fld.applied = true ∧
    ({ up with fld := { up.fld with failedAt := some 0 } } : State).fld.failedAt = some 0 ∧ 0 + 1000000 ≤ (advance { now with du := 1000000 } up).clk.aon ∧
    up.fld.applied = false := by decide +kernel
theorem witness_BaseImageFromFlash :
    let l (n : Nat) : State := { onFlash with fld := { onFlash.fld with st := n, load := some { src := 1, data := [], hots := [] } } }
    (withSecs [] up).fld.applied = true ∧ onFlash.fld.applied = false ∧ onFlash.fld.load = none ∧ curSource onFlash = some 0 ∧
      (∀ n, n < 5 → curSource { onFlash with fld := { onFlash.fld with left := [n] } } = some n) ∧
      (l 2).fld.applied = false ∧ (l 2).fld.load = some { src := 1, data := [], hots := [] } ∧ (l 2).fld.st = 2 ∧
      (l 3).fld.applied = false ∧ (l 3).fld.load = some { src := 1, data := [], hots := [] } ∧ (l 3).fld.st = 3 := by decide +kernel
theorem witness_BaseImageFromFlash_rejects :
    containerFail false (padTo 0x800000 []) = some (1, 0x01, noSect) := by decide +kernel

theorem witness_FabricRequests_calm : FabricCalm (advance now up) := by
  unfold FabricCalm
  decide +kernel
theorem witness_FabricRequests_read :
    let q := readReq 0x103FFFFC
    mayIssue State.reset 2 = false ∧ mayIssue (advance now up) q.src = true ∧ up.fab.tags.contains (q.src, q.tag) = false ∧ q.kind = .read ∧
      0 < q.flen ∧ 0x10000000 ≤ q.fa ∧ q.fa + q.flen ≤ 0x10800000 ∧ ¬ (q.fa < 0x10400000 ∧ 0x10400000 < q.fa + q.flen) ∧
      domsOn up (targetDoms up (.sram (q.fa - 0x10000000)) q.flen) = true ∧ (readReq 0x50000000).kind ≠ .msg ∧
      0x50000000 ≤ (readReq 0x50000000).fa ∧ (readReq 0x50000000).fa + (readReq 0x50000000).flen ≤ 0x80000000 := by decide +kernel
def writeReq : Req := { src := 2, kind := .write, fa := 0x103FFFFE, flen := 2, tag := 7, cls := 0, dst := 0, data := [1, 2] }
theorem witness_FabricRequests_write : mayIssue (advance now up) writeReq.src = true ∧ up.fab.tags.contains (writeReq.src, writeReq.tag) = false ∧
    writeReq.kind = .write ∧ writeReq.data.length = writeReq.flen ∧ 0 < writeReq.flen ∧ 0x10000000 ≤ writeReq.fa ∧
    writeReq.fa + writeReq.flen ≤ 0x10800000 ∧ ¬ (writeReq.fa < 0x10400000 ∧ 0x10400000 < writeReq.fa + writeReq.flen) ∧
    domsOn up (targetDoms up (.sram (writeReq.fa - 0x10000000)) writeReq.flen) = true ∧ publishedIn up writeReq.fa writeReq.flen = false := by decide +kernel
/-- One response on its way, and one packet in queue 0 of every egress. -/
def busyFab : State := { run (.chnLinkUp now 0) up with fab := { up.fab with
  rsp := [{ src := 2, dst := 4, tag := 0, status := 0, data := [], seq := 0, own := false, hdr := 0, bad := [] }]
  eg := (List.range 7).map fun e => { qs := [{ weight := 1, pk := [{ frameOf108 64 with tag := some 1, req := { (frameOf108 64).req with dst := 16 + e } }] }] } } }
theorem witness_QueuesAndResponses_response :
    let waits : State := { busyFab with fab := { busyFab.fab with
      xfers := [{ src := 2, job := .impHead, todo := [], sent := [(0, 0)], next := 1, got := [], bad := [] }] } }
    let away := modDom busyFab (portDom 2) fun x => { x with phase := .off }
    nextRsp (advance now busyFab) 2 = some 0 ∧ nextRsp (advance now busyFab) 3 = none ∧ (busyFab.fab.rsp[0]?.map (·.tag)) = some 0 ∧
      portCut (advance now away) 2 = true ∧ nextRsp (advance now away) 2 = some 0 ∧ portCut (advance now busyFab) 2 = false ∧
      xferOf (advance now busyFab) 2 0 = none ∧ nextRsp (advance now waits) 2 = some 0 ∧ xferOf (advance now waits) 2 0 = some 0 := by decide +kernel
theorem witness_QueuesAndResponses_egress :
    let u := advance now busyFab
    let t := { busyFab with fab := { busyFab.fab with handed := [{ frameOf108 64 with seq := 9 }] } }
    let v := { busyFab with twn := { up.twn with up := true } }
    busyFab.fab.held = [] ∧ egPick (lget busyFab.fab.eg 4 {}) u.clk.mclk (chnReady u (4 - 4)) = some 0 ∧ t.fab.held = [] ∧
      egPick (lget t.fab.eg 4 {}) (advance now t).clk.mclk (chnReady (advance now t) (4 - 4)) = none ∧
      egPick (lget busyFab.fab.eg 5 {}) u.clk.mclk (chnReady u (5 - 4)) = none ∧ chnReady u (4 - 4) (frameOf108 64) = true ∧
      domOn (inPhase 20 .off) 20 = false ∧ (domAt (advance now (inPhase 20 .off)) 20).phase ≠ .drain ∧ domOn busyFab 20 = true ∧
      egPick (lget busyFab.fab.eg 0 {}) u.clk.mclk (fun p => dmcRoom u 0 p && !settleHeld u p) = some 0 ∧
      v.twn.up = true ∧ linkHeld (advance now v) = false ∧ v.fab.handed = [] ∧ v.fab.held = [] ∧ egPick (lget v.fab.eg 6 {}) (advance now v).clk.mclk (fun _ => true) = some 0 ∧
      linkHeld (advance now { v with clk := { v.clk with cyc := 0 }, tsq := { v.tsq with disp := [{ act 7 0x25 0 0 with span := 2 }] } }) = true ∧
      domOn up 8 = true := by decide +kernel
theorem witness_SmallestTagServed :
    let g := lget busyFab.fab.eg 0 {}
    (lget g.qs 0 {}).pk.map (·.tag) = [some ((1 + 0) % 2 ^ 48)] ∧ 0 < 2 ^ 47 ∧ egPick g 0 (fun _ => true) = some 0 ∧
      egPick {} 0 (fun _ => true) = none := by decide +kernel

theorem witness_PowerDownPhases :
    60 < up.pwr.doms.length ∧ (domAt (advance now (inPhase 60 .drain)) 60).phase = .drain ∧ domWork (advance now (inPhase 60 .drain)) 60 = false ∧
      (domAt (advance now (inPhase 60 .flush)) 60).phase = .flush ∧
      (let x := domAt (advance { now with dt := 64 } (inPhase 60 .isolate)) 60
       x.phase = .isolate ∧ x.opening = false ∧ x.c0 + 64 ≤ (advance { now with dt := 64 } (inPhase 60 .isolate)).clk.mclk) ∧
      (domAt (advance now up) 60).phase ≠ .drain ∧ (domAt (advance now up) 60).phase ≠ .flush ∧ (domAt (advance now up) 60).phase ≠ .isolate ∧
      domOn up 60 = true := by decide +kernel

/-- Domain 13 waits for its turn while all the others are on. -/
def waits : State := modDom up 13 fun x => { x with phase := .off, want := true }
theorem witness_DomainStartsAndSettles_start :
    ({ up with pwr := { up.pwr with lastStart := some 0 } } : State).pwr.lastStart = some (advance now up).clk.aon ∧
      (∀ d, d < 64 → ¬ ((domAt (advance now up) d).want = true)) ∧ waits.pwr.lastStart = none ∧
      (domAt (advance now waits) 13).want = true ∧ (domAt (advance now waits) 13).phase = .off ∧ (∀ p ∈ parents 13, domOn waits p = true) ∧
      (∀ c, c < 13 → ¬ ((domAt (advance now waits) c).want = true)) := by decide +kernel
theorem witness_DomainStartsAndSettles_settle :
    let a := inPhase 60 .powering
    let b := modDom up 19 fun x => { x with phase := .isolate, opening := true }
    (domAt (advance now up) 60).phase ≠ .powering ∧ (domAt (advance now a) 60).phase = .powering ∧ (domAt (advance now a) 60).queued = 0 ∧
      a.boot.step ≠ 5 ∧ a.fld.st ≠ 4 ∧ a.pwr.downLeft = [] ∧ a.pwr.planSt = 0 ∧ a.dbg.connWait = false ∧
      13 ≤ 19 ∧ 19 ≤ 19 ∧ (domAt (advance now b) 19).phase = .isolate ∧ (domAt (advance now b) 19).opening = true ∧ b.boot.step ≠ 5 := by decide +kernel

/-- Before DOMAINS is applied no domain is used; with a section that uses every domain, a command for domain 60 is not refused. -/
def usesAll : State := withSecs [(Ty.domains, bytes 0x700 ((List.range 8).map fun i => (i, 0xFF)))] up
def usesAllOff : State := modDom usesAll 60 fun x => { x with phase := .off }
theorem witness_PowerCommand :
    domOn up 8 = true ∧ bits 0x9D0E013C 31 16 = 0x9D0E ∧ bits 0x9D0E013C 9 8 = 1 ∧ bits 0x9D0E023C 9 8 = 2 ∧ bits 0x9D0E013C 5 0 = 60 ∧
      pwrRefusal (advance now up) 1 0 (dbgLock up) ≠ 0 ∧ pwrRefusal (advance now up) 2 0 (dbgLock up) ≠ 0 ∧
      pwrRefusal (advance now usesAllOff) 1 60 (dbgLock usesAllOff) = 0 ∧ (domAt (advance now usesAllOff) 60).phase = .off ∧
      pwrRefusal (advance now usesAll) 2 60 (dbgLock usesAll) = 0 ∧ (domAt (advance now usesAll) 60).phase = .on ∧
      bitAt (domUsed (withSecs [(Ty.domains, bytes 0x700 [])] up)) 60 = false ∧ isCommandDom 0 = false := by decide +kernel
theorem witness_PowerPlans :
    let r (n : Nat) : State := { usesAll with pwr := { usesAll.pwr with planSt := n } }
    let v := withSecs [(Ty.domains, bytes 0x700 [(0x501, 1)])] up
    domOn usesAll 8 = true ∧ bitAt 0x9D0E0010 4 = true ∧ bitAt 0x9D0E0000 4 = false ∧ (r 1).pwr.planSt = 1 ∧ planValid v 0 = true ∧ v.pwr.planSt = 0 ∧
      (r 2).pwr.planSt = 2 ∧ planTimeout (r 2) (r 2).pwr.plan ≤ (r 2).pwr.planTicks := by decide +kernel

def asleep : State := { up with pwr := { up.pwr with deep := true, wakeCfg := 0xC0000001 } }
theorem witness_SafeDark : domOn up 8 = true ∧ bits 0xDEE90001 31 16 = 0xDEE9 ∧ bitAt 0xDEE90001 0 = true ∧ up.pwr.deep = false ∧
    asleep.pwr.deep = true ∧ bitAt asleep.pwr.wakeCfg 31 = true ∧ bitAt asleep.pwr.wakeCfg 30 = true ∧ bits asleep.pwr.wakeCfg 19 0 ≠ 0 ∧
    asleep.pwr.deepAt + bits asleep.pwr.wakeCfg 19 0 * 1000000 ≤ (advance { now with du := 1000000 } asleep).clk.aon := by decide +kernel
theorem witness_CoreReset : domOn up 8 = true ∧ bits 0x5E7A0001 31 16 = 0x5E7A ∧ bitAt 0x5E7A0001 0 = true ∧ domOn up 0 = true ∧ up.pwr.deep = false ∧
    up.boot.brown = false ∧ domOn (inPhase 0 .off) 0 = false := by decide +kernel
theorem witness_PowerOnResetAndLock : up.pending = [] ∧ up.clk.on = true ∧ State.reset.clk.on = false ∧ State.reset.boot.brown = false ∧
    State.reset.tap.extest = false ∧ State.reset.pwr.deep = false ∧ domOn State.reset 0 = true ∧ 13 ≤ State.reset.pwr.doms.length := by decide +kernel
/-- GP0 belongs to GPIN. -/
def gpOwned : State := { up with pins := { up.pins with owner := [(gpBall 0, 1)], park := [(gpBall 0, 2)], mapped := true } }
theorem witness_InputEvents : 31 < 32 ∧ ownerOf gpOwned (gpBall 0) = 1 ∧ ballParked (advance now gpOwned) (gpBall 0) = false ∧
    bitAt gpOwned.pins.gpin 0 ≠ ((1 : Int) % 2 == 1) ∧ ownerOf up (gpBall 0) ≠ 1 ∧ inMaxEv (inputsB up) 0 ≤ 0 ∧
    (let s := withSecs [(Ty.inputs, bytes 0x460 [(0, 1), (inAt 0 + 14, 1), (inAt 0 + 8, 1)])] up
     0 < inMaxEv (inputsB s) 0 ∧ ({} : InSt).stale = false) ∧ staleDue (advance now up) 0 = false ∧
    staleDue (withSecs [(Ty.inputs, bytes 0x460 [(0, 1), (inAt 0, 3), (inAt 0 + 12, 1)])] { up with pins := { up.pins with ins := [{ age := 1 }] } }) 0 = true := by decide +kernel
theorem witness_FlashCommands :
    let s : State := { up with pins := { up.pins with flBusy := true }, rw := [(Base.sys + 0x240, 16), (Base.sys + 0x248, 0x10100000)] }
    let t : State := { s with rw := [(Base.sys + 0x240, 0x20010), (Base.sys + 0x248, 0x10100000)] }
    domOn s 8 = true ∧ s.pins.flBusy = true ∧ up.pins.flBusy = false ∧ bitAt (rwGet t (Base.sys + 0x240) 0) 17 = true ∧
      bitAt (rwGet s (Base.sys + 0x240) 0) 17 = false ∧ 0x10100000 ≤ rwGet s (Base.sys + 0x248) 0 ∧
      rwGet s (Base.sys + 0x248) 0 + 16 ≤ 0x10800000 := by decide +kernel

/-- A DRAM word that runs, one in a frequency change, and one to a channel that is off. -/
def dramWord : Disp := act 1 1 8 (2 ^ 26)
def inChange : State := { ran dramWord with dmc := { up.dmc with fspLeft := 2 } }
def chanOff : State := modDom (ran dramWord) 20 fun x => { x with phase := .off }
theorem witness_DramWords_held : 8 < 10 ∧ chanOff.tsq.disp[0]? = some dramWord ∧ dramWord.kind = 1 ∧ bits dramWord.payload 63 60 = 8 ∧ dramWord.done = false ∧
    wordDomOff (advance now chanOff) dramWord = true ∧ chanOff.dmc.fspLeft = 0 ∧ mayStart (advance now chanOff) 0 dramWord.unit = true ∧
    unitOn (advance now chanOff) dramWord.unit = true ∧
    (let s := modDom (ran dramWord) 24 fun x => { x with phase := .off }
     wordDomOff (advance now s) dramWord = true ∧ unitOn (advance now s) dramWord.unit = true ∧ mayStart (advance now s) 0 dramWord.unit = true) ∧
    wordDomOff (advance now inChange) dramWord = false ∧ inChange.dmc.fspLeft ≠ 0 ∧ 8 ≠ 4 ∧ dramWord.held = false ∧
    (ran (act 1 1 4 (2 ^ 26))).tsq.disp[0]? = some (act 1 1 4 (2 ^ 26)) ∧ bits (act 1 1 4 (2 ^ 26)).payload 63 60 = 4 := by decide +kernel
theorem witness_DramWords_run :
    let s := ran dramWord
    let p : Nat := wordPrank (advance now s) dramWord
    openDisp (advance now s) 0 1 8 = some dramWord ∧ s.dmc.fspLeft = 0 ∧ wordDomOff (advance now s) dramWord = false ∧
      retired (advance now s) p = false ∧ s.dbg.halted = false ∧ (prankAt s p).sr = (8 == 9) ∧ dwCount dramWord.payload ≠ 0 ∧
      p < s.dmc.ranks.length := by decide +kernel
theorem witness_DramWords_self_refresh :
    let sleeps (x : Disp) : State := { ran x with dmc := { up.dmc with ranks := List.replicate 8 { sr := true } } }
    let halts : State := { sleeps dramWord with dbg := { up.dbg with halted := true } }
    let gone : State := { withSecs [(Ty.drammap, headMap)] (ran dramWord) with dmc := { up.dmc with rmt := [{ st := 4, cur := 7 }] } }
    let srx := act 1 1 9 (2 ^ 26)
    let ref := act 1 1 2 (2 ^ 26)
    openDisp (advance now (sleeps ref)) 0 1 2 = some ref ∧ wordDomOff (advance now (sleeps ref)) ref = false ∧
      (prankAt (sleeps ref) (wordPrank (advance now (sleeps ref)) ref)).sr = true ∧ ref.held = false ∧
      retired (advance now (sleeps ref)) (wordPrank (advance now (sleeps ref)) ref) = false ∧
      openDisp (advance now halts) 0 1 8 = some dramWord ∧ (prankAt halts (wordPrank (advance now halts) dramWord)).sr = true ∧
      openDisp (advance now gone) 0 1 8 = some dramWord ∧ retired (advance now gone) (wordPrank (advance now gone) dramWord) = true ∧
      openDisp (advance now (ran srx)) 0 1 9 = some srx ∧ (prankAt (ran srx) (wordPrank (advance now (ran srx)) srx)).sr = false ∧
      (prankAt (sleeps srx) (wordPrank (advance now (sleeps srx)) srx)).sr = (9 == 9) := by decide +kernel
theorem witness_DramWords_read :
    let x := act 1 1 0 (2 ^ 26)
    openDisp (advance now (ran x)) 0 1 0 = some x ∧ wordDomOff (advance now (ran x)) x = false ∧ retired (advance now (ran x)) (wordPrank (advance now (ran x)) x) = false := by
  decide +kernel
theorem witness_Mr4Returns : mr4Rate 9 = .base ∧ mr4Rate 10 = .mult 2 ∧ mr4Rate 12 = .mult 4 ∧ mr4Rate 15 = .mult 8 ∧ mr4Rate 31 = .over ∧ 2 * 0 + 0 < (polled true).dmc.ranks.length ∧ (lget (polled true).dmc.ranks 0 {}).mrrAt = some 0 ∧ 0 ≤ (advance now (polled true)).clk.mclk ∧
    retired (advance now (polled true)) 0 = false ∧ 2 * 3 + 1 < up.dmc.ranks.length ∧ (lget up.dmc.ranks 7 {}).mrrAt = none ∧
    (let s : State := { withSecs [(Ty.drammap, headMap)] up with dmc := { (polled true).dmc with rmt := [{ st := 4, cur := 7 }] } }
     (lget s.dmc.ranks 0 {}).mrrAt = some 0 ∧ retired (advance now s) 0 = true) ∧
    (lget ({ up with dmc := { up.dmc with ranks := [{ mrrAt := some 9 }] } } : State).dmc.ranks 0 {}).mrrAt = some 9 ∧ (advance now up).clk.mclk < 9 := by decide +kernel
def trained : State := { up with dmc := { up.dmc with ready := true } }
theorem witness_ElasticIssue : domOn State.reset 20 = false ∧ (domAt (advance now State.reset) 20).phase ≠ .drain ∧ inChange.dmc.fspLeft ≠ 0 ∧ up.dmc.ready = false ∧
    domOn trained 23 = true ∧ trained.dmc.fspLeft = 0 ∧ fixedHeld (advance now trained) 3 = false ∧ trained.dmc.ready = true ∧
    fixedHeld (advance now (ran { act 1 1 8 0 with res := 1 })) 0 = true := by decide +kernel
theorem witness_DmcRegisterCommands : domOn up 9 = true ∧ bits 0x4D1C0100 31 16 = 0x4D1C ∧ bits 0x4D1C0100 9 8 = 1 ∧ bits 0x4D1C0200 9 8 = 2 ∧
    bits 0x4D1C0300 9 8 = 3 ∧ bits 0x4D1C0107 2 0 = 7 ∧ 7 < up.dmc.ranks.length ∧ bits 0x0100 31 16 ≠ 0x4D1C ∧ 3 < 4 ∧ domOn up (20 + 3) = true ∧
    bitAt 0x80000000 31 = true := by decide +kernel
/-- Logical rank 0 moves to the spare, rank 7, with one mirror write waiting. -/
def moving : State := { withSecs [(Ty.drammap, headMap)] up with dmc := { up.dmc with
  spare := 1, lr := 0, rmt := up.dmc.rmt.set 0 { st := 2 }, mirror := [(5, [], false)] } }
/-- The same with lines that have been read. -/
def copied : State := { moving with dmc := { moving.dmc with migData := some (0, [], []) } }
theorem witness_MigrationAndFrequency : movingLr (advance now up) = none ∧ movingLr moving = some 0 ∧ moving.dmc.fspLeft = 0 ∧
    domOn moving (20 + (rmtAt moving 0).cur / 2) = true ∧ domOn moving (20 + spareRank moving / 2) = true ∧ moving.dmc.mirror = (5, [], false) :: [] ∧
    moving.dmc.migData = none ∧ migReads moving = false ∧ (rmtAt moving 0).st = 2 ∧ moving.dmc.passEnd = false ∧
    moving.dmc.cp < dmDl (dramB moving) ∧ movingLr copied = some 0 ∧ copied.dmc.fspLeft = 0 ∧ copied.dmc.migData = some (0, [], []) ∧
    ¬ (domOn (inPhase 20 .off) (20 + 0 / 2) = true) ∧ up.dmc.fspStep = 0 ∧
    (let f (n : Nat) : State := { up with dmc := { up.dmc with fspStep := n, fspLeft := 1 } }
     (f 2).dmc.fspStep = 2 ∧ (f 3).dmc.fspStep = 3 ∧ (f 6).dmc.fspStep = 6 ∧ 1 ≤ 6 ∧ 6 ≤ 6 ∧ (f 0).dmc.fspLeft = 1 ∧
       (f 0).clk.len ≤ (advance { now with dt := 416667 } (f 0)).clk.cyc ∧ (f 0).dmc.fspNext = none) ∧
    up.dmc.fspLeft ≠ 1 ∧ up.fld.st ≠ 5 ∧
    (let s : State := { withSecs [(Ty.drammap, headMap)] up with fld := { (withSecs [(Ty.drammap, headMap)] up).fld with st := 5 } }
     s.fld.st = 5 ∧ s.tsq.run = false ∧ s.tsq.applyNext = false ∧ s.boot.fallback = false ∧ (dramDoms s).isEmpty = false) := by decide +kernel

theorem witness_FieldWord_strobe : bitAt (act 4 0xD 0 (2 ^ 14)).payload 14 = true ∧ (lseAt { up with lse := { up.lse with eng := [{ force := false }] } } 0).force = false ∧ domOn (inPhase 30 .off) (30 + 3 * 0) = false ∧
    bitAt (act 4 0xD 0 0).payload 14 = false ∧ domOn up (30 + 3 * 0) = true ∧ 0 < up.lse.eng.length ∧
    (lseAt up 0).force = true := by decide +kernel
theorem witness_FieldWord : openUnit (advance now (ran (act 4 0x10 0 0))) 0 4 0 0xD 4 = some (act 4 0x10 0 0) := by decide +kernel
theorem witness_ScannerWindowsAndPaths_words :
    let v (x : Disp) : State := scanNow (advance now (ran x))
    openUnit (v (act 4 0xD 1 0)) 0 4 1 0xD 4 = some (act 4 0xD 1 0) ∧ openUnit (v (act 4 0x10 2 0)) 0 4 2 0xD 4 = some (act 4 0x10 2 0) ∧
      3 < (v (act 4 0x10 2 0)).lse.eng.length ∧ pcEng (doneDisp (v (act 4 0x10 2 0)) 0) 3 = false ∧
      ((lseAt (v (act 4 0x10 2 0)) 3).path && !(lseAt (v (act 4 0x10 2 0)) 3).stopped) = false ∧ (lseAt (v (act 4 0x10 2 0)) 3).win = none := by decide +kernel
/-- An element of three periods, of which `n` have been counted. -/
def onPath (n : Nat) : State := { up with lse := { up.lse with eng := [{ path := true, stopped := false, run := some n, buf := bytes 64 [(6, 3)] }, {}, {}, {}] } }
theorem witness_ScannerWindowsAndPaths_path :
    let v (n : Nat) : State := scanNow (advance now (onPath n))
    4 ≤ 4 ∧ (lseAt (v 2) 3).run = none ∧ (lseAt (v 2) 0).run = some 2 ∧ bufEl (lseAt (v 2) 0) (lseAt (v 2) 0).ptr = some (bytes 32 [(6, 3)]) ∧
      2 < elNper (bytes 32 [(6, 3)]) ∧ (lseAt (v 3) 0).run = some 3 ∧ bufEl (lseAt (v 3) 0) (lseAt (v 3) 0).ptr = some (bytes 32 [(6, 3)]) ∧
      elNper (bytes 32 [(6, 3)]) ≤ 3 := by decide +kernel

theorem witness_FetchReads_words :
    let v (x : Disp) : State := scanNow (advance now (ran x))
    let y : Disp := act 2 8 1 (2 ^ 47)
    openUnit (v (act 2 5 0 0)) 0 2 0 5 4 = some (act 2 5 0 0) ∧ fetchFixed (act 2 5 0 0).payload = false ∧
      openUnit (v y) 0 2 1 5 4 = some y ∧ fetchFixed y.payload = true := by decide +kernel
/-- Engine 0 is an array of 4 by 4 that demands a rectangle of it; its set has an elastic FETCH word, which has run. -/
def demands (rows : List Row) : State :=
  let s := withSecs [(Ty.engine, bytes 128 [(0, 1), (8, 4), (10, 4)]), (Ty.inputs, bytes 0x460 []),
    (Ty.sched, bytes 64 [(4, 1)] ++ leBytes 16 (2 * 2 ^ 124 + 5 * 2 ^ 118))] up
  { s with pso := { s.pso with eng := [{ go := true, waiting := true, pend := [{ x := 0, y := 0, w := 4, h := 4 }], rows := rows }, {}, {}, {}] } }
def fullBuffer : List Row := List.replicate 256 { no := 0, px := List.replicate 128 0, poison := false }
theorem witness_FetchReads_read :
    let z := fetchLevels (scanNow (advance now (demands [])))
    let f := fetchLevels (scanNow (advance now (demands fullBuffer)))
    (psoAt z 0).cls ≠ 0 ∧ fetchBusy z 0 = false ∧ domOn z (28 + 3 * 0) = true ∧ (nextPiece z 0).map (·.2.length) = some 16 ∧
      (surfPlace z 0).isSome = true ∧ fill (psoAt z 0) + 16 ≤ 32768 ∧ (psoAt f 0).cls ≠ 0 ∧ fetchBusy f 0 = false ∧
      (nextPiece f 0).map (·.2.length) = some 16 ∧ (surfPlace f 0).isSome = true ∧ 32768 < fill (psoAt f 0) + 16 := by decide +kernel
theorem witness_FetchReads_idle : 4 ≤ 4 ∧ (psoAt (fetchLevels (scanNow (advance now up))) 0).cls = 0 ∧ domOn (inPhase 28 .off) 28 = false := by
  decide +kernel

theorem witness_PushAndCommit_words :
    let v (x : Disp) : State := scanNow (advance now (ran x))
    openUnit (v (act 3 9 0 0)) 0 3 0 9 4 = some (act 3 9 0 0) ∧ openUnit (v (act 3 0xC 1 0)) 0 3 1 9 4 = some (act 3 0xC 1 0) := by decide +kernel
/-- Port 1 pushes the data of engine 0's fetch unit. -/
def clone (x : Disp) : State := withSecs [(Ty.sched, bytes 64 [(4, 1)] ++ leBytes 16 (3 * 2 ^ 124 + 0xA * 2 ^ 118))] (ran x)
theorem witness_PushAndCommit_roots :
    let x := act 3 0xA 1 0
    let v (s : State) : State := scanNow (advance now s)
    openUnit (v (ran x)) 0 3 1 9 4 = some x ∧ rootEng (doneDisp (v (ran x)) 0) 1 = 1 ∧
      openUnit (v (clone x)) 0 3 1 9 4 = some x ∧ rootEng (doneDisp (v (clone x)) 0) 1 ≠ 1 := by decide +kernel
/-- A commit window of slots 2 to 4 on engine 0, with a restart open and all of it pushed. -/
def commits : State := { up with pso := { up.pso with eng := [{ commitWin := some (2, 4), open_ := true }, {}, {}, {}] } }
theorem witness_PushAndCommit_outcome :
    0 < commits.pso.eng.length ∧ (psoAt commits 0).commitWin = some (2, 4) ∧ 1023 < 256 * 4 ∧ 256 * 4 ≤ 1024 ∧ commitAt commits 0 = some 512 ∧
      512 ≤ 512 ∧ 512 < 513 ∧ commitAt up 0 = none ∧ (cloneGroup commits 0).contains 0 = true := by decide +kernel
theorem witness_LightRegisterCommands : domOn up 10 = true ∧ bitAt 4 2 = true ∧ bitAt 4 1 = false ∧ 3 < 4 ∧ domOn up (28 + 3 * 3) = true := by decide +kernel

/-- Loop 0 is enabled on sense channel 0 and drive channel 1; it runs in the set in force. -/
def servo : Bytes := bytes 0xC00 [(0x40, 1), (0xA8, 1), (0x100, 1), (0x102, 0x81)]
def loops (x : Disp) : State := withSecs [(Ty.servo, servo)] (ran x)
theorem witness_ServoLoops_words :
    let x : Disp := { act 5 0x11 0 0 with done := true }
    let s := loops x
    openUnit (scanNow (advance now (loops (act 5 0x20 0 0)))) 0 5 0 0x11 16 = some (act 5 0x20 0 0) ∧
      s.tsq.disp[0]? = some x ∧ 0x11 ≤ x.unit ∧ x.unit < 0x21 ∧ 256 * x.finish ≤ (advance now s).clk.cyc ∧
      lpDrv (loopB (srvB s) (x.unit - 0x11)) = some 1 ∧ lpEn (loopB (srvB s) (x.unit - 0x11)) = true ∧ drvShare s 1 = none ∧
      drvBlanked (advance now s) = false ∧ domOn s (drvDom 1) = true ∧ drvHeld s 1 = false ∧ 1 < s.srv.drv.length ∧
      (loops (act 5 0x11 0 0)).tsq.disp[0]? = some (act 5 0x11 0 0) ∧ up.tsq.disp[0]? = none ∧
      (ran (act 4 0x10 0 0)).tsq.disp[0]? = some (act 4 0x10 0 0) ∧ bits (act 4 0x10 0 0).payload 63 60 = 0 ∧ unitOn (advance now (ran (act 4 0x10 0 0))) 0x10 = true := by
  decide +kernel
theorem witness_ServoLoops_samples :
    let s := loops (act 5 0x11 0 0)
    let f : State := { s with boot := { s.boot with fallback := true } }
    samplers (advance now up) 0 0 = [] ∧ samplers (advance now f) 0 0 = [0] ∧ snsEn (advance now f) 0 = true ∧ snsEn (advance now up) 0 = false ∧
      sampAt (advance now f) 0 0 = none ∧ shadowRun f = false ∧ 0 < f.srv.sns.length := by decide +kernel

def recWrite : RecWrite := { kind := 1, f := false, run := 2, tc := 0, temp := 0, body := [], imp := true }
def recording : State := { up with cal := { up.cal with wr := [recWrite] } }
theorem witness_OtpAndRecords : domOn up 58 = true ∧ up.cal.prog = none ∧
    ({ up with cal := { up.cal with prog := some (0x80, 3) } } : State).cal.prog = some (0x80, 3) ∧ bitAt 1 0 = true ∧ up.cal.impSt ≠ 1 ∧
    ({ up with cal := { up.cal with impSt := 1 } } : State).cal.impSt = 1 ∧ up.cal.impBuf = none ∧ up.cal.wr = [] ∧
    recording.cal.wr = [recWrite] := by decide +kernel
/-- A REGISTRATION copy for slot A, whose fields are all 0, in SRAM bank 0. -/
def regCopy : Bytes :=
  let c := leBytes 4 recMagic ++ [3, 1] ++ leBytes 2 1 ++ leBytes 4 1 ++ leBytes 4 256 ++ List.replicate 272 0
  c ++ leBytes 4 (crc32 c)
def importing (c : Bytes) : State := { up with cal := { up.cal with impSt := 1, impBuf := some c } }
theorem witness_OtpAndRecords_import : (importing regCopy).cal.impSt = 1 ∧ (importing regCopy).cal.impBuf = some regCopy ∧
    importCode (advance now (importing regCopy)) regCopy = 0 ∧ importCode (advance now (importing [])) [] ≠ 0 := by decide +kernel
theorem witness_CalibrationCommands : openUnit (advance now (ran (act 8 0x26 0 0))) 0 8 0 0x26 1 = some (act 8 0x26 0 0) ∧ domOn up 58 = true := by decide +kernel

/-- Context 0 has a delivered stripe and a newest vision frame. -/
def vision (x : Disp) : State := { ran x with
  tsq := { (ran x).tsq with tc := 1 }
  lpe := { up.lpe with
  ctx := { up.lpe.ctx.headD {} with bg := true, vis := [{ vbuf := 0, etc := 0, bad := false, tc := 0, fin := 0, used := false }] } :: up.lpe.ctx.tail
  stripes := [{ rx := 0, ctx := 0, frame := 0, k := 0, etc := 0, damaged := false, unsync := false, full := false, lines := [], stamp := 0, place := true }] } }
theorem witness_Cameras_words :
    let v (op : Nat) : State := vision (act 6 0x21 op 0)
    let u (op : Nat) : Option Disp := openUnit (advance now (v op)) 0 6 op 0x21 2
    u 0 = some (act 6 0x21 0 0) ∧ pickStripe (advance now (v 0)) (act 6 0x21 0 0).payload = some 0 ∧ pickStripe (advance now (ran (act 6 0x21 0 0))) (act 6 0x21 0 0).payload = none ∧
      (∀ t, (v 0).lpe.stripes[0]? = some t → t.ctx = 0) ∧ (v 0).lpe.stripes.length = 1 ∧ u 1 = some (act 6 0x21 1 0) ∧ u 2 = some (act 6 0x21 2 0) ∧ u 3 = some (act 6 0x21 3 0) ∧
      (visNewest (advance now (v 2)) 0 0).map (·.used) = some false ∧ visNewest (advance now (ran (act 6 0x21 2 0))) 0 0 = none := by decide +kernel
def finished : PFrame :=
  { frame := 4, etc := 9, damaged := false, unsync := false, full := true, trunc := false, buf := 0, vbuf := 0, k := 0, lines := [], jpeg := 0 }
def aMap : PMap := { ctx := 0, etc := 0, valid := true, occ := [0, 0, 0, 0], tc := 0, cyc := 0 }
theorem witness_Cameras_events :
    let x : Disp := { act 6 0x21 3 0 with done := true }
    let m : State := { ran x with lpe := { up.lpe with mapNext := some aMap } }
    let f : State := { up with lpe := { up.lpe with ctx := { up.lpe.ctx.headD {} with fin := [finished] } :: up.lpe.ctx.tail } }
    rxEn (lpeB up) 1 = false ∧ 1 < 2 ∧ domOn cameraOn (44 + 0) = true ∧ rxEn (lpeB cameraOn) 0 = true ∧ { badPkt with hdr := 2 }.hdr = 2 ∧
      m.tsq.disp[0]? = some x ∧ x.kind = 6 ∧ bits x.payload 63 60 = 3 ∧ x.done = true ∧ x.endAt ≤ (advance now m).clk.cyc ∧ 256 * x.finish ≤ (advance now m).clk.cyc ∧
      m.lpe.mapNext = some aMap ∧ up.tsq.disp[0]? = none ∧ (ctxAt up 7).fin = [] ∧ 0 < f.lpe.ctx.length ∧ (ctxAt f 0).fin = finished :: [] ∧
      frameWritten f 0 finished.frame = true ∧
      frameWritten { f with fab := { f.fab with xfers := [{ src := 18, job := .out 0 4, todo := [], sent := [], next := 0, got := [], bad := [] }] } } 0
        finished.frame = false := by decide +kernel
/-- A map that shows zone 5 of engine 0 occupied, which an array engine with SAFETY's MAPAGE 9 has lit under CLEAR. -/
theorem witness_Cameras_presence :
    let x : Disp := { act 6 0x21 3 0 with done := true }
    let s : State := withSecs [(Ty.safety, bytes 2112 [(0, 9)]), (Ty.engine, bytes 1024 [(0, 1)])] (ran x)
    let m (l : Amap) : State := { s with
      lpe := { up.lpe with mapNext := some { aMap with occ := [32, 0, 0, 0] } }
      saf := { s.saf with eng := lmod s.saf.eng 0 fun y => { y with lit := l } } }
    let g (l : Amap) : State := run (.mapHandover now 0) (m l)
    (m [(0, 0)]).tsq.disp[0]? = some x ∧ 256 * x.finish ≤ (advance now (m [(0, 0)])).clk.cyc ∧ presenceZone (g [(0, 0)]) 0 = some 5 ∧
      presenceZone (g [(0, 0)]) 1 = none ∧ presenceZone (g [(0, 0)]) 2 = none ∧ presenceZone (g [(0, 0)]) 3 = none ∧
      presenceZone (g []) 0 = none ∧ presenceZone (g []) 1 = none ∧ presenceZone (g []) 2 = none ∧ presenceZone (g []) 3 = none := by decide +kernel

/-- Engine 2 is a scanner and lit. -/
def scanning : State :=
  let s : State := { up with fld := { up.fld with applied := true, secs := [{ type := Ty.engine, inst := 2, body := bytes 128 [(0, 2)] }] } }
  { s with saf := { s.saf with drive := 0x100 } }
theorem witness_ApertureTriggers_high : 0 < 16 ∧ sfRole (safB lit) 0 ≠ 0 ∧ sfMon (safB lit) 0 ≠ 0xFF ∧
    64 * monCap (advance now lit) 0 < 65535 ∧ ¬ (64 * monCap (advance now lit) 0 < 0) := by decide +kernel
theorem witness_ApertureTriggers : engKind scanning 2 = 2 ∧ engLit scanning 2 = true ∧ true ≠ bitAt up.boot.straps 3 ∧ 15 < 16 ∧ true ≠ bitAt up.saf.drive 15 ∧
    domOn up 1 = true ∧ bits 0xDA2C0001 31 16 = 0xDA2C ∧ bitAt 0xDA2C0001 0 = true ∧ bits 0x7E57000C 31 16 = 0x7E57 ∧ 1 ≤ 0x7E57000C % 16 ∧
    0x7E57000C % 16 ≤ 12 ∧ 1 ≤ 0x7E570001 % 16 := by decide +kernel
theorem witness_ApertureTriggers_none : true ≠ false ∧ engKind up 0 ≠ 2 ∧ 16 ≤ 16 ∧ false = bitAt up.boot.straps 3 ∧ false = bitAt up.saf.drive 15 ∧ domOn up 1 = true ∧
    bits 0x00010001 31 16 ≠ 0xDA2C ∧ bitAt 0xDA2C0000 0 = false ∧ 0x7E570000 % 16 = 0 ∧ 12 < 0x7E57000D % 16 := by decide +kernel
theorem witness_ApertureRearm : domOn up 1 = true ∧ ({ up with saf := { up.saf with rearmReq := true } } : State).saf.rearmReq = true := by decide +kernel
/-- The zero-crossing ball of engine 3 has its owner. -/
def zxOwned : State := { up with pins := { up.pins with owner := [(5, 0x13)], park := [(5, 2)], mapped := true } }
theorem witness_ZeroCrossing : 4 ≤ 4 ∧ (ownerBall (advance now up) 0x10).isSome = false ∧ 3 < 4 ∧ (ownerBall (advance now zxOwned) (0x10 + 3)).isSome = true ∧
    3 < zxOwned.saf.eng.length ∧ (safEng { up with saf := { up.saf with eng := [{ lastRise := some 4 }] } } 0).lastRise = some 4 := by decide +kernel

/-- A frame of 64 bytes to this station, of a type that is nobody's. -/
def frame (etype : Nat) : ChainFrame := { bytes := stationMac up ++ List.replicate 6 0 ++ beBytes 2 etype ++ List.replicate 50 0, fcsOk := true, ts := 0 }
theorem witness_ChainReceive :
    let x := modPort (advance now linkUp) 0 fun y => { y with rxfr := y.rxfr + 1 }
    let f := frame 0x0800
    0 < up.chn.ports.length ∧ (portAt up 0).link = false ∧ (portAt linkUp 0).link = true ∧ f.fcsOk = true ∧ 64 ≤ f.bytes.length ∧ f.bytes.length ≤ 9216 ∧
      ¬ (64 ≤ ({ f with bytes := f.bytes.drop 1 } : ChainFrame).bytes.length) ∧ (ethHdr (frame 0x8808).bytes).etype = 0x8808 ∧
      (ethHdr f.bytes).etype ≠ 0x8808 ∧ (ethHdr f.bytes).etype ≠ 0x88F7 ∧ (ethHdr f.bytes).etype ≠ 0x88B5 ∧ isBootData x f.bytes (ethHdr f.bytes) = false ∧
      f.bytes.take 6 = stationMac x := by decide +kernel
/-- A frame of 64 bytes handed to CHN0 by the fabric. -/
def toChain : Pkt := { frameOf108 64 with req := { (frameOf108 64).req with data := List.replicate 64 0 } }
def handing : State := { linkUp with fab := { up.fab with handed := [toChain], tags := [(toChain.req.src, toChain.req.tag)] } }
/-- A SEND word whose region 0 starts at SRAM bank 0 and holds a length. -/
def sends (len : Nat) : State :=
  let s := withSecs [(Ty.inputs, patch (bytes 0x440 []) 0x20 (leBytes 8 0x10000000 ++ leBytes 4 64))] (ran (act 7 0x23 1 0))
  { s with chn := linkUp.chn, mem := { s.mem with sram := [⟨0, BitVec.ofNat 8 len⟩, ⟨1, BitVec.ofNat 8 (len / 256)⟩] } }
def sentLen (len : Nat) : Nat :=
  let u := advance now (sends len)
  leNat (fixedGet u 0x23 (some 0) (regBase (inputsB u) 0) 2).2.1
theorem witness_ChainTransmit_length : sentLen 13 = 13 ∧ sentLen 14 = 14 ∧ sentLen 9212 = 9212 ∧ sentLen 9213 = 9213 ∧ (portAt (sends 14) 0).link = true ∧
    openUnit (advance now (sends 14)) 0 7 1 0x23 2 = some (act 7 0x23 1 0) := by decide +kernel
theorem witness_ChainTransmit : openUnit (advance now (ran (act 7 0x24 0 0))) 0 7 0 0x23 2 = some (act 7 0x24 0 0) ∧
    openUnit (advance now (ran (act 7 0x23 1 0))) 0 7 1 0x23 2 = some (act 7 0x23 1 0) ∧ (portAt (ran (act 7 0x23 1 0)) 0).link = false ∧
    (portAt ({ ran (act 7 0x23 1 0) with chn := linkUp.chn } : State) 0).link = true ∧ 2 ≤ 2 ∧ 1 < 2 ∧ up.fab.handed = [] ∧
    egPick (lget up.fab.eg (4 + 1) {}) (advance now up).clk.mclk (chnReady (advance now up) 1) = none ∧
    0 < handing.chn.ports.length ∧ handing.fab.handed = [toChain] ∧ toChain.req.dst = 20 + 0 ∧ canStart (advance now handing) 0 toChain.req.flen = true ∧
    handing.fab.tags.contains (toChain.req.src, toChain.req.tag) = true ∧ pktJob (advance now handing) toChain = .none ∧ domOn up 11 = true := by decide +kernel

/-- A Delay_Req is due at port 0, whose link is up. -/
def dueReq : State := { linkUp with chn := { linkUp.chn with ptp := { linkUp.chn.ptp with due := true } }, rw := [(Base.chn + 0x38, 0x80000000)] }
def booting : State := { up with chn := { up.chn with boot := true, doneDue := some 0 } }
/-- TREF_IN has a ball, and CHAIN takes it as a pulse each second. -/
def trefOn : State := withSecs [(Ty.chain, bytes 0x80 [(0x38, 2)])] { up with pins := { up.pins with owner := [(7, 0x20)], park := [(7, 2)], mapped := true } }
theorem witness_ChainProtocols : up.chn.ptp.due = false ∧ dueReq.chn.ptp.due = true ∧ ptpEn dueReq = true ∧
    (portAt dueReq dueReq.chn.ptp.mport).link = true ∧ (portAt dueReq dueReq.chn.ptp.mport).busyTo ≤ (advance now dueReq).clk.mclk ∧
    wireHeld (advance now dueReq) dueReq.chn.ptp.mport (advance now dueReq).clk.cyc (wireTime 64) = false ∧ domOn up 11 = true ∧
    up.chn.boot = false ∧ booting.chn.boot = true ∧ bootComplete booting = false ∧ booting.chn.reqAt = none ∧ up.chn.doneDue = none ∧ booting.chn.doneDue = some 0 ∧
    (ownerBall (advance now up) 0x20).isSome = false ∧ (ownerBall (advance now trefOn) 0x20).isSome = true ∧ chTrefMode (chainB trefOn) = 2 ∧
    2 < trefOn.clk.meas.length ∧ 1 < 2 ∧ domOn up (50 + 1) = true ∧ domOn up (52 + 1) = true ∧ hasSec up Ty.chain 0 = false ∧
    chPortEn (chainB (withSecs [(Ty.chain, bytes 0x80 [(6, 2)])] up)) 1 = true := by decide +kernel

/-- A chip with a twin, in state `n` of Table 16-8, whose link is up. -/
def paired (n : Nat) (x : Disp) : State :=
  let s := withSecs [(Ty.twin, bytes 0x100 []), (Ty.inputs, bytes 0x1000 [])] (ran x)
  { s with twn := { s.twn with st := n, up := true }, rw := [(Base.twn + 0x3C, 4)] }
theorem witness_TwinCommands_events :
    let j : State := { paired 3 (act 7 0x25 0 0) with twn := { (paired 3 (act 7 0x25 0 0)).twn with copied := true } }
    domOn up 56 = true ∧ isLead j = true ∧ j.twn.copied = true ∧ j.twn.joinEv = false ∧ isLead up = false ∧ bitAt 0x7A1D0013 5 = false := by decide +kernel
theorem witness_TwinCommands_words :
    let u (n op : Nat) : Option Disp := openUnit (advance now (paired n (act 7 0x25 op 0))) 0 7 op 0x25 1
    let c (k : Nat) : State := { paired 3 (act 7 0x25 0 0) with
      fld := { up.fld with applied := true, secs := [{ type := Ty.twin, inst := 0, body := bytes 0x100 [] },
        { type := Ty.inputs, inst := 0, body := List.replicate 0x1000 1 }] }
      twn := { (paired 3 (act 7 0x25 0 0)).twn with copy := some (k, 0) } }
    u 2 0 = some (act 7 0x25 0 0) ∧ u 2 2 = some (act 7 0x25 2 0) ∧ u 5 1 = some (act 7 0x25 1 0) ∧ isLead (paired 5 (act 7 0x25 1 0)) = false ∧
      u 2 1 = some (act 7 0x25 1 0) ∧ isLead (paired 2 (act 7 0x25 1 0)) = true ∧ isLead (c 0) = true ∧ (c 0).twn.copied = false ∧ (c 0).twn.copy = some (0, 0) ∧
      (mirrorRegions (advance now (c 0))).length = 64 ∧ 0 < (lget (mirrorRegions (advance now (c 0))) 0 (0, 0)).2 ∧
      copyReads (advance now (c 64)) = false ∧ (c 64).twn.copied = false ∧ isLead (c 64) = true ∧ (c 64).twn.copy = some (64, 0) ∧ (mirrorRegions (advance now (c 64))).length ≤ 64 ∧ (c 64).twn.redo = none := by decide +kernel
def linkFrame (seq : Nat) (p : Bytes) : TwinFrame := { offset := 0, seq := seq, payload := p, good := true }
def mirrorFrame : TwinFrame := linkFrame 0 (leBytes 8 0x10100000 ++ [1, 2])
theorem witness_TwinFrames :
    let s (n : Nat) : State := paired n (act 7 0x25 0 0)
    up.twn.up = false ∧ (s 4).twn.up = true ∧ domOn (s 4) 56 = true ∧ (linkFrame 0 []).good = true ∧ farFrame.good = true ∧ isShadow (s 3) = false ∧
      isShadow (s 4) = true ∧ isShadow (s 7) = true ∧ isShadow (s 8) = false ∧ (s 3).twn.st ≠ 4 ∧ (s 4).twn.st = 4 ∧
      shadowRun (s 4) = false ∧ hasTwin (s 4) = true ∧ (s 4).twn.mseq < (linkFrame 1 []).seq ∧ (s 4).twn.held = [] ∧
      (s 4).twn.mseq = mirrorFrame.seq ∧ 8 < mirrorFrame.payload.length ∧ 0x10000000 ≤ u64 mirrorFrame.payload 0 ∧
      u64 mirrorFrame.payload 0 + (mirrorFrame.payload.length - 8) ≤ 0x10400000 ∧
      domsOn (s 4) (targetDoms (s 4) (.sram (u64 mirrorFrame.payload 0 - 0x10000000)) (mirrorFrame.payload.length - 8)) = true ∧
      (linkFrame 0 []).seq = (s 4).twn.fack ∧
      ((s 4).twn.rxHead + 2 ^ 32 - rwGet (s 4) (Base.twn + 0x64) 0) % 2 ^ 32 < fwRx (s 4) ∧
      ({ s 4 with twn := { (s 4).twn with fack := 1 } } : State).twn.fack = 1 ∧ (linkFrame 0 []).seq < 1 ∧
      u8 ((3 : Byte) :: List.replicate 15 0) 0 = 3 ∧ curSource { up with fld := { up.fld with st := 1, left := [2] } } = some 2 ∧
      ((((3 : Byte) :: List.replicate 15 0).drop 4).take 8 == uid up) = true := by decide +kernel

/-- A running watchdog with TIMEOUT 2^20, WINDOW 16 and WARN 8, at count `c` and with the first key written or not. -/
def watched (c : Nat) (k : Option Nat) : State :=
  { up with wdg := { up.wdg with run := true, timeout := 1048576, window := 16, warn := 8, count := c, key := k } }
/-- The fuse WDGHW is blown. -/
def wdgFused : State := { up with cal := { up.cal with otp := List.replicate 512 0xFF }, wdg := { up.wdg with cfgUsed := true } }
theorem witness_WatchdogControl : domOn up 8 = true ∧ 2 ≤ 2 ∧ 1 < 2 ∧ bits 0xD06A0001 31 16 = 0xD06A ∧ bits 0xD06A0001 3 0 = 1 ∧ bits 0xD06A0002 3 0 = 2 ∧
    bits 0xD06A0004 3 0 = 4 ∧ bits 0xD06A0008 3 0 = 8 ∧ bits 0x00000001 31 16 ≠ 0xD06A ∧ up.wdg.run = false ∧ wdgHw up = false ∧ wdgHw wdgFused = true ∧
    wdgFused.wdg.cfgUsed = true ∧
    (let s : State := { up with rw := [(Base.wdg + 0x10, 1048576), (Base.wdg + 0x14, 1048575), (Base.wdg + 0x18, 1)] }
     1048576 ≤ rwGet s (Base.wdg + 0x10) 0xFFFFFFFF ∧ rwGet s (Base.wdg + 0x14) 0 < rwGet s (Base.wdg + 0x10) 0xFFFFFFFF ∧
       rwGet s (Base.wdg + 0x18) 0 ≤ rwGet s (Base.wdg + 0x10) 0xFFFFFFFF - rwGet s (Base.wdg + 0x14) 0) := by decide +kernel
theorem witness_WatchdogServiceAndBite :
    let n (s : State) : Nat := (advance now s).wdg.count
    bootRomRuns (watched 16 none) = false ∧ domOn up 8 = true ∧ (wr 1 0).src ≠ 0 ∧ up.wdg.run = false ∧ (wr 0 0xC35A).src = 0 ∧ (watched 16 none).wdg.run = true ∧ (watched 16 none).wdg.key = none ∧
      (watched 16 (some 0)).wdg.key = some 0 ∧ (advance now (watched 16 (some 0))).clk.mclk ≤ 0 + 256 ∧ 16 ≤ n (watched 16 (some 0)) ∧
      n (watched 1048575 (some 0)) < 1048576 ∧ n (watched 15 (some 0)) < 16 ∧ (wr 0 0x5AC3).val.toNat ≠ 0xC35A ∧
      0 < (watched 0 none).wdg.warn ∧ (watched 0 none).wdg.timeout - (watched 0 none).wdg.warn ≤ n (watched 1048568 none) ∧
      (watched 0 none).wdg.timeout ≤ n (watched 1048576 none) ∧ bitAt up.saf.cond 7 = false ∧
      bitAt ({ up with saf := { up.saf with cond := 0x80 } } : State).saf.cond 7 = true := by decide +kernel

/-- The fuse that locks the debug port is blown. -/
def locked : State := { up with cal := { up.cal with otp := List.replicate 512 0xFF } }
theorem witness_SerialDebug :
    let q := askDebug
    q.crcOk = true ∧ { q with crcOk := false }.crcOk = false ∧ dbgLock locked = true ∧ dbgLock up = false ∧ { q with cnt := 1 }.cnt ≠ 0 ∧ q.cnt = 0 ∧ q.arg = 0 ∧
      64 < longReq.cnt ∧ { q with arg := 2 }.arg % 4 ≠ 0 ∧ 2 ^ 36 ≤ { q with arg := 2 ^ 36 }.arg ∧ 1 ≤ { q with cnt := 64 }.cnt ∧ { q with cnt := 64 }.cnt ≤ 64 ∧
      { q with cnt := 1, arg := 0x103FFFFC }.arg + 4 ≤ 0x10400000 ∧ 0x10000000 ≤ { q with cnt := 1, arg := 0x10000000 }.arg ∧
      domOn (inPhase 59 .off) 59 = false ∧ domOn up 59 = true ∧ hasSec up Ty.domains 0 = false ∧ bitAt (domUsed usesAll) 59 = true ∧ up.pwr.deep = false ∧
      59 < up.pwr.doms.length ∧ domOn up (sramDom (0x103FFFFC - 0x10000000)) = true ∧ publishedIn up 0x10000000 4 = false ∧
      inExtraMirror up 0x10000000 4 = false := by decide +kernel
theorem witness_SerialDebug_calm : FabricCalm (advance now up) ∧ mayIssue (advance now up) 1 = true ∧ ∀ k, up.fab.tags.contains (1, k) = false := by
  refine ⟨?_, ?_, fun k => rfl⟩
  · unfold FabricCalm
    decide +kernel
  · decide +kernel
/-- TWIN mirrors 64 bytes from the start of SRAM bank 1. -/
def extraMirror : State := withSecs [(Ty.twin, patch (bytes 0x100 [(8, 1)]) 0x20 (leBytes 8 0x10100000 ++ leBytes 8 64))] up
theorem witness_SerialDebug_mirror : inExtraMirror extraMirror 0x10100000 4 = true ∧ inExtraMirror extraMirror 0x10100040 4 = false := by decide +kernel
/-- The last word of a read has its response. -/
def lastWord : SdpMem := { write := false, forced := false, fa := 0x10000000, cnt := 1, i := 0, data := [], bad := none, got := [] }
theorem witness_SerialDebug_reply :
    let x : Xfer := { src := 1, job := .sdp, todo := [], sent := [], next := 1, got := [(0, 0, [1, 2, 3, 4])], bad := [] }
    x.job = .sdp ∧ ({ up with dbg := { up.dbg with mem := some lastWord } } : State).dbg.mem = some lastWord ∧ lastWord.i + 1 = lastWord.cnt ∧
      lastWord.bad = none := by decide +kernel
/-- Region 0 lies at the start of SRAM bank 1, and its buffer 0 is published. -/
def published : State :=
  let s := withSecs [(Ty.inputs, patch (bytes 0x440 []) 0x20 (leBytes 8 0x10100000 ++ leBytes 4 64 ++ [1]))] up
  { s with pins := { s.pins with front := [(0, 0)] } }
theorem witness_SerialDebug_published : domOn published 59 = true ∧ domOn published (sramDom 0x100000) = true ∧ publishedIn published 0x10100000 4 = true ∧
    publishedIn published 0x10100040 4 = false := by decide +kernel
theorem witness_DebugCommands :
    let b : State := { up with rw := [(Base.dbg + 0x10, 0x101), (Base.dbg + 0x28, 0xC0000000)] }
    domOn up 59 = true ∧ (wr 0 1).src ≠ 1 ∧ (wr 1 1).src = 1 ∧ bits 0x00000001 3 0 = 1 ∧ bits 2 3 0 = 2 ∧ bits 0x00010003 3 0 = 3 ∧ bits 0x00010003 31 16 = 1 ∧ bits 4 3 0 = 4 ∧
      bits 5 3 0 = 5 ∧ bits 0x00010006 3 0 = 6 ∧ 0 < bits 0x00010006 31 16 ∧ up.dbg.pend = false ∧ up.dbg.halted = false ∧
      ({ up with dbg := { up.dbg with halted := true } } : State).dbg.halted = true ∧ up.dbg.hkpHalt = false ∧ bpMatch b 0x101 = true ∧ bpMatch b 0x103 = false ∧
      up.clk.on = true ∧ bpSlotHit (advance now b) = true ∧ bpSlotHit (advance now up) = false ∧ State.reset.clk.on = false := by decide +kernel
theorem witness_BoundaryScan : (0 : BitVec 4) = 0 ∧ benchLow up = true ∧ dbgLock up = false ∧ up.tap.extest = false ∧
    ({ up with tap := { up.tap with extest := true } } : State).tap.extest = true ∧ ¬ ((1 : BitVec 4) = 0) ∧ dbgLock locked = true := by decide +kernel

end Sys2Proof.Tests
end

section
/-! PROOF. The tick boundary (02 R39, R60, 04 R113): when it comes, what it shows, and the set that follows a class S or X fault. -/

namespace Sys2Proof.Machine

/-! ### When the boundary comes -/

/-- The time before a boundary runs the tick out to its length (02 R39). -/
theorem advance_tickWhen_cyc (w : When) (s : State) (hon : s.clk.on = true) (hlen : s.clk.cyc ≤ s.clk.len) :
    (advance (tickWhen w s) s).clk.cyc = s.clk.len := by
  have hcyc : (advance (tickWhen w s) s).clk.cyc = s.clk.cyc + (if s.clk.on then s.clk.len - s.clk.cyc else 0) := rfl
  rw [hcyc, if_pos hon]
  omega

/-- Without a timebase there is no boundary. -/
theorem boundary_off (s : State) (i : BoundaryIn) (h : s.clk.on = false) : boundary s i = s := by
  unfold boundary
  rw [if_pos (by simp [h])]

/-- The last thing a boundary does is to take the registers' view of its results (00 R14). -/
theorem boundary_on (s : State) (i : BoundaryIn) (h : s.clk.on = true) : ∃ x, boundary s i = showTick x := by
  unfold boundary
  rw [if_neg (by simp [h])]
  exact ⟨_, rfl⟩

theorem showTick_shown (s : State) :
    (showTick s).shown =
      { clk := (showTick s).clk, pins := (showTick s).pins, boot := (showTick s).boot, tsq := (showTick s).tsq, fld := (showTick s).fld,
        dmc := (showTick s).dmc, dbg := (showTick s).dbg, cal := (showTick s).cal, lse := (showTick s).lse, pso := (showTick s).pso,
        srv := (showTick s).srv, lpe := (showTick s).lpe, twn := (showTick s).twn } := rfl

/-! ### The set after a class S or X fault (02 R60) -/

/-- After such a fault no request of firmware passes its test. -/
theorem regimeTest_fault (s : State) (tgt doms : Nat) (det : Bool) : regimeTest s tgt doms true det = (3, 0) := by
  unfold regimeTest
  rw [if_pos rfl]

theorem regimeStep_fault_set (s : State) (res : List MboxRes) (doms : Nat) (det : Bool) :
    (regimeStep s res doms true det).2 = (3, false) := by
  unfold regimeStep
  simp only [regimeTest_fault]
  split <;> rfl

/-- The requests themselves are answered: overtaken by a later one (2), refused for the fault (3), or of no such set (7). -/
theorem regimeStep_fault_status (s : State) (res : List MboxRes) (doms : Nat) (det : Bool) (r : MboxRes)
    (hr : r ∈ (regimeStep s res doms true det).1) (hop : r.op = 1) : r.status = 2 ∨ r.status = 3 ∨ r.status = 7 := by
  unfold regimeStep at hr
  simp only [regimeTest_fault] at hr
  split at hr <;>
  · simp only [reduceIte, OfNat.ofNat_ne_zero] at hr
    obtain ⟨⟨x, i⟩, -, rfl⟩ := List.mem_map.mp hr
    dsimp only at hop ⊢
    split_ifs at hop ⊢ with hreg hgood hlast
    · simp [hop] at hreg
    · simp
    · simp
    · simp

/-! ### The statement -/

/-- Settles O13: a boundary that comes ends in `showTick`, and `regimeTest` lets no request pass after a class S or X fault. -/
theorem tickBoundaryShowsResults : Obligations.TickBoundaryShowsResults := by
  unfold Obligations.TickBoundaryShowsResults
  refine ⟨fun w i s => ⟨rfl, advance_tickWhen_cyc w s, fun hoff => boundary_off _ i hoff, fun hon => ?_⟩,
    fun s => ⟨rfl, rfl, rfl, rfl, rfl⟩,
    fun s res doms det => ⟨regimeStep_fault_set s res doms det, regimeStep_fault_status s res doms det⟩⟩
  obtain ⟨x, hx⟩ := boundary_on (advance (tickWhen w s) s) i hon
  rw [hx, showTick_shown]

end Sys2Proof.Machine
end

section
/-! PROOF. The register window (00 R4 to R13): 64-bit pairs, writes as the fabric brings them, and snapshots. -/

namespace Sys2Proof.Machine

/-! ### Commands, and register writes as the fabric brings them (00 R4, R6, R8) -/

/-- A command ends with what its effect makes of the state at its time. -/
theorem cmdRun_eq {w : When} {f : State → State} {s b : State} (h : f (advance w s) = b) : cmdRun w f s = .next (endCmd s b) :=
  congrArg (fun b => Host.Outcome.next (endCmd s b)) h

/-- A write from the fabric reaches a register window's word where its domain is fully on. -/
theorem writeReg_on (w : When) (a : Nat) (r : Wr) (o : Outside) (s : State) (h1 : 0x40000000 ≤ a) (h2 : a < 0x40100000) (h4 : a % 4 = 0)
    (hd : domOn s (regDom a) = true) :
    writeReg a r o (advance w s) = (regWriteWith (advance w s) r.src a r.val.toNat o).1 := by
  rw [writeReg_eq a r o _ h1 h2 (by omega) h4, advance_domOn, if_pos hd]

/-- 00 R8: in a domain that is not fully on, a register is not reached. -/
theorem writeReg_off (w : When) (a : Nat) (r : Wr) (o : Outside) (s : State) (h1 : 0x40000000 ≤ a) (h2 : a < 0x40100000) (h4 : a % 4 = 0)
    (hd : domOn s (regDom a) = false) : writeReg a r o (advance w s) = advance w s := by
  rw [writeReg_eq a r o _ h1 h2 (by omega) h4, advance_domOn, if_neg (by simp [hd])]

theorem regWriteWith_barred (s : State) (src a v : Nat) (o : Outside) (h : mayWrite src a = false) :
    (regWriteWith s src a v o).1 = s := by
  unfold regWriteWith
  rw [if_pos (by simp [h])]

/-- Whatever the domain, a source that may not write the register changes nothing. -/
theorem writeReg_barred (w : When) (a : Nat) (r : Wr) (o : Outside) (s : State) (h1 : 0x40000000 ≤ a) (h2 : a < 0x40100000)
    (h4 : a % 4 = 0) (hm : mayWrite r.src a = false) : writeReg a r o (advance w s) = advance w s := by
  rw [writeReg_eq a r o _ h1 h2 (by omega) h4, regWriteWith_barred _ _ _ _ _ hm, ite_self]

/-! ### Reads of 64-bit pairs (00 R9) -/

/-- The low words of pairs stand in the first half kilobyte of their windows. -/
theorem isWideLow_off_lt (a : Nat) (h : isWideLow a = true) : a % 0x10000 < 0x200 := by
  unfold isWideLow at h
  split at h <;> simp only [Bool.and_eq_true, Bool.or_eq_true, beq_iff_eq, decide_eq_true_eq, Bool.false_eq_true] at h <;> omega

/-- The word after a low word is no low word. -/
theorem isWideLow_high (a : Nat) (h : isWideLow a = true) : isWideLow (a + 4) = false := by
  have hlt := isWideLow_off_lt a h
  have hblk : blkOf (a + 4) = blkOf a := by unfold blkOf; omega
  have hoff : (a + 4) % 0x10000 = a % 0x10000 + 4 := by omega
  unfold isWideLow at h ⊢
  rw [hblk, hoff]
  generalize blkOf a = blk at h ⊢
  generalize a % 0x10000 = off at h ⊢
  rw [Bool.eq_false_iff]
  intro h'
  split at h <;> simp only [Bool.and_eq_true, Bool.or_eq_true, beq_iff_eq, decide_eq_true_eq, Bool.false_eq_true] at h h' <;> omega

theorem regRead_low (s : State) (src a : Nat) (h : isWideLow a = true) :
    (regRead s src a).2 = { s with latch := aset s.latch (srcKey src (a + 4)) (regValue s src (a + 4)) } := by
  unfold regRead
  rw [if_pos h]

/-- A read of the high word of a pair returns what its source has latched. -/
theorem regRead_high (s : State) (src a : Nat) (h : isWideLow a = true) :
    (regRead s src (a + 4)).1 = alook s.latch (srcKey src (a + 4)) := by
  unfold regRead
  rw [if_neg (by simp [isWideLow_high a h]), if_pos ⟨by omega, h⟩]

/-- Two sources keep what they keep of one register under different keys. -/
theorem srcKey_ne {a b : Nat} (addr : Nat) (h : a ≠ b) : srcKey a addr ≠ srcKey b addr := by
  unfold srcKey
  omega

theorem domsOn_reg (w : When) (s : State) (a : Nat) (h : domOn s (regDom a) = true) :
    domsOn (advance w s) (targetDoms (advance w s) (.reg a) 4) = true := by
  simp [domsOn, targetDoms, advance_domOn, h]

/-! ### Plain storage -/

theorem rwGet_rwPut (s : State) (a v k d : Nat) : rwGet (rwPut s a v) k d = if a = k then v else rwGet s k d :=
  alookD_aset s.rw a k v d

/-- A write of a register with plain RW fields stores them, and nothing else. -/
theorem rwStore_fields (s : State) (a v m d : Nat) (hf : rwField (blkOf a) (a % 0x10000) = (m, d)) (hm : m ≠ 0) :
    rwStore s a v = rwPut s a (v &&& m) := by
  unfold rwStore
  simp only [hf]
  rw [if_neg hm]

theorem toNat_and_word (v : Word) : v.toNat &&& 0xFFFFFFFF = v.toNat :=
  Nat.and_two_pow_sub_one_of_lt_two_pow v.isLt

/-! ### Writes of 64-bit pairs (00 R11) -/

/-- The writable pairs: CHN_PTPMID and DBG_BPTC (assumption log entry 107). -/
theorem widePair_cases {lo hi : Nat} (h : widePair lo = some hi) :
    (lo = Base.chn + 0x30 ∧ hi = Base.chn + 0x34) ∨ (lo = Base.dbg + 0x20 ∧ hi = Base.dbg + 0x24) := by
  unfold widePair at h
  split_ifs at h with h1 h2
  · exact .inl ⟨h1, by simp only [Option.some.injEq] at h; omega⟩
  · exact .inr ⟨h2, by simp only [Option.some.injEq] at h; omega⟩

theorem isWideHigh_cases {hi : Nat} (h : isWideHigh hi = true) : hi = Base.chn + 0x34 ∨ hi = Base.dbg + 0x24 := by
  simpa [isWideHigh] using h

/-- One word `v` of a pair is stored at `a`, and what the pair's other uses rest on is as it was. -/
structure WordStored (s : State) (a v : Nat) (b : State) : Prop where
  word : ∀ k d, rwGet b k d = if a = k then v &&& 0xFFFFFFFF else rwGet s k d
  staged : b.staged = s.staged
  mem : b.mem = s.mem
  saf : b.saf = s.saf
  tsq : b.tsq = s.tsq
  pwr : b.pwr = s.pwr
  dmc : b.dmc = s.dmc
  fab : b.fab = s.fab
  dbg : b.dbg = s.dbg

theorem rwPut_wordStored (s : State) (a v : Nat) : WordStored s a v (rwPut s a (v &&& 0xFFFFFFFF)) :=
  ⟨fun k d => rwGet_rwPut s a _ k d, rfl, rfl, rfl, rfl, rfl, rfl, rfl, rfl⟩

/-- Forgetting the PTP master (15 R403) touches no stored word. -/
theorem ptpForget_wordStored {s b : State} {a v : Nat} (h : WordStored s a v b) : WordStored s a v (ptpForget b) :=
  ⟨h.word, h.staged, h.mem, h.saf, h.tsq, h.pwr, h.dmc, h.fab, h.dbg⟩

theorem chnWrite_ptpMid (s : State) (off v : Nat) (h : off = 0x30 ∨ off = 0x34) :
    chnWrite s off v = ptpForget (rwPut s (Base.chn + off) (v &&& 0xFFFFFFFF)) := by
  unfold chnWrite
  have hrw : rwStore s (Base.chn + off) v = rwPut s (Base.chn + off) (v &&& 0xFFFFFFFF) := by
    rcases h with rfl | rfl <;> exact rwStore_fields _ _ _ 0xFFFFFFFF 0 rfl (by decide)
  rw [hrw, if_neg (by omega), if_pos (by omega)]

theorem dbgWrite_bpTc (s : State) (off v : Nat) (view : List Nat) (h : off = 0x20 ∨ off = 0x24) :
    (dbgWrite s 1 off v view).1 = rwPut s (Base.dbg + off) (v &&& 0xFFFFFFFF) := by
  unfold dbgWrite
  have hrw : rwStore s (Base.dbg + off) v = rwPut s (Base.dbg + off) (v &&& 0xFFFFFFFF) := by
    rcases h with rfl | rfl <;> exact rwStore_fields _ _ _ 0xFFFFFFFF 0 rfl (by decide)
  rw [← hrw, if_neg (by simp)]
  rcases h with rfl | rfl <;> rfl

/-- A word of the PTP master's identity is stored from any source. -/
theorem regWriteRaw_chnWord (s : State) (src off v : Nat) (o : Outside) (h : off = 0x30 ∨ off = 0x34) :
    WordStored s (Base.chn + off) v (regWriteRaw s src (Base.chn + off) v o).1 := by
  rw [regWriteRaw_chn s src off v o (by omega), chnWrite_ptpMid s off v h]
  exact ptpForget_wordStored (rwPut_wordStored s _ v)

/-- A word of the breakpoint's tick is stored from port 1. -/
theorem regWriteRaw_dbgWord (s : State) (off v : Nat) (o : Outside) (h : off = 0x20 ∨ off = 0x24) :
    WordStored s (Base.dbg + off) v (regWriteRaw s 1 (Base.dbg + off) v o).1 := by
  rw [regWriteRaw_dbg s 1 off v o (by omega), dbgWrite_bpTc s off v o.view h]
  exact rwPut_wordStored s _ v

/-- Either word of a pair is stored, where its source may write the pair. -/
theorem regWriteRaw_pairWord (s : State) (src lo hi v : Nat) (o : Outside) (hp : widePair lo = some hi)
    (hm : mayWrite src lo = true) :
    WordStored s lo v (regWriteRaw s src lo v o).1 ∧ WordStored s hi v (regWriteRaw s src hi v o).1 := by
  rcases widePair_cases hp with ⟨rfl, rfl⟩ | ⟨rfl, rfl⟩
  · exact ⟨regWriteRaw_chnWord s src _ v o (.inl rfl), regWriteRaw_chnWord s src _ v o (.inr rfl)⟩
  · obtain rfl : src = 1 := by simpa [mayWrite, show blkOf (Base.dbg + 0x20) = 14 from rfl] using hm
    exact ⟨regWriteRaw_dbgWord s _ v o (.inl rfl), regWriteRaw_dbgWord s _ v o (.inr rfl)⟩

theorem alook_adel_other (m : Amap) (k j : Nat) (h : j ≠ k) : alook (adel m k) j = alook m j := alookD_adel m k j 0 (Ne.symm h)

/-- What a write of the low word `lo` from source `src` does: both words are stored, the high one from what the source staged, and only that
is used up. -/
structure PairWritten (s : State) (src lo hi v : Nat) (b : State) : Prop where
  low : rwGet b lo 0 = v &&& 0xFFFFFFFF
  high : rwGet b hi 0 = if ahas s.staged (srcKey src hi) then alook s.staged (srcKey src hi) &&& 0xFFFFFFFF else rwGet s hi 0
  used : ahas b.staged (srcKey src hi) = false
  others : ∀ k, k ≠ srcKey src hi → alook b.staged k = alook s.staged k ∧ ahas b.staged k = ahas s.staged k
  rest : ∀ k, k ≠ lo → k ≠ hi → rwGet b k 0 = rwGet s k 0
  frame : b.mem = s.mem ∧ b.saf = s.saf ∧ b.tsq = s.tsq ∧ b.pwr = s.pwr ∧ b.dmc = s.dmc ∧ b.fab = s.fab ∧ b.dbg = s.dbg

/-- 00 R11: with a staged high word, the low word's write applies both; without one, the high word stays as it is. -/
theorem regWriteWith_pair (s : State) (src lo hi v : Nat) (o : Outside) (hp : widePair lo = some hi) (hm : mayWrite src lo = true) :
    PairWritten s src lo hi v (regWriteWith s src lo v o).1 := by
  have hne : lo ≠ hi ∧ isWideHigh lo = false := by
    rcases widePair_cases hp with ⟨rfl, rfl⟩ | ⟨rfl, rfl⟩ <;> decide
  obtain ⟨hne, hlow⟩ := hne
  unfold regWriteWith
  simp only [hm, hlow, hp, Bool.not_true, Bool.false_eq_true, if_false]
  split
  case isTrue hst =>
    set x : State := { s with staged := adel s.staged (srcKey src hi) }
    have h1 := (regWriteRaw_pairWord x src lo hi (alook s.staged (srcKey src hi)) o hp hm).2
    set y := (regWriteRaw x src hi (alook s.staged (srcKey src hi)) o).1
    have h2 := (regWriteRaw_pairWord y src lo hi v o hp hm).1
    have hstaged := h2.staged.trans h1.staged
    exact {
      low := by rw [h2.word, if_pos rfl]
      high := by rw [h2.word, if_neg hne, h1.word, if_pos rfl, if_pos hst]
      used := by rw [hstaged, ahas_adel]
      others := fun k hk => by rw [hstaged]; exact ⟨alook_adel_other _ _ _ hk, ahas_adel_other _ _ _ hk⟩
      rest := fun k hl hh => by rw [h2.word, if_neg (Ne.symm hl), h1.word, if_neg (Ne.symm hh)]; rfl
      frame := ⟨h2.mem.trans h1.mem, h2.saf.trans h1.saf, h2.tsq.trans h1.tsq, h2.pwr.trans h1.pwr, h2.dmc.trans h1.dmc,
        h2.fab.trans h1.fab, h2.dbg.trans h1.dbg⟩ }
  case isFalse hst =>
    have h := (regWriteRaw_pairWord s src lo hi v o hp hm).1
    exact {
      low := by rw [h.word, if_pos rfl]
      high := by rw [h.word, if_neg hne, if_neg hst]
      used := by rw [h.staged]; simpa using hst
      others := fun k _ => by rw [h.staged]; exact ⟨rfl, rfl⟩
      rest := fun k hl _ => by rw [h.word, if_neg (Ne.symm hl)]
      frame := ⟨h.mem, h.saf, h.tsq, h.pwr, h.dmc, h.fab, h.dbg⟩ }

/-- A write of a high word is only staged. -/
theorem regWriteWith_high (s : State) (src hi v : Nat) (o : Outside) (hh : isWideHigh hi = true) (hm : mayWrite src hi = true) :
    (regWriteWith s src hi v o).1 = { s with staged := aset s.staged (srcKey src hi) v } := by
  unfold regWriteWith
  simp only [hm, hh, Bool.not_true, Bool.false_eq_true, if_false, if_true]

/-! ### 64-bit registers: the statement -/

theorem execWideLowRead_on (w : When) (src a : Nat) (s : State) (hlow : isWideLow a = true) (hd : domOn s (regDom a) = true) :
    execWideLowRead w src a s = .next (endCmd s (regRead (advance w s) src a).2) :=
  cmdRun_eq (if_pos (by rw [hlow, domsOn_reg w s a hd]; rfl))

theorem execWideHighWrite_on (w : When) (hi : Nat) (r : Wr) (s : State) (hh : isWideHigh hi = true) (hd : domOn s (regDom hi) = true) :
    execWideHighWrite w hi r s = .next (endCmd s (regWriteWith (advance w s) r.src hi r.val.toNat noOutside).1) := by
  have ha : 0x40000000 ≤ hi ∧ hi < 0x40100000 ∧ hi % 4 = 0 := by
    rcases isWideHigh_cases hh with rfl | rfl <;> decide
  obtain ⟨h1, h2, h4⟩ := ha
  exact cmdRun_eq ((if_pos hh).trans (writeReg_on w hi r noOutside s h1 h2 h4 hd))

theorem execWideLowWrite_on (w : When) (lo hi : Nat) (r : Wr) (s : State) (hp : widePair lo = some hi)
    (hd : domOn s (regDom lo) = true) :
    execWideLowWrite w lo r s = .next (endCmd s (regWriteWith (advance w s) r.src lo r.val.toNat noOutside).1) := by
  have ha : 0x40000000 ≤ lo ∧ lo < 0x40100000 ∧ lo % 4 = 0 := by
    rcases widePair_cases hp with ⟨rfl, -⟩ | ⟨rfl, -⟩ <;> decide
  obtain ⟨h1, h2, h4⟩ := ha
  exact cmdRun_eq ((if_pos (by rw [hp]; rfl)).trans (writeReg_on w lo r noOutside s h1 h2 h4 hd))

/-- Settles O15: the low word's read latches for its source alone (`srcKey_ne`), and the low word's write is `regWriteWith_pair`. -/
theorem wideRegisters : Obligations.WideRegisters := by
  unfold Obligations.WideRegisters
  refine ⟨fun w src addr s hlow _ _ _ hd => ⟨?_, ?_, fun o _ _ hne => ?_⟩, fun w r s => ⟨fun hi hh hm hd => ?_, fun lo hi hp hm hd => ?_⟩⟩
  · exact (execWideLowRead_on w src addr s hlow hd).trans (by rw [regRead_low _ src addr hlow]; rfl)
  · rw [regRead_high _ src addr hlow, alook_aset, if_pos rfl]
  · rw [alook_aset, if_neg (srcKey_ne _ hne)]
  · exact (execWideHighWrite_on w hi r s hh hd).trans (by rw [regWriteWith_high _ r.src hi _ noOutside hh hm]; rfl)
  · have h := regWriteWith_pair (advance w s) r.src lo hi r.val.toNat noOutside hp hm
    exact ⟨_, execWideLowWrite_on w lo hi r s hp hd, h.low.trans (toNat_and_word r.val), h.high, h.used, h.others, h.rest, h.frame⟩

/-! ### The register write command -/

/-- A write that is not of one word does nothing. -/
theorem execRegisterWrite_notWord (w : When) (a size : Nat) (r : Wr) (s : State) (h : size ≠ 4) :
    execRegisterWrite w a size r s = .next (endCmd s (advance w s)) :=
  cmdRun_eq (if_pos h)

/-- A write that takes nothing from outside is the register's write. -/
theorem execRegisterWrite_inside (w : When) (a : Nat) (r : Wr) (s : State) (h : takesOutside a = false) :
    execRegisterWrite w a 4 r s = .next (endCmd s (writeReg a r noOutside (advance w s))) :=
  cmdRun_eq ((if_neg (by decide)).trans (if_neg (by simp [h])))

/-- One that does take something from outside is the register's write with free values. -/
theorem execRegisterWrite_outside (w : When) (a : Nat) (r : Wr) (s : State) (h : takesOutside a = true) :
    execRegisterWrite w a 4 r s = .next (endCmd s (writeReg a r (freeOutside (advance w s)) (useOutside (advance w s)))) :=
  cmdRun_eq ((if_neg (by decide)).trans (if_pos h))

/-- Word `n` of TSQ's staged entry is kept for its source (04 R108). -/
theorem write_tsqStage (w : When) (n : Nat) (hn : n < 4) (r : Wr) (o : Outside) (s : State) (hd : domOn s 5 = true) :
    writeReg (Base.tsq + 0x80 + 4 * n) r o (advance w s) =
      { advance w s with tsq := { s.tsq with stage := aset s.tsq.stage (4 * r.src + n) r.val.toNat } } := by
  interval_cases n <;>
  · rw [writeReg_plain w _ r o s 5 hd (by decide) (by decide) (by decide) (by decide) rfl rfl rfl rfl]
    rfl

/-- The staged timeout of the watchdog, WDG_TIMEOUT (19 R490; the statement calls it WDG_INTERVAL), is plain storage. -/
theorem write_wdgTimeout (w : When) (r : Wr) (o : Outside) (s : State) (hd : domOn s 8 = true) :
    writeReg (Base.wdg + 0x10) r o (advance w s) = rwPut (advance w s) (Base.wdg + 0x10) (r.val.toNat &&& 0xFFFFFFFF) := by
  rw [writeReg_plain w _ r o s 8 hd (by decide) (by decide) (by decide) (by decide) rfl rfl rfl rfl]
  exact rwStore_fields _ (Base.wdg + 0x10) r.val.toNat 0xFFFFFFFF 0xFFFFFFFF rfl (by decide)

/-- Settles O16: each write is `writeReg`, which its register's domain and its source may stop. -/
theorem registerWrite : Obligations.RegisterWrite := by
  unfold Obligations.RegisterWrite
  refine fun w addr size r s => ⟨execRegisterWrite_notWord w addr size r s,
    fun h1 h2 h4 => ⟨fun hi hno => ?_, fun hi hd => ?_, fun ho hd => ?_⟩, fun n hn hd => ?_, fun hd => ?_⟩
  · refine (execRegisterWrite_inside w addr r s hi).trans ?_
    rcases hno with hoff | hbar
    · rw [writeReg_off w addr r _ s h1 h2 h4 hoff]
    · rw [writeReg_barred w addr r _ s h1 h2 h4 hbar]
  · exact (execRegisterWrite_inside w addr r s hi).trans (by rw [writeReg_on w addr r _ s h1 h2 h4 hd])
  · refine (execRegisterWrite_outside w addr r s ho).trans ?_
    have hd' : domOn (useOutside (advance w s)) (regDom addr) = true := (advance_domOn w s _).trans hd
    rw [writeReg_eq addr r _ _ h1 h2 (by omega) h4, if_pos hd']
  · have hin : takesOutside (Base.tsq + 0x80 + 4 * n) = false := by
      interval_cases n <;> decide
    exact (execRegisterWrite_inside w _ r s hin).trans (by rw [write_tsqStage w n hn r _ s hd])
  · exact (execRegisterWrite_inside w _ r s rfl).trans (by rw [write_wdgTimeout w r _ s hd]; rfl)

/-! ### Snapshots (00 R12, R13) -/

/-- A snapshot on the state `x`, whose copy leaves `y`: ignored while the block's copy runs, and else marked as running from now. -/
theorem snapWrite_eq (x y : State) (k : Nat) (h : snapCopy x k = y) :
    snapWrite x k = if snapRuns x k then x else { y with snapBusy := (k, x.clk.mclk) :: x.snapBusy.filter fun z => z.1 != k } := by
  unfold snapWrite
  rw [h]

/-- PSO_CTL keeps the two bits that name an engine. -/
theorem bits_psoCtl (v : Nat) : bits (v &&& 0x30000) 17 16 = bits v 17 16 := by
  have hmask : 0x30000 / 2 ^ 16 = 2 ^ 2 - 1 := rfl
  unfold bits
  rw [Nat.and_div_two_pow, hmask, Nat.and_two_pow_sub_one_eq_mod]
  exact Nat.mod_mod _ _

/-- PSO's SNAP copies the flip record of the engine that the stored control word names (09 R265). -/
theorem psoSnap_rwPut (s : State) (v : Nat) :
    psoSnap (rwPut s Base.pso (v &&& 0x30000)) =
      { rwPut s Base.pso (v &&& 0x30000) with pso := { s.pso with sn := (psoAt s (bits v 17 16)).flipRec } } := by
  unfold psoSnap
  rw [rwGet_rwPut, if_pos rfl, bits_psoCtl]
  rfl

/-- A write of TWN_CTL without the key and without CLRFAULT only stores its RW field (16 R443). -/
theorem twnCtlWrite_plain (s : State) (v : Nat) (hk : bits v 31 16 ≠ 0x7A1D) (h4 : bitAt v 4 = false) :
    twnCtlWrite s v = rwPut s Base.twn (bits v 3 2 * 4) := by
  unfold twnCtlWrite
  simp only [h4, Bool.false_eq_true, if_false]
  rw [if_neg hk]

/-- Settles O17: each control register's SNAP is `snapWrite` of its block, after the register's plain fields are stored. -/
theorem snapshotCommands : Obligations.SnapshotCommands := by
  unfold Obligations.SnapshotCommands
  refine fun w r s blk => ⟨rfl, fun hd h1 h2 => ?_, fun hd h1 => ?_, fun hd h1 => ?_, fun hd h1 => ?_, fun hd h5 hk h4 => ?_,
    fun hd h5 h4 => ?_⟩
  · refine cmdRun_eq ((write_lseCtl w r noOutside s hd).trans ?_)
    rw [h1, h2]
    exact snapWrite_eq _ _ 6 rfl
  · refine cmdRun_eq ((write_psoCtl w r noOutside s hd).trans ?_)
    rw [h1, rwStore_fields _ Base.pso _ 0x30000 0 rfl (by decide)]
    exact snapWrite_eq _ _ 5 (psoSnap_rwPut _ _)
  · refine cmdRun_eq ((write_srvCtl w r noOutside s hd).trans ?_)
    rw [h1, rwStore_fields _ Base.srv _ 0xF00 0 rfl (by decide)]
    exact snapWrite_eq _ _ 7 rfl
  · refine cmdRun_eq ((write_lpeCtl w r noOutside s hd).trans ?_)
    rw [h1, rwStore_fields _ Base.lpe _ 0x30700 0 rfl (by decide)]
    exact snapWrite_eq _ _ 8 rfl
  · refine cmdRun_eq ((write_twnCtl w r noOutside s hd).trans ?_)
    rw [h5, twnCtlWrite_plain _ _ hk h4]
    exact snapWrite_eq _ _ 10 rfl
  · refine cmdRun_eq ((write_fldCtl w r noOutside s hd).trans ?_)
    rw [h4, h5, rwStore_fields _ Base.fld _ 0x7 0 rfl (by decide)]
    exact snapWrite_eq _ _ 15 rfl

end Sys2Proof.Machine
end

section
/-! PROOF. What a high enable says of the machine (01 R24, R29, R30, 12 R315, R318, 14 R370). -/

namespace Sys2Proof.Machine

/-- 14 R370: the conditions under which Aperture drives the enable of channel `n` high. -/
theorem lenLevel_high_iff (s : State) (n : Nat) :
    (lenLevel s n).1 = true ↔
      s.saf.dark = false ∧ mayEmit s = true ∧ bitAt s.saf.ena n = true ∧ engKind s (n / 4) ≠ 0 ∧ chanRole s n ≠ 0 ∧
        ceilOk s = true ∧ trimOk s = true ∧ roleEmits s (n / 4) (chanRole s n) = true ∧
        (engKind s (n / 4) = 2 → (safEng s (n / 4)).qual = true ∧ (safEng s (n / 4)).park = false) ∧
        ((engClear s (n / 4) = true ∧ s.boot.fallback = false) ∨ sfOpenOk (safB s) n = true) := by
  simp only [lenLevel, Bool.and_eq_true, Bool.or_eq_true, Bool.not_eq_true', bne_iff_ne, and_assoc, Decidable.imp_iff_not_or]

/-- 16 Table 16-8: a chip that may emit is solo or lead, so it is no shadow. -/
theorem isShadow_of_mayEmit {s : State} (h : mayEmit s = true) : isShadow s = false := by
  have hst : (s.twn.st = 0 ∨ s.twn.st = 2) ∨ s.twn.st = 3 := by
    simpa only [mayEmit, isLead, Bool.or_eq_true, beq_iff_eq, or_assoc] using h
  have hlow : ¬ 4 ≤ s.twn.st := by omega
  simp [isShadow, hlow]

/-- 01 Table 1-1: violet is a role of set 1 of a running machine alone. -/
theorem roleEmits_violet_iff (s : State) (e : Nat) : roleEmits s e 4 = true ↔ s.tsq.run = true ∧ s.tsq.set = 1 := by
  unfold roleEmits
  split
  next hrun =>
    split
    next hset => simp [hset]
    next hset => simp [hset, hrun]
    next hset => simpa using fun _ => hset
  next hrun => simp [hrun]

/-- 01 R30: enables at their levels are low in Dark. -/
theorem EnablesRight.darkIsDark {s : State} (h : EnablesRight s) : DarkIsDark s := by
  intro hdark n hn
  rw [h n hn, ← Bool.not_eq_true, lenLevel_high_iff]
  simp [hdark]

/-- Settles O7: a high enable is a high level, which the conditions of 14 R370 give. -/
theorem enablesRightIsSafe : Obligations.EnablesRightIsSafe := by
  unfold Obligations.EnablesRightIsSafe
  intro s h
  refine ⟨h.darkIsDark, fun n hn hdrive => ?_⟩
  have hlevel : (lenLevel s n).1 = true := h n hn ▸ hdrive
  obtain ⟨-, hmay, hena, hkind, -, hceil, htrim, hemits, hscan, -⟩ := (lenLevel_high_iff s n).1 hlevel
  have hviolet : VioletOn s n → s.tsq.run = true ∧ s.tsq.set = 1 := fun ⟨_, hrole⟩ =>
    (roleEmits_violet_iff s (n / 4)).1 (hrole ▸ hemits)
  exact ⟨hceil, htrim, isShadow_of_mayEmit hmay, hena, hkind, hviolet, hscan⟩

end Sys2Proof.Machine
end

section
/-! PROOF. What a contract fault records and does, and the tick sequencer's selects (02 R57, R59, R68, 04 R118 to R120). -/

namespace Sys2Proof.Machine

/-! ### Contract faults -/

section
variable (s : State) (c code cls unit detail : Nat) (word : Option Nat)

/-- A contract fault touches the sequencer alone. -/
theorem raiseFaultAt_eq :
    raiseFaultAt s c code cls unit detail word = { s with tsq := (raiseFaultAt s c code cls unit detail word).tsq } := rfl

/-- 02 R64: cause CONTRACT of the running tick's degradation is set. -/
theorem raiseFaultAt_degr : bitAt (raiseFaultAt s c code cls unit detail word).tsq.degr 0 = true :=
  (bitAt_setBit s.tsq.degr 0 0 true).trans (if_pos rfl)

/-- Codes count from 1, and each counter saturates (04 R118). -/
theorem raiseFaultAt_fcnt (h1 : 1 ≤ code) (hlen : code ≤ s.tsq.fcnt.length) :
    lget (raiseFaultAt s c code cls unit detail word).tsq.fcnt (code - 1) 0 = min 0xFFFFFFFF (lget s.tsq.fcnt (code - 1) 0 + 1) :=
  lget_lmod_same s.tsq.fcnt (code - 1) sat32 0 (by omega)

/-- PENDING, once set, stays; classes S (2) and X (3) set it. -/
theorem raiseFaultAt_pend :
    (raiseFaultAt s c code cls unit detail word).tsq.pend = true ↔ s.tsq.pend = true ∨ 2 ≤ cls := by
  have hpend : (raiseFaultAt s c code cls unit detail word).tsq.pend = (s.tsq.pend || decide (2 ≤ cls)) := rfl
  rw [hpend, Bool.or_eq_true, decide_eq_true_iff]

/-- Class X blanks from its cycle, or from where an earlier one already does. -/
theorem raiseFaultAt_blank :
    (raiseFaultAt s c code cls unit detail word).tsq.blank =
      if cls = 3 then some (min c (s.tsq.blank.getD c)) else s.tsq.blank := rfl

end

/-- Settles O12: the fields of `raiseFaultAt`, one lemma each. -/
theorem contractFault : Obligations.ContractFault := by
  unfold Obligations.ContractFault
  intro s c code cls unit detail word h1 hlen
  refine ⟨raiseFaultAt_eq s c code cls unit detail word, raiseFaultAt_degr s c code cls unit detail word,
    raiseFaultAt_fcnt s c code cls unit detail word h1 hlen, ⟨_, rfl, rfl, rfl, rfl, rfl, rfl⟩,
    raiseFaultAt_pend s c code cls unit detail word, fun hX => ?_, fun hX => ?_, rfl, rfl, rfl, rfl⟩
  · exact ⟨_, (raiseFaultAt_blank s c code cls unit detail word).trans (if_pos hX), min_le_left _ _⟩
  · exact (raiseFaultAt_blank s c code cls unit detail word).trans (if_neg hX)

/-! ### The sequencer's register commands -/

/-- A select of the sequencer keeps the six bits that name an entry of a ring of 64. -/
theorem rwStore_ringSel (s : State) (a v : Nat) (h : rwField (blkOf a) (a % 0x10000) = (0x3F, 0)) :
    rwStore s a v = rwPut s a (v % 64) :=
  (rwStore_fields s a v 0x3F 0 h (by decide)).trans (congrArg (rwPut s a) (Nat.and_two_pow_sub_one_eq_mod v 6))

/-- Settles O14: each write is its register's own (`write_guardMin`, `write_mresSel`, `write_flogSel`), with the index of a select stored. -/
theorem tsqRegisterCommands : Obligations.TsqRegisterCommands := by
  unfold Obligations.TsqRegisterCommands
  refine fun w r s hd => ⟨cmdRun_eq (write_guardMin w r noOutside s hd), ?_, ?_⟩
  · refine cmdRun_eq ((write_mresSel w r noOutside s hd).trans ?_)
    rw [rwStore_ringSel _ (Base.tsq + 0xA0) _ rfl]
    rfl
  · refine cmdRun_eq ((write_flogSel w r noOutside s hd).trans ?_)
    rw [rwStore_ringSel _ (Base.tsq + 0x108) _ rfl]
    rfl

end Sys2Proof.Machine
end

section
/-! PROOF. The state at reset, and what a write of FLD_HOTCTL, the end of a hot check and SVBUMP do (03 R77, R89 to R92). -/

namespace Sys2Proof.Machine

/-! ### Reset -/

/-- 00 R1: SYS_PARTID is a constant, in every state and for every source. -/
theorem regValue_partId (s : State) (src : Nat) : regValue s src Base.sys = partId := by
  have hblk : blkOf Base.sys = 0 := by decide
  have hoff : Base.sys % 0x10000 = 0 := by decide
  have hrw : rwPart s Base.sys = 0 := by
    unfold rwPart
    rw [hblk, hoff]
    rfl
  have hread : blockRead s src 0 0 = partId := rfl
  have hsnap : snapBit s 0 = 0 := ite_self 0
  unfold regValue
  simp only [hblk, hoff, hrw, hread, hsnap, if_pos]
  decide

/-- Settles O4: each field has its default, and SYS_PARTID is `regValue_partId`. -/
theorem resetState : Obligations.ResetState := by
  unfold Obligations.ResetState
  exact ⟨rfl, rfl, rfl, rfl, rfl, rfl, rfl, rfl, rfl, rfl, rfl, regValue_partId State.reset⟩

/-! ### FLD_HOTCTL (03 R89, R91, R92) -/

theorem hotLocked_iff (s : State) : hotLocked s = true ↔ s.fld.staged.isSome = true ∧ s.fld.applyPend ≠ 0 := by
  unfold hotLocked
  rw [Bool.and_eq_true, bne_iff_ne]

/-- While a check runs or the staged image is LOCKED, a write changes nothing. -/
theorem hotCtl_refused (s : State) (v : Nat) (h : s.fld.checking = true ∨ hotLocked s = true) : (hotCtl s v).1 = s := by
  have hbusy : (s.fld.checking || hotLocked s) = true := by rwa [Bool.or_eq_true]
  unfold hotCtl
  dsimp only
  rw [if_pos hbusy, apply_ite Prod.fst, ite_self]

/-- The state in which a taken write of FLD_HOTCTL starts its check: DISCARD comes first. -/
def discarded (s : State) (drop : Bool) : State := { s with fld := { s.fld with staged := if drop then none else s.fld.staged } }

/-- A write that is taken discards, checks, or both in that order. -/
theorem hotCtl_taken (s : State) (v : Nat) (h : s.fld.checking = false) (hl : hotLocked s = false) :
    (hotCtl s v).1 =
      if bitAt v 0 then hotStart (discarded s (bitAt v 1)) (rwGet s (Base.fld + 0x1C) 0) else discarded s (bitAt v 1) := by
  unfold hotCtl
  rw [h, hl]
  cases bitAt v 0 <;> cases bitAt v 1 <;> rfl

/-- A check of an image in SRAM banks 1 to 7 or in DRAM begins with a read of its header, from port 2. -/
theorem hotStart_reads (s : State) (a : Nat) (h : (0x10100000 ≤ a ∧ a < 0x10800000) ∨ 0x80000000 ≤ a) :
    ∃ x, hotStart s a = { s with
        fld := { s.fld with checking := true, hotBuf := none }, fab := { s.fab with xfers := s.fab.xfers ++ [x] } } ∧
      x.src = 2 ∧ x.job = .imgHead true a := by
  unfold hotStart
  rw [if_pos h]
  exact ⟨_, rfl, rfl, rfl⟩

/-- One elsewhere finds no bytes (assumption log entry 144). -/
theorem hotStart_nothing (s : State) (a : Nat) (h : ¬ ((0x10100000 ≤ a ∧ a < 0x10800000) ∨ 0x80000000 ≤ a)) :
    hotStart s a = { s with fld := { s.fld with checking := true, hotBuf := some [] } } := by
  unfold hotStart
  rw [if_neg h]
  rfl

/-! ### The end of a hot check (03 R90, R91) -/

/-- Without a check, or before its image is read, nothing ends. -/
theorem hotCheckEnd_idle (s : State) (h : s.fld.checking = false ∨ s.fld.hotBuf = none) : hotCheckEnd s = s := by
  unfold hotCheckEnd
  split
  next => rfl
  next d hd =>
    have hno : s.fld.checking = false := h.resolve_right (by simp [hd])
    rw [if_pos (by simp [hno])]

/-- The state in which a check gives its verdict: it has ended, and the bytes it has read are gone. -/
def judged (s : State) : State := { s with fld := { s.fld with checking := false, hotBuf := none } }

section
variable (s : State) (d : Bytes) (h : s.fld.checking = true) (hd : s.fld.hotBuf = some d)
include h hd

/-- An image that fails is not staged, and its code is kept. -/
theorem hotCheckEnd_fails {step code sect : Nat} (hc : checkImage (judged s) true d = some (step, code, sect)) :
    hotCheckEnd s = { judged s with fld := { (judged s).fld with hotCode := code, hotSect := sect } } := by
  unfold judged at hc ⊢
  unfold hotCheckEnd
  simp only [hd, h, hc, Bool.not_true, Bool.false_eq_true, if_false]

theorem hotCheckEnd_passes (hc : checkImage (judged s) true d = none) : hotCheckEnd s = hotPass (judged s) d := by
  unfold judged at hc ⊢
  unfold hotCheckEnd
  simp only [hd, h, hc, Bool.not_true, Bool.false_eq_true, if_false]

end

theorem hotPass_locked (s : State) (d : Bytes) (h : hotLocked s = true) :
    hotPass s d = { s with fld := { s.fld with hotCode := 0x21, hotSect := noSect } } := by
  unfold hotPass
  rw [if_pos h]

theorem hotPass_stages (s : State) (d : Bytes) (h : ¬ hotLocked s = true) :
    hotPass s d = { s with fld := { s.fld with
      staged := some { seq := ihSeq d, body := d.take (ihBody d), whole := imageBytes d, secs := (imageSecs d).map (·.2) } } } := by
  unfold hotPass
  rw [if_neg h]

/-- Settles O18: FLD_HOTCTL by `hotCtl_refused` and `hotCtl_taken`, the verdict by `hotCheckEnd_judged`, and SVBUMP is its own register's write. -/
theorem hotImageControl : Obligations.HotImageControl := by
  unfold Obligations.HotImageControl
  refine ⟨fun w r s hd => ?_, fun w s => ⟨fun h => ?_, fun d hc hb => ?_⟩, fun w r s hd => ?_⟩
  · refine ⟨fun hbusy => ?_, fun hidle hfree => ?_⟩
    · have hsame := (write_hotCtl w r noOutside s hd).trans
        (hotCtl_refused (advance w s) _ (hbusy.imp_right (hotLocked_iff (advance w s)).mpr))
      exact ⟨cmdRun_eq hsame, cmdRun_eq hsame⟩
    · have hopen : hotLocked (advance w s) = false := by
        rw [Bool.eq_false_iff, ne_eq, hotLocked_iff]
        rintro ⟨hst, hap⟩
        rcases hfree with hno | h0
        · exact absurd (hst.symm.trans hno) (by decide)
        · exact hap h0
      have htaken := (write_hotCtl w r noOutside s hd).trans (hotCtl_taken (advance w s) _ hidle hopen)
      refine ⟨fun h1 h0 => ?_, fun h0 hat => ?_, fun h0 hat => ?_⟩
      · rw [h0, h1] at htaken
        exact cmdRun_eq htaken
      · rw [if_pos h0] at htaken
        obtain ⟨x, hx, hsrc, hjob⟩ := hotStart_reads (discarded (advance w s) (bitAt r.val.toNat 1)) _ hat
        exact ⟨x, cmdRun_eq (htaken.trans hx), hsrc, hjob⟩
      · rw [if_pos h0] at htaken
        exact cmdRun_eq (htaken.trans (hotStart_nothing (discarded (advance w s) (bitAt r.val.toNat 1)) _ hat))
  · exact cmdRun_eq (hotCheckEnd_idle (advance w s) h)
  · refine cmdRun_eq ?_
    dsimp only
    split
    next hv => exact hotCheckEnd_fails (advance w s) d hc hb hv
    next hv =>
      refine (hotCheckEnd_passes (advance w s) d hc hb hv).trans ?_
      split
      next hl => exact hotPass_locked _ d ((hotLocked_iff _).mpr hl)
      next hl => exact hotPass_stages _ d (mt (hotLocked_iff _).mp hl)
  · refine cmdRun_eq ((write_svBump w r noOutside s hd).trans ?_)
    unfold svBump
    rfl

end Sys2Proof.Machine
end

section
/-! PROOF. Boot sources and the load of a base image (03 R83 to R88, R94, R96, R97). -/

namespace Sys2Proof.Machine

/-! ### What a part of a step leaves unchanged -/

/-- A command to power domains up touches the power state alone. -/
theorem cmdUps_pwr (ds : List Nat) (s : State) : ∃ p, ds.foldl cmdUp s = { s with pwr := p } := by
  refine foldl_keep (fun x => ∃ p, x = { s with pwr := p }) _ ?_ ds ⟨s.pwr, rfl⟩
  rintro _ d ⟨p, rfl⟩
  exact ⟨_, rfl⟩

/-- So do the commands for those that are not on. -/
theorem cmdUpsOff_pwr (ds : List Nat) (s : State) :
    ∃ p, ds.foldl (fun s d => if domOn s d then s else cmdUp s d) s = { s with pwr := p } := by
  refine foldl_keep (fun x => ∃ p, x = { s with pwr := p }) _ ?_ ds ⟨s.pwr, rfl⟩
  rintro _ d ⟨p, rfl⟩
  split
  · exact ⟨_, rfl⟩
  · exact ⟨_, rfl⟩

theorem cmdDown_pwr (s : State) (d : Nat) : ∃ p, cmdDown s d = { s with pwr := p } := by
  unfold cmdDown
  dsimp only
  split
  · exact ⟨_, rfl⟩
  · exact ⟨_, rfl⟩

/-- Powering down what can be powered down touches the power state alone. -/
theorem downPass_pwr (keep f : Nat) (ds : List Nat) (s : State) (left skip : List Nat) :
    ∃ p, (downPass keep f ds (s, left, skip)).1 = { s with pwr := p } := by
  induction f generalizing ds s left skip with
  | zero => exact ⟨s.pwr, rfl⟩
  | succ f ih =>
    cases ds with
    | nil => exact ⟨s.pwr, rfl⟩
    | cons d r =>
      unfold downPass
      dsimp only
      split_ifs
      · exact ih r s left skip
      · exact ih r s left _
      · exact ih r (startDown s d false) left skip
      · obtain ⟨p, hp⟩ := cmdDown_pwr s d
        rw [hp]
        exact ih r { s with pwr := p } left skip
      · exact ih r s _ skip
      · exact ih r s left _

theorem downStep_pwr (s : State) : ∃ p, downStep s = { s with pwr := p } := by
  obtain ⟨p, hp⟩ := downPass_pwr 0 65 s.pwr.downLeft.reverse s [] []
  unfold downStep
  dsimp only
  rw [hp]
  exact ⟨_, rfl⟩

/-- 17 R449: the apply of DOMAINS touches the power state alone. -/
theorem domainsApply_pwr (s : State) : ∃ p, domainsApply s = { s with pwr := p } := by
  obtain ⟨p, hp⟩ := cmdUpsOff_pwr (domsOf (applyOn s)) s
  unfold domainsApply
  dsimp only
  rw [hp]
  exact downStep_pwr _

theorem portsDown_chn (ps : List Nat) (s : State) :
    ∃ c, ps.foldl (fun s p => if portUsed s p then s else portDown s p) s = { s with chn := c } := by
  refine foldl_keep (fun x => ∃ c, x = { s with chn := c }) _ ?_ ps ⟨s.chn, rfl⟩
  rintro _ d ⟨c, rfl⟩
  split
  · exact ⟨_, rfl⟩
  · exact ⟨_, rfl⟩

theorem twinBootReq_twn (s : State) : ∃ t, twinBootReq s = { s with twn := t } := by
  unfold twinBootReq
  split
  · exact ⟨_, rfl⟩
  · exact ⟨s.twn, rfl⟩

/-- 03 Table 3-7: what a source asks for when its turn comes: its domains. -/
theorem sourceDoms_pwr (s : State) (k : Nat) :
    ∃ p, (if k = 2 then [54, 55, 56, 11].foldl cmdUp s else if k = 3 then [50, 51, 52, 53, 11].foldl cmdUp s else s) =
      { s with pwr := p } := by
  split_ifs
  · exact cmdUps_pwr _ s
  · exact cmdUps_pwr _ s
  · exact ⟨s.pwr, rfl⟩

/-- And its data: the twin's by a frame, a memory's by a read. -/
theorem sourceRead_fab (s : State) (k a : Nat) :
    ∃ fa t, twinBootReq (if k = 4 then imgRead s false a else s) = { s with fab := fa, twn := t } := by
  obtain ⟨t, ht⟩ := twinBootReq_twn (if k = 4 then imgRead s false a else s)
  rw [ht]
  split
  · exact ⟨_, _, rfl⟩
  · exact ⟨s.fab, t, rfl⟩

/-! ### The next source (03 R84, R87) -/

/-- With no source left the sequence waits from now on. -/
theorem tryNext_nil (s : State) (h : s.fld.left = []) :
    ∃ fa, tryNext s = { s with
      fab := fa, fld := { s.fld with memBuf := none, load := none, failedAt := some s.clk.aon }, chn := { s.chn with boot := false } } := by
  unfold tryNext xferDrop
  dsimp only
  rw [h]
  exact ⟨_, rfl⟩

/-- Else the first of them is tried. -/
theorem tryNext_cons (s : State) (k : Nat) (r : List Nat) (h : s.fld.left = k :: r) :
    ∃ fa rx n c p t, tryNext s = { s with
      fab := fa, fld := { s.fld with memBuf := none, load := none, st := 1, rx := rx, rxCount := none, failedAt := none }
      boot := { s.boot with step := n }, chn := c, pwr := p, twn := t } := by
  unfold tryNext xferDrop
  dsimp only
  rw [h]
  dsimp only
  generalize hx : ({ s with fab := _, fld := _, chn := _, boot := _ } : State) = x
  obtain ⟨p, hp⟩ := sourceDoms_pwr x k
  rw [hp]
  obtain ⟨fa, t, ht⟩ := sourceRead_fab { x with pwr := p } k _
  rw [ht, ← hx]
  exact ⟨_, _, _, _, _, _, rfl⟩

/-- What a source's turn leaves: the record of the images, the memories and the sequencer as they were, nothing under way of the source before,
and the first of the sources left being tried; with none left, the time at which the last one failed. -/
structure TurnTaken (s b : State) : Prop where
  code : b.fld.code = s.fld.code
  sect : b.fld.sect = s.fld.sect
  source : b.fld.source = s.fld.source
  applied : b.fld.applied = s.fld.applied
  left : b.fld.left = s.fld.left
  secs : b.fld.secs = s.fld.secs
  mem : b.mem = s.mem
  tsq : b.tsq = s.tsq
  load : b.fld.load = none
  trying : ∀ k, s.fld.left.head? = some k → curSource b = some k ∧ b.fld.failedAt = none
  waiting : s.fld.left = [] → b.fld.st = s.fld.st ∧ b.fld.failedAt = some s.clk.aon

theorem tryNext_turn (s : State) : TurnTaken s (tryNext s) := by
  cases h : s.fld.left with
  | nil =>
    obtain ⟨fa, hb⟩ := tryNext_nil s h
    rw [hb]
    exact ⟨rfl, rfl, rfl, rfl, rfl, rfl, rfl, rfl, rfl, fun k hk => by simp [h] at hk, fun _ => ⟨rfl, rfl⟩⟩
  | cons k r =>
    obtain ⟨fa, rx, n, c, p, t, hb⟩ := tryNext_cons s k r h
    rw [hb]
    exact ⟨rfl, rfl, rfl, rfl, rfl, rfl, rfl, rfl, rfl, fun _ hj => ⟨hj, rfl⟩, fun hno => by simp [h] at hno⟩

/-- The state in which source `k` has failed, before the next source's turn: why, and which sources are left. -/
def failedSource (s : State) (k code sect drop : Nat) (c : Chn) : State :=
  { s with fld := { s.fld with st := 6, code := code, sect := sect, source := k, left := s.fld.left.drop drop }, chn := c }

theorem sourceFails_turn (s : State) (k code sect drop : Nat) :
    ∃ c, TurnTaken (failedSource s k code sect drop c) (sourceFails s k code sect drop) := by
  unfold sourceFails
  dsimp only
  split
  · exact ⟨_, tryNext_turn _⟩
  · exact ⟨s.chn, tryNext_turn _⟩

/-- 03 R87, R97: what stands once source `k` has failed: the reason, the sources left, and the first of them being tried. -/
structure SourceFailed (s : State) (k code sect : Nat) (rest : List Nat) (b : State) : Prop where
  code : b.fld.code = code
  sect : b.fld.sect = sect
  source : b.fld.source = k
  applied : b.fld.applied = s.fld.applied
  left : b.fld.left = rest
  secs : b.fld.secs = s.fld.secs
  mem : b.mem = s.mem
  tsq : b.tsq = s.tsq
  load : b.fld.load = none
  trying : ∀ j, rest.head? = some j → curSource b = some j
  waiting : rest = [] → b.fld.failedAt = some s.clk.aon ∧ curSource b = none

theorem sourceFails_failed (s : State) (k code sect drop : Nat) :
    SourceFailed s k code sect (s.fld.left.drop drop) (sourceFails s k code sect drop) := by
  obtain ⟨c, h⟩ := sourceFails_turn s k code sect drop
  refine ⟨h.code, h.sect, h.source, h.applied, h.left, h.secs, h.mem, h.tsq, h.load, fun j hj => (h.trying j hj).1, fun hnone => ?_⟩
  obtain ⟨hst, hat⟩ := h.waiting hnone
  have hst6 : (sourceFails s k code sect drop).fld.st = 6 := hst
  exact ⟨hat, if_neg (by rw [hst6]; decide)⟩

/-! ### Start, timeout and retry (03 R84, R87, R96) -/

theorem sourceTimeout_fails (s : State) (k : Nat) (h : curSource s = some k) (h4 : k ≠ 4) :
    sourceTimeout s = sourceFails s k 0x1F noSect (if k < 2 then (s.fld.left.takeWhile (· < 2)).length else 1) := by
  unfold sourceTimeout
  rw [h]
  split
  next heq => exact absurd heq (by simp)
  next heq => exact absurd (Option.some.inj heq) h4
  next j _ heq => rw [Option.some.inj heq]

theorem bootRetryNow_applied (s : State) (h : s.fld.applied = true) : bootRetryNow s = s := by
  unfold bootRetryNow
  split
  · rw [if_neg (by simp [h])]
  · rfl

theorem bootRetryNow_starts (s : State) (t : Nat) (ht : s.fld.failedAt = some t) (hlate : t + 1000000 ≤ s.clk.aon)
    (h : s.fld.applied = false) : bootRetryNow s = startSources s := by
  unfold bootRetryNow
  rw [ht]
  dsimp only
  rw [if_pos (by simp [h, hlate])]

/-- 03 Table 3-7: every BOOTSEL names a source. -/
theorem bootSources_head (sel : Nat) : ∃ k, (bootSources sel).head? = some k := by
  unfold bootSources
  split <;> exact ⟨_, rfl⟩

/-- Settles O19: a timeout is `sourceTimeout_fails` with `sourceFails_failed`, and a retry the turn of the first source (`tryNext_turn`). -/
theorem bootSourceSequence : Obligations.BootSourceSequence := by
  unfold Obligations.BootSourceSequence
  refine fun w r s => ⟨fun hd h4 h5 => ?_, fun k hk hk4 => ?_, fun hap => ?_, fun t ht hlate hap => ?_⟩
  · refine cmdRun_eq ((write_fldCtl w r noOutside s hd).trans ?_)
    rw [h4, h5, rwStore_fields _ Base.fld _ 0x7 0 rfl (by decide)]
    rfl
  · have h := sourceFails_failed (advance w s) k 0x1F noSect (if k < 2 then (s.fld.left.takeWhile (· < 2)).length else 1)
    exact ⟨_, cmdRun_eq (sourceTimeout_fails (advance w s) k hk hk4), h.code, h.source, h.applied, h.left,
      fun hnone => h.waiting (h.left.symm.trans hnone), fun j hj => h.trying j (h.left ▸ hj)⟩
  · exact cmdRun_eq (bootRetryNow_applied (advance w s) hap)
  · have h := tryNext_turn { advance w s with fld := { s.fld with left := bootSources (s.boot.straps % 4), failedAt := none } }
    obtain ⟨k, hk⟩ := bootSources_head (s.boot.straps % 4)
    obtain ⟨hcur, hat⟩ := h.trying k hk
    exact ⟨_, cmdRun_eq (bootRetryNow_starts (advance w s) t ht hlate hap), hat, h.left, hcur.trans hk.symm⟩

/-! ### What a source delivers (03 R84 to R86) -/

theorem curSource_head {s : State} {j : Nat} (h : curSource s = some j) : s.fld.left.head? = some j := by
  unfold curSource at h
  split at h
  · exact h
  · exact absurd h (by simp)

/-- Both flash slots are still to be tried. -/
def slotsNext (s : State) : Bool := s.fld.left.take 2 == [0, 1]

/-- The source whose turn it is, `j`, with the better slot in the place of slot A. -/
def sourceTried (s : State) (flash : Bytes) (j : Nat) : Nat := if slotsNext s then firstSlot flash else j

/-- The sources that are left, that one first. -/
def sourcesTried (s : State) (flash : Bytes) (j : Nat) : List Nat :=
  if slotsNext s then [sourceTried s flash j, 1 - sourceTried s flash j] ++ s.fld.left.drop 2 else s.fld.left

/-- The image that source `j` has delivered, with the hot images behind it, once its last byte is in. -/
def deliveredImage (s : State) (flash : Bytes) (ended : Bool) (j : Nat) : Option (Bytes × List Bytes) :=
  if j = 2 then (if twinWhole s ∨ ended then some ((twinImages s).headD [], (twinImages s).drop 1) else none)
  else if j = 3 then (if bootComplete s then some (readRun (sramByte s) 0x100000 (s.chn.total.getD 0), []) else none)
  else if j = 4 then s.fld.memBuf.map fun d => (d, [])
  else some (padTo 0x800000 (flash.drop (sourceTried s flash j * 0x800000)), [])

/-- Slot A stands first among the two. -/
theorem slotsNext_false {s : State} {j : Nat} (hj : s.fld.left.head? = some j) (h0 : j ≠ 0) : slotsNext s = false := by
  unfold slotsNext
  rw [beq_eq_false_iff_ne]
  intro htake
  obtain ⟨r, hr⟩ := List.head?_eq_some_iff.mp hj
  rw [hr] at htake
  exact h0 (List.cons.inj htake).1

/-- The state in which a delivery's last byte is in: the better slot stands first. -/
def slotsOrdered (s : State) (flash : Bytes) (j : Nat) : State :=
  { s with fld := { s.fld with left := sourcesTried s flash j } }

/-- Only slot A's turn changes their order. -/
theorem slotsOrdered_other {s : State} {j : Nat} (flash : Bytes) (hj : s.fld.left.head? = some j) (h0 : j ≠ 0) :
    slotsOrdered s flash j = s ∧ sourceTried s flash j = j := by
  unfold slotsOrdered sourcesTried sourceTried
  rw [slotsNext_false hj h0]
  exact ⟨rfl, rfl⟩

theorem sourceDelivered_flash (s : State) (flash : Bytes) (ended : Bool) (j : Nat) (h2 : j ≠ 2) (h3 : j ≠ 3) (h4 : j ≠ 4) :
    sourceDelivered s flash ended j =
      lastByte (slotsOrdered s flash j) (sourceTried s flash j) (padTo 0x800000 (flash.drop (sourceTried s flash j * 0x800000))) [] := by
  unfold sourceDelivered
  split
  next => exact absurd rfl h2
  next => exact absurd rfl h3
  next => exact absurd rfl h4
  next =>
    unfold slotsOrdered sourcesTried sourceTried slotsNext
    simp only [beq_iff_eq]
    split_ifs <;> rfl

/-- A source that has not delivered yet is waited for. -/
theorem sourceDelivered_waits {s : State} {flash : Bytes} {ended : Bool} {j : Nat} (h : deliveredImage s flash ended j = none) :
    sourceDelivered s flash ended j = s := by
  unfold deliveredImage at h
  split_ifs at h with h2 hw h3 hb h4
  · subst h2
    exact if_neg hw
  · subst h3
    exact if_neg hb
  · subst h4
    unfold sourceDelivered
    rw [Option.map_eq_none_iff.mp h]
    rfl

/-- Whichever source has delivered, its last byte is in. -/
theorem sourceDelivered_whole {s : State} {flash : Bytes} {ended : Bool} {j : Nat} {d : Bytes} {hots : List Bytes}
    (hj : s.fld.left.head? = some j) (h : deliveredImage s flash ended j = some (d, hots)) :
    sourceDelivered s flash ended j = lastByte (slotsOrdered s flash j) (sourceTried s flash j) d hots := by
  unfold deliveredImage at h
  split_ifs at h with h2 hw h3 hb h4
  · subst h2
    obtain ⟨hs, hk⟩ := slotsOrdered_other flash hj (by decide)
    obtain ⟨rfl, rfl⟩ := Prod.mk.inj (Option.some.inj h)
    rw [hs, hk]
    exact if_pos hw
  · subst h3
    obtain ⟨hs, hk⟩ := slotsOrdered_other flash hj (by decide)
    obtain ⟨rfl, rfl⟩ := Prod.mk.inj (Option.some.inj h)
    rw [hs, hk]
    exact if_pos hb
  · subst h4
    obtain ⟨hs, hk⟩ := slotsOrdered_other flash hj (by decide)
    obtain ⟨x, hx, hxd⟩ := Option.map_eq_some_iff.mp h
    obtain ⟨rfl, rfl⟩ := Prod.mk.inj hxd
    rw [hs, hk]
    unfold sourceDelivered
    rw [hx]
    rfl
  · obtain ⟨rfl, rfl⟩ := Prod.mk.inj (Option.some.inj h)
    exact sourceDelivered_flash s flash ended j h2 h3 h4

/-! ### The stages of a load (03 R83, R97) -/

theorem lastByte_fails (s : State) (k : Nat) (d : Bytes) (hots : List Bytes) {step code sect : Nat}
    (h : containerFail false d = some (step, code, sect)) : lastByte s k d hots = sourceFails s k code sect 1 := by
  unfold lastByte
  rw [h]

theorem lastByte_passes (s : State) (k : Nat) (d : Bytes) (hots : List Bytes) (h : containerFail false d = none) :
    lastByte s k d hots = { s with
      fld := { s.fld with st := 2, load := some { src := k, data := d, hots := hots } }
      boot := { s.boot with step := max s.boot.step 8 } } := by
  unfold lastByte
  rw [h]
  rfl

theorem verifyEnd_fails (s : State) (l : Load) {step code sect : Nat} (h : verifyFail s false l.data = some (step, code, sect)) :
    verifyEnd s l = sourceFails s l.src code sect 1 := by
  unfold verifyEnd
  rw [h]

theorem verifyEnd_passes (s : State) (l : Load) (h : verifyFail s false l.data = none) :
    verifyEnd s l = { s with fld := { s.fld with st := 3 }, boot := { s.boot with step := max s.boot.step 9 } } := by
  unfold verifyEnd
  rw [h]
  rfl

/-- The code and SECT with which the checks reject an image or a hot image that came with it. -/
def checkVerdict (s : State) (l : Load) : Option (Nat × Nat) :=
  let img := imageBytes l.data
  match checkFail s false l.data with
  | some (_, code, sect) => some (code, sect)
  | none =>
    hotsOk { s with fld := { s.fld with secs := (imageSecs img).map (·.2), cfgHash := sha256 (img.take (ihBody img)), pendG := [] } } l.hots

theorem checkEnd_fails (s : State) (l : Load) {code sect : Nat} (h : checkVerdict s l = some (code, sect)) :
    checkEnd s l = sourceFails s l.src code sect 1 := by
  unfold checkVerdict at h
  unfold checkEnd
  rcases hc : checkFail s false l.data with _ | ⟨step, code', sect'⟩
  case none =>
    rw [hc] at h
    dsimp only at h ⊢
    rw [h]
  case some =>
    rw [hc] at h
    obtain ⟨rfl, rfl⟩ := Prod.mk.inj (Option.some.inj h)
    rfl

theorem checkEnd_passes (s : State) (l : Load) (h : checkVerdict s l = none) :
    checkEnd s l = applyBase s l.src (imageBytes l.data) l.hots := by
  unfold checkVerdict at h
  unfold checkEnd
  rcases hc : checkFail s false l.data with _ | f
  case none =>
    rw [hc] at h
    dsimp only at h ⊢
    rw [h]
  case some =>
    rw [hc] at h
    exact absurd h (by simp)

/-! ### The apply of a base image (03 R88) -/

/-- The effect of the sections keeps the loader's record, the non-volatile memory and the tick count. -/
theorem applySections_keeps (s : State) :
    (applySections s).fld = s.fld ∧ (applySections s).mem.nvm = s.mem.nvm ∧ (applySections s).tsq.tc = s.tsq.tc := by
  unfold applySections
  dsimp only
  obtain ⟨c, hc⟩ := portsDown_chn (List.range 2)
    (drammapApply (fabricLoad (pinmapApply (tcmPut (fallbackCopy s) 0 ((secB (fallbackCopy s) Ty.firmware 0).drop 8)))))
  rw [hc]
  generalize hx : ({ drammapApply _ with chn := _, dmc := _, pins := _, tsq := _ } : State) = x
  obtain ⟨p, hp⟩ := cmdUpsOff_pwr (dramDoms x) x
  rw [hp]
  obtain ⟨q, hq⟩ := domainsApply_pwr { x with pwr := p }
  rw [hq, ← hx]
  exact ⟨rfl, rfl, rfl⟩

/-- What Aperture takes up from SAFETY is its own state, the servo's park and the input events. -/
theorem safApply_keeps (s : State) : (safApply s).fld = s.fld ∧ (safApply s).mem = s.mem ∧ (safApply s).tsq = s.tsq := by
  unfold safApply
  dsimp only
  obtain ⟨eg, sv, q, i, h, -⟩ := parkAll_eq
    (unqualify { s with saf := { s.saf with kept := safB s, scanners := maskOf (idxWhere 4 fun e => engKind s e == 2) } }) s.saf.dark
  rw [h]
  exact ⟨rfl, rfl, rfl⟩

/-- The loader's record of an image that applies. -/
def appliedFld (s : State) (src : Nat) (img : Bytes) (hots : List Bytes) : Fld :=
  let body := sha256 (img.take (ihBody img))
  let c := foldHots ((imageSecs img).map (·.2)) body hots
  { s.fld with
    st := 4, source := src, keyslot := ihKeyslot img, untrusted := relaxedKey s, applied := true, secs := c.1, cfgHash := c.2
    fmtMinor := ihMinor img, secver := ihSecver img, sectCount := ihCount img, seq := ihSeq img, bodyHash := body
    hotCnt := min 65535 hots.length, pendG := [], staged := none, image := img, hots := hots, left := [], failedAt := none, rx := [] }

/-- The state whose sections take effect. -/
def recorded (s : State) (src : Nat) (img : Bytes) (hots : List Bytes) : State :=
  { s with
    fld := appliedFld s src img hots, boot := { s.boot with step := 9 }
    chn := { s.chn with boot := false, doneDue := if src = 3 then some 0 else none } }

theorem applyBase_eq (s : State) (src : Nat) (img : Bytes) (hots : List Bytes) :
    applyBase s src img hots = safApply (applySections (recorded s src img hots)) := rfl

theorem applyBase_keeps (s : State) (src : Nat) (img : Bytes) (hots : List Bytes) :
    (applyBase s src img hots).fld = appliedFld s src img hots ∧ (applyBase s src img hots).mem.nvm = s.mem.nvm ∧
      (applyBase s src img hots).tsq.tc = s.tsq.tc := by
  obtain ⟨hfld, hnvm, htc⟩ := applySections_keeps (recorded s src img hots)
  obtain ⟨hfld', hmem', htsq'⟩ := safApply_keeps (applySections (recorded s src img hots))
  rw [applyBase_eq, hfld', hmem', htsq', hfld, hnvm, htc]
  exact ⟨rfl, rfl, rfl⟩

/-! ### The next stage (03 R83 to R88, R97) -/

theorem imageReceived_applied (s : State) (flash : Bytes) (ended : Bool) (h : s.fld.applied = true) : imageReceived s flash ended = s := by
  unfold imageReceived
  rw [if_pos h]

section
variable (s : State) (flash : Bytes) (ended : Bool) (h : s.fld.applied = false)
include h

theorem imageReceived_delivers {j : Nat} (hl : s.fld.load = none) (hj : curSource s = some j) :
    imageReceived s flash ended = sourceDelivered s flash ended j := by
  unfold imageReceived
  rw [if_neg (by simp [h]), hl, hj]

theorem imageReceived_verified {l : Load} (hl : s.fld.load = some l) (hst : s.fld.st = 2) :
    imageReceived s flash ended = verifyEnd s l := by
  unfold imageReceived
  rw [if_neg (by simp [h]), hl]
  exact if_pos hst

theorem imageReceived_checked {l : Load} (hl : s.fld.load = some l) (hst : s.fld.st = 3) :
    imageReceived s flash ended = checkEnd s l := by
  unfold imageReceived
  rw [if_neg (by simp [h]), hl]
  exact (if_neg (by omega)).trans (if_pos hst)

end

/-- What a rejection leaves, as the statement says it. -/
def Rejected (s b : State) (k code sect : Nat) (left : List Nat) : Prop :=
  b.fld.applied = false ∧ b.fld.source = k ∧ b.fld.code = code ∧ b.fld.sect = sect ∧ b.fld.left = left ∧ b.fld.load = none ∧
    (∀ j, left.head? = some j → curSource b = some j) ∧ b.mem = s.mem ∧ b.fld.secs = s.fld.secs ∧ b.tsq = s.tsq

theorem sourceFails_rejected (s : State) (k code sect : Nat) (h : s.fld.applied = false) :
    Rejected s (sourceFails s k code sect 1) k code sect (s.fld.left.drop 1) := by
  have hf := sourceFails_failed s k code sect 1
  exact ⟨hf.applied.trans h, hf.source, hf.code, hf.sect, hf.left, hf.load, hf.trying, hf.mem, hf.secs, hf.tsq⟩

theorem exec_baseImageReceived {w : When} {flash : Bytes} {ended : Bool} {s b : State} (h : imageReceived (advance w s) flash ended = b) :
    exec (.baseImageReceived w flash ended) s = .next (endCmd s b) :=
  cmdRun_eq (f := fun s => imageReceived s flash ended) h

/-- Settles O20: each stage ends in `sourceFails` with its code, or in the next stage; the checks' success is `applyBase_keeps`. -/
theorem baseImageFromFlash : Obligations.BaseImageFromFlash := by
  unfold Obligations.BaseImageFromFlash
  intro w flash e s
  dsimp only
  refine ⟨fun hap => exec_baseImageReceived (imageReceived_applied (advance w s) flash e hap), fun j hap hl hj => ?_, fun l hap hl hst => ?_,
    fun l hap hl hst => ?_⟩
  · have hexec := imageReceived_delivers (advance w s) flash e hap hl hj
    split
    next hgot =>
      exact exec_baseImageReceived (hexec.trans (sourceDelivered_waits hgot))
    next d hots hgot =>
      have hlast := hexec.trans (sourceDelivered_whole (curSource_head hj) hgot)
      split
      next hc => exact exec_baseImageReceived (hlast.trans (lastByte_passes _ _ d hots hc))
      next hc =>
        exact ⟨_, exec_baseImageReceived (hlast.trans (lastByte_fails _ _ d hots hc)),
          sourceFails_rejected (slotsOrdered (advance w s) flash j) _ _ _ hap⟩
  · have hexec := imageReceived_verified (advance w s) flash e hap hl hst
    split
    next hv => exact exec_baseImageReceived (hexec.trans (verifyEnd_passes _ l hv))
    next hv => exact ⟨_, exec_baseImageReceived (hexec.trans (verifyEnd_fails _ l hv)), sourceFails_rejected (advance w s) _ _ _ hap⟩
  · have hexec := imageReceived_checked (advance w s) flash e hap hl hst
    split
    next hv =>
      obtain ⟨hfld, hnvm, htc⟩ := applyBase_keeps (advance w s) l.src (imageBytes l.data) l.hots
      refine ⟨_, exec_baseImageReceived (hexec.trans (checkEnd_passes _ l hv)), ?_⟩
      rw [hfld]
      exact ⟨rfl, rfl, rfl, rfl, rfl, rfl, rfl, rfl, hnvm, htc⟩
    next hv => exact ⟨_, exec_baseImageReceived (hexec.trans (checkEnd_fails _ l hv)), sourceFails_rejected (advance w s) _ _ _ hap⟩

end Sys2Proof.Machine
end

section
/-! PROOF. A mailbox push (04 R108, R109), and the checks of the tick's control words and dispatches (02 Table 2-3, 04 R102, R103, R115). -/

namespace Sys2Proof.Machine

/-! ### The mailbox: the stamp and the cause of a refusal -/

/-- An entry is stamped no earlier than its push. -/
theorem le_mboxStamp (s : State) : s.clk.cyc ≤ mboxStamp s := by
  unfold mboxStamp
  split
  · exact Nat.le_max_left _ _
  · exact le_rfl

/-- The last entry that waits carries an earlier stamp. -/
theorem lt_mboxStamp {s : State} {x : MboxEntry} (h : s.tsq.mbox.getLast? = some x) : x.stamp < mboxStamp s := by
  unfold mboxStamp
  rw [h]
  exact Nat.le_max_right _ _

section
variable {s : State} {src : Nat}

theorem mboxRefusal_full (h : 32 ≤ s.tsq.mbox.length) : mboxRefusal s src = 1 := if_pos h

theorem mboxRefusal_badOp (h : ¬ 32 ≤ s.tsq.mbox.length)
    (hop : bits (stagedWord s src 0) 31 24 = 0 ∨ 6 < bits (stagedWord s src 0) 31 24) : mboxRefusal s src = 2 :=
  (if_neg h).trans (if_pos hop)

/-- A known operation into a mailbox with room: the role alone decides. -/
theorem mboxRefusal_known (h : ¬ 32 ≤ s.tsq.mbox.length)
    (hop : ¬ (bits (stagedWord s src 0) 31 24 = 0 ∨ 6 < bits (stagedWord s src 0) 31 24)) :
    mboxRefusal s src = if isShadow s then 3 else 0 :=
  (if_neg h).trans (if_neg hop)

theorem mboxPush_refused {why : Nat} (h : mboxRefusal s src = why) (hne : why ≠ 0) :
    (mboxPush s src).1 = { s with tsq := { s.tsq with last := aset s.tsq.last src why, drop := sat32 s.tsq.drop } } := by
  subst h
  unfold mboxPush
  rw [if_pos hne]

/-- An accepted push is queued; one of operation 2 also waits as an apply (03 R92). -/
theorem mboxPush_accepted (h : mboxRefusal s src = 0) :
    (mboxPush s src).1 = { s with
      tsq := { s.tsq with
        last := aset s.tsq.last src 0
        mbox := s.tsq.mbox ++ [{ stamp := mboxStamp s, src := src, w := (List.range 4).map (stagedWord s src) }] }
      fld := { s.fld with
        applyPend := if bits (stagedWord s src 0) 31 24 = 2 then s.fld.applyPend + 1 else s.fld.applyPend } } := by
  unfold mboxPush
  simp only [h, ne_eq, not_true_eq_false, if_false]
  by_cases hop : bits (stagedWord s src 0) 31 24 = 2
  · rw [if_pos hop]
    exact if_pos hop
  · rw [if_neg hop]
    exact if_neg hop

end

/-- A write of TSQ_PUSH with bit 0 is its source's push. -/
theorem execMailboxPush_eq {w : When} {r : Wr} {s b : State} (hd : domOn s 5 = true) (hb : bitAt r.val.toNat 0 = true)
    (h : (mboxPush (advance w s) r.src).1 = b) : execMailboxPush w r s = .next (endCmd s b) :=
  cmdRun_eq (((write_push w r noOutside s hd).trans (if_pos hb)).trans h)

/-- Settles O10: the causes in the order of `mboxRefusal`, and the stamp past the last one in the queue. -/
theorem mailboxPush : Obligations.MailboxPush := by
  unfold Obligations.MailboxPush
  intro w r s hd hb
  refine ⟨execMailboxPush_eq hd hb ?_, le_mboxStamp (advance w s), fun x hx => lt_mboxStamp hx⟩
  split
  next hfull => exact mboxPush_refused (mboxRefusal_full hfull) (by decide)
  next hroom =>
    split
    next hop => exact mboxPush_refused (mboxRefusal_badOp hroom hop) (by decide)
    next hop =>
      split
      next hshadow => exact mboxPush_refused ((mboxRefusal_known hroom hop).trans (if_pos hshadow)) (by decide)
      next hshadow => exact mboxPush_accepted ((mboxRefusal_known hroom hop).trans (if_neg hshadow))

/-! ### Control words: the units they find late -/

/-- The check of control word `d` on `x` has been made. -/
def ctlSeen (d : Nat) (x : State) : State := { x with tsq := { x.tsq with ctl := lmod x.tsq.ctl d fun y => { y with done := true } } }

/-- DEADLINE against each unit that control word `c` finds late on `s`, at the first cycle of its slot. -/
def lateFaults (s : State) (c : Ctl) : State :=
  (lateUnits s c).foldl (fun x l => raiseFaultAt x (256 * c.slot) 2 l.2 l.1 c.slot (some c.word)) s

theorem lateFaults_none {s : State} {c : Ctl} (h : lateUnits s c = []) : lateFaults s c = s := by
  unfold lateFaults
  rw [h]
  rfl

section
variable {s : State} {d : Nat} {c : Ctl}

/-- A control word not yet checked raises a fault against each late unit, and has then been checked. -/
theorem ctlNow_unchecked (hc : s.tsq.ctl[d]? = some c) (hopen : c.done = false) : ctlNow s d = ctlSeen d (lateFaults s c) := by
  unfold ctlNow
  simp only [hc, hopen, Bool.false_eq_true, if_false]
  rfl

/-- From its slot on, a control word of the kind that the command names is checked. -/
theorem ctlAt_due {wait : Bool} (hc : s.tsq.ctl[d]? = some c) (hw : c.isWait = wait) (hdue : 256 * c.slot ≤ s.clk.cyc) :
    ctlAt d wait s = ctlNow s d := by
  unfold ctlAt
  simp only [hc]
  exact if_pos ⟨hw, hdue⟩

/-- A WAIT looks at one unit, and takes the class of the one that waits (04 R103). -/
theorem mem_lateUnits_wait (hw : c.isWait = true) (l : Nat × Nat) :
    l ∈ lateUnits s c ↔ l = (c.src, unitClass c.dst) ∧ unitLate s c c.src = true := by
  unfold lateUnits
  rw [if_pos hw]
  split
  next hlate => simp [hlate]
  next hlate => simp [hlate]

/-- A BARRIER looks at the units of its mask, each with its own class (04 R103). -/
theorem mem_lateUnits_barrier (hw : ¬ c.isWait = true) (l : Nat × Nat) :
    l ∈ lateUnits s c ↔ l.1 < 0x27 ∧ bitAt c.mask l.1 = true ∧ unitLate s c l.1 = true ∧ l.2 = unitClass l.1 := by
  unfold lateUnits idxWhere
  rw [if_neg hw]
  simp only [List.mem_map, List.mem_filter, List.mem_range, Bool.and_eq_true]
  constructor
  · rintro ⟨u, ⟨hu, hmask, hlate⟩, rfl⟩
    exact ⟨hu, hmask, hlate, rfl⟩
  · rintro ⟨hu, hmask, hlate, hcls⟩
    exact ⟨l.1, ⟨hu, hmask, hlate⟩, Prod.ext rfl hcls.symm⟩

end

/-! ### Dispatches: outstanding at FINISH or at DEADLINE -/

theorem doneBy_iff (x : Disp) (c : Nat) : doneBy x c = true ↔ x.done = true ∧ x.endAt ≤ c := by
  unfold doneBy
  rw [Bool.and_eq_true, decide_eq_true_iff]

section
variable {s : State} {d : Nat} {x : Disp} (hx : s.tsq.disp[d]? = some x)
include hx

theorem overrunNow_raises (ho : x.overrun = false) (hm : isMetric x = false) (hn : ¬ (x.done = true ∧ x.endAt ≤ 256 * x.finish)) :
    overrunNow s d =
      let y := raiseFaultAt s (256 * x.finish) 1 (unitClass x.unit) x.unit x.finish (some x.word)
      { y with tsq := { y.tsq with disp := lmod s.tsq.disp d fun z => { z with overrun := true } } } := by
  unfold overrunNow
  simp only [hx]
  exact if_neg (by simp only [doneBy_iff, ho, hm, hn, Bool.false_eq_true, or_self, not_false_eq_true])

theorem overrunNow_passes (h : (x.done = true ∧ x.endAt ≤ 256 * x.finish) ∨ isMetric x = true) : overrunNow s d = s := by
  unfold overrunNow
  simp only [hx]
  exact if_pos (h.imp (doneBy_iff x _).2 .inr)

theorem deadlineNow_raises (hl : x.late = false) (h0 : x.deadline ≠ 0) (hn : ¬ (x.done = true ∧ x.endAt ≤ 256 * x.deadline)) :
    deadlineNow s d =
      let y := raiseFaultAt s (256 * x.deadline) 2 (if x.feedx then 3 else 2) x.unit x.deadline (some x.word)
      { y with tsq := { y.tsq with disp := lmod s.tsq.disp d fun z => { z with late := true } } } := by
  unfold deadlineNow
  simp only [hx]
  exact if_neg (by simp only [doneBy_iff, hl, h0, hn, Bool.false_eq_true, or_self, not_false_eq_true])

theorem deadlineNow_passes (h : x.done = true ∧ x.endAt ≤ 256 * x.deadline) : deadlineNow s d = s := by
  unfold deadlineNow
  simp only [hx]
  exact if_pos (.inl ((doneBy_iff x _).2 h))

end

section
variable {w : When} {d : Nat} {s : State} {x : Disp} (hx : s.tsq.disp[d]? = some x)
include hx

/-- The command judges a dispatch from the first cycle of its FINISH slot on. -/
theorem execSlotOverrun_at :
    execSlotOverrun w d s =
      .next (endCmd s (if 256 * x.finish ≤ (advance w s).clk.cyc then overrunNow (advance w s) d else advance w s)) := by
  refine cmdRun_eq ?_
  simp only [show (advance w s).tsq.disp[d]? = some x from hx]

/-- The command judges a dispatch from the first cycle of its DEADLINE slot on. -/
theorem execDeadline_at :
    execDeadline w d s =
      .next (endCmd s (if 256 * x.deadline ≤ (advance w s).clk.cyc then deadlineNow (advance w s) d else advance w s)) := by
  refine cmdRun_eq ?_
  simp only [show (advance w s).tsq.disp[d]? = some x from hx]

end

/-! ### The statement -/

/-- Settles O11: a control word's check is `ctlNow_unchecked` with the units of `mem_lateUnits_wait` and `mem_lateUnits_barrier`; a
dispatch's is `overrunNow` or `deadlineNow`, which change nothing where it was complete by then. -/
theorem tickChecks : Obligations.TickChecks := by
  unfold Obligations.TickChecks
  refine ⟨fun w d s c hc hdue hopen => ?_, fun w d s x hx => ?_⟩
  · have hcheck {wait : Bool} (hw : c.isWait = wait) : ctlAt d wait (advance w s) = ctlSeen d (lateFaults (advance w s) c) :=
      (ctlAt_due (s := advance w s) hc hw hdue).trans (ctlNow_unchecked (s := advance w s) hc hopen)
    refine ⟨fun hw => cmdRun_eq (hcheck hw), fun hw => cmdRun_eq (hcheck hw),
      fun hnone => congrArg (ctlSeen d) (lateFaults_none hnone), fun l => ?_⟩
    split
    next hw => exact mem_lateUnits_wait hw l
    next hw => exact mem_lateUnits_barrier hw l
  · have hoverrun := execSlotOverrun_at (w := w) hx
    have hdeadline := execDeadline_at (w := w) hx
    have hu : (advance w s).tsq.disp[d]? = some x := hx
    refine ⟨fun hdue ho hm hn => ?_, fun hpass => ?_, fun hdue hl h0 hn => ?_, fun hpass => ?_⟩
    · rw [if_pos hdue, overrunNow_raises hu ho hm hn] at hoverrun
      exact hoverrun
    · rw [overrunNow_passes hu hpass, ite_self] at hoverrun
      exact hoverrun
    · rw [if_pos hdue, deadlineNow_raises hu hl h0 hn] at hdeadline
      exact hdeadline
    · rw [deadlineNow_passes hu hpass, ite_self] at hdeadline
      exact hdeadline

end Sys2Proof.Machine
end

section
/-! PROOF. The time before a command (05 R143, 19 R488, R495). -/

namespace Sys2Proof.Machine

theorem wdgCounts_iff (s : State) : wdgCounts s = true ↔ s.wdg.run = true ∧ s.dbg.hkpHalt = false := by simp [wdgCounts]

/-- The boot ROM services the watchdog only as time passes: else a watchdog that counts goes on counting. -/
theorem wdgTime_unserviced {dt : Nat} {s : State} (h : wdgCounts s = true) (hb : bootRomRuns s = false ∨ dt = 0) :
    wdgTime dt s = { s.wdg with count := s.wdg.count + dt } := by
  unfold wdgTime
  rw [if_neg (by simp [h]), if_neg (by rcases hb with hb | hb <;> simp [hb])]

theorem wdgTime_bootRom {dt : Nat} {s : State} (h : wdgCounts s = true) (hb : bootRomRuns s = true) (hdt : 0 < dt) :
    wdgTime dt s = romService s dt (Config.freeNat s.free) := by
  unfold wdgTime
  rw [if_neg (by simp [h]), if_pos ⟨hb, hdt⟩]

/-- 19 R495: whenever the boot ROM serviced the watchdog, the count ran on below TIMEOUT or started again within the time passed. -/
theorem romService_spec (s : State) (dt f : Nat) (ht : 0 < s.wdg.timeout) :
    (romService s dt f).count < s.wdg.timeout ∧
      (((romService s dt f).count = s.wdg.count + dt ∧ (romService s dt f).key = s.wdg.key) ∨
        ((romService s dt f).count ≤ dt ∧ (romService s dt f).key = none ∧ (romService s dt f).svTc = tcReg s)) := by
  unfold romService
  dsimp only
  split
  next h => exact ⟨h.2, .inl ⟨rfl, rfl⟩⟩
  next =>
    refine ⟨Nat.mod_lt _ ht, .inr ⟨?_, rfl, rfl⟩⟩
    calc f % (dt + 1) % s.wdg.timeout ≤ f % (dt + 1) := Nat.mod_le _ _
      _ ≤ dt := Nat.le_of_lt_succ (Nat.mod_lt _ dt.succ_pos)

/-- A service touches the count, the key under way and the record of the service, and nothing else of the watchdog. -/
theorem romService_frame (s : State) (dt f : Nat) :
    romService s dt f = { s.wdg with
      count := (romService s dt f).count, key := (romService s dt f).key, svTc := (romService s dt f).svTc, svCyc := (romService s dt f).svCyc } := by
  unfold romService
  dsimp only
  split <;> rfl

/-- Settles O8: the frame of `advance` is its definition; the watchdog stands (`wdgTime_stands`), counts (`wdgTime_unserviced`), or is serviced
by the boot ROM (`romService_spec`). -/
theorem timePasses : Obligations.TimePasses := by
  unfold Obligations.TimePasses
  intro w s
  dsimp only
  rw [← wdgCounts_iff]
  refine ⟨rfl, advance_domOn w s, fun h => ?_, fun h hb => ?_, fun h hb hdt ht => ?_⟩
  · rw [Bool.not_eq_true] at h
    exact ⟨wdgTime_stands _ s h, advance_free w s (.inl h)⟩
  · exact ⟨wdgTime_unserviced h hb, if_neg fun hf => by rcases hb with hb | hb <;> simp_all⟩
  · have hwdg : (advance w s).wdg = romService s _ _ := wdgTime_bootRom h hb hdt
    rw [hwdg]
    exact ⟨if_pos ⟨h, hb, hdt⟩, romService_frame s _ _, romService_spec s _ _ ht⟩

end Sys2Proof.Machine
end

section
/-! PROOF. Requests that their targets perform at once: reads and writes of SRAM, and addresses that nothing decodes (00 R7, 02 R51, 05 R123
to R127). -/

namespace Sys2Proof.Machine

/-! ### The issue of a request (05 R124, R127) -/

/-- The packet of a request that its source issues now. -/
def issuedPkt (s : State) (q : Req) : Pkt := mkPkt s q none [] false s.fab.seq

/-- The state in which that request is outstanding. -/
def issued (s : State) (q : Req) : State := outAdd (takeSeq s).2 q.src q.tag

theorem issue_barred {s : State} {q : Req} (h : mayIssue s q.src = false) : issue s q = s := by
  unfold issue
  rw [if_pos (by simp [h])]

/-- A request whose target has no queue waits in its source for its grant. -/
theorem issue_unqueued {s : State} {q : Req} (hmay : mayIssue s q.src = true) (htag : s.fab.tags.contains (q.src, q.tag) = false)
    (he : pktEgress (issuedPkt s q) = none) : issue s q = holdPkt (issued s q) (issuedPkt s q) := by
  unfold issue
  rw [if_neg (by simp_all)]
  exact if_neg (by rw [show mkPkt s q none [] false (takeSeq s).1 = issuedPkt s q from rfl, he]; simp)

section
variable {s : State} {q : Req} {t : Target} (hk : q.kind ≠ .msg) (ht : decodeFa s q.fa q.flen = t)
include hk ht

theorem issuedPkt_tgt : (issuedPkt s q).tgt = t := by
  unfold issuedPkt mkPkt
  simp [hk, ht]

theorem issuedPkt_req : (issuedPkt s q).req = { q with dst := targetPort s t } := by
  unfold issuedPkt mkPkt
  simp [hk, ht]

theorem issuedPkt_doms : (issuedPkt s q).doms = targetDoms s t q.flen := by
  unfold issuedPkt mkPkt pktDoms
  cases hq : q.kind <;> simp_all

/-- Only the egresses of DRAM and of the links have queues (05 R130). -/
theorem issuedPkt_unqueued (hq : ∀ sa, t ≠ .dram sa) (hr : ∀ p d, t ≠ .rank p d) : pktEgress (issuedPkt s q) = none := by
  unfold pktEgress
  rw [issuedPkt_req hk ht, issuedPkt_tgt hk ht, if_neg hk]
  cases t with
  | dram sa => exact absurd rfl (hq sa)
  | rank p d => exact absurd rfl (hr p d)
  | _ => rfl

end

/-! ### A granted request (05 R125, R129) -/

/-- What its target answers is on its way once a request is granted: each of its domains is fully on, and it is outstanding still. -/
theorem performPkt_answered {s b : State} {p : Pkt} {st : Nat} {data : Bytes} (ht : p.tgt ≠ .none) (hon : ∀ d ∈ p.doms, domOn s d = true)
    (hp : perform (moveGrant s p) p = (b, st, data)) (htag : b.fab.tags.contains (p.req.src, p.req.tag) = true) :
    performPkt s p = answer b p.req p.seq st (if st = 0 then data else []) [] := by
  unfold performPkt grantPkt
  rw [if_neg ht, pktTaken_on s p hon, countDrained_on p.doms (moveGrant s p) hon, hp]
  dsimp only
  rw [htag]
  by_cases hst : st = 0 <;> simp [hst]

theorem noteWrite_twn (s : State) (fa : Nat) (b : Bytes) (fixed : Bool) : ∃ tw, noteWrite s fa b fixed = { s with twn := tw } := by
  unfold noteWrite
  split
  · exact ⟨_, rfl⟩
  · exact ⟨_, rfl⟩

section
variable {s : State} {p : Pkt} {off : Nat} (ht : p.tgt = .sram off)
include ht

theorem perform_sramRead (hk : p.req.kind = .read) : perform s p = (s, 0, readRun (sramByte s) off p.req.flen) := by
  unfold perform
  simp [ht, hk, memGet]

theorem perform_sramWrite (hk : p.req.kind = .write) (hf : p.forced = false) :
    perform s p = if publishedIn s (0x10000000 + off) p.req.flen then (s, 3, [])
      else (noteWrite (sramPut s off (wrData p.req)) (0x10000000 + off) (wrData p.req) false, 0, []) := by
  unfold perform memWriteAt barred writeExtent
  simp only [ht, hk, hf, targetFa, memSet]
  cases publishedIn s (0x10000000 + off) p.req.flen <;> rfl

end

theorem padTo_self (b : Bytes) : padTo b.length b = b := by simp [padTo]

/-! ### What follows the command -/

/-- What the end of a command leaves of what a request that was performed at once did: forwarding may start transfers (16 R436). -/
structure Followed (b t : State) : Prop where
  fab : ∃ x, t.fab = { b.fab with xfers := x }
  fabCalm : b.twn.fwd = [] → t.fab = b.fab
  mem : t.mem = b.mem
  pwr : t.pwr = b.pwr
  rw : t.rw = b.rw
  tsq : t.tsq = b.tsq

theorem lenStep_followed (b : State) : Followed b (lenStep (wdoutRelease (forwardAll b))) := by
  obtain ⟨dr, cl, ca, eg, l, q, i, h, -⟩ := lenStep_eq (wdoutRelease (forwardAll b))
  obtain ⟨tw, x, hf⟩ := forwardAll_eq b
  have hfab : (lenStep (wdoutRelease (forwardAll b))).fab = (forwardAll b).fab := by rw [h, wdoutRelease_eq]
  constructor
  · exact ⟨x, by rw [hfab, hf]⟩
  · intro hfwd
    rw [hfab, forwardAll_calm b hfwd]
  all_goals rw [h, wdoutRelease_eq, hf]

theorem execFabricRequest_followed {w : When} {q : Req} {s b : State} (hcalm : FabricCalm (advance w s))
    (hmay : mayIssue (advance w s) q.src = true) (htag : s.fab.tags.contains (q.src, q.tag) = false)
    (he : pktEgress (issuedPkt (advance w s) q) = none)
    (hb : performPkt (issued (advance w s) q) (issuedPkt (advance w s) q) = b) (hheld : b.fab.held = []) :
    ∃ t, exec (.fabricRequest w q) s = .next t ∧ Followed b t := by
  have hcalm' : FabricCalm (issued (advance w s) q) := FabricCalm_fab hcalm _ hcalm.1 hcalm.2.1
  have hpump : pumpFabric (holdPkt (issued (advance w s) q) (issuedPkt (advance w s) q)) = b :=
    (pumpFabric_one _ hcalm' _ he (by rw [hb]; exact hheld)).trans hb
  have hissue : issue (advance w s) q = holdPkt (issued (advance w s) q) (issuedPkt (advance w s) q) :=
    issue_unqueued hmay htag he
  have hend : endCmd s (issue (advance w s) q) = { lenStep (wdoutRelease (forwardAll b)) with pending := s.pending } := by
    rw [hissue]
    unfold endCmd finish
    rw [hpump]
  refine ⟨_, congrArg Host.Outcome.next hend, ?_⟩
  obtain ⟨h1, h2, h3, h4, h5, h6⟩ := lenStep_followed b
  exact ⟨h1, h2, h3, h4, h5, h6⟩

/-! ### Responses (05 R125) -/

/-- A response to source `src` from port `dst`, under its TAG and with status `st`. -/
structure RspTo (r : Rsp) (src dst tag st : Nat) : Prop where
  src : r.src = src
  dst : r.dst = dst
  tag : r.tag = tag
  status : r.status = st

/-- A state with one response more on its way. -/
def withRsp (s : State) (r : Rsp) : State := { s with fab := { s.fab with rsp := s.fab.rsp ++ [r] } }

theorem answer_withRsp (s : State) (q : Req) (seq st : Nat) (data : Bytes) (bad : List Nat) :
    ∃ r, answer s q seq st data bad = withRsp s r ∧ RspTo r q.src q.dst q.tag st ∧ r.data = if data.isEmpty then errData q st else data :=
  ⟨_, rfl, ⟨rfl, rfl, rfl, rfl⟩, rfl⟩

/-- 00 R7: a DECODE_ERR is counted. -/
theorem complete_decodeErr (s : State) (q : Req) (seq : Nat) :
    ∃ r, complete s q seq 1 = withRsp { s with fab := { s.fab with cntDec := sat32 s.fab.cntDec } } r ∧
      RspTo r q.src q.dst q.tag 1 :=
  ⟨_, rfl, ⟨rfl, rfl, rfl, rfl⟩⟩

theorem errData_ok (q : Req) : errData q 0 = [] := by
  unfold errData
  split <;> rfl

/-! ### Requests of SRAM and of nothing -/

section
variable {w : When} {q : Req} {s : State} (hcalm : FabricCalm (advance w s)) (hmay : mayIssue (advance w s) q.src = true)
  (htag : s.fab.tags.contains (q.src, q.tag) = false)
include hcalm hmay htag

/-- A request that nothing decodes is answered with DECODE_ERR. -/
theorem execFabricRequest_undecoded (hk : q.kind ≠ .msg) (ht : decodeFa (advance w s) q.fa q.flen = .none) :
    ∃ t r, exec (.fabricRequest w q) s = .next t ∧ t.fab.rsp = s.fab.rsp ++ [r] ∧ r.status = 1 ∧ r.src = q.src ∧ r.tag = q.tag ∧
      t.fab.cntDec = sat32 s.fab.cntDec ∧ t.fab.held = [] ∧ t.mem = s.mem ∧ t.rw = s.rw ∧ t.tsq = s.tsq := by
  obtain ⟨r, hr, hsrc, -, htg, hst⟩ := complete_decodeErr (issued (advance w s) q) (issuedPkt (advance w s) q).req s.fab.seq
  rw [issuedPkt_req hk ht] at hsrc htg
  obtain ⟨t, he, -, hfab, hmem, -, hrw, htsq⟩ := execFabricRequest_followed hcalm hmay htag
    (issuedPkt_unqueued hk ht (by simp) (by simp)) ((if_pos (issuedPkt_tgt hk ht)).trans hr) hcalm.1
  refine ⟨t, r, he, ?_, hst, hsrc, htg, ?_, ?_, hmem, hrw, htsq⟩
  all_goals rw [hfab hcalm.2.2.2.1]
  · rfl
  · rfl
  · exact hcalm.1

variable {off : Nat} (ht : decodeFa (advance w s) q.fa q.flen = .sram off) (hon : domsOn s (targetDoms s (.sram off) q.flen) = true)
include ht hon

/-- What SRAM makes of a request is what is answered. -/
theorem execFabricRequest_sram (hk : q.kind ≠ .msg) {b : State} {st : Nat} {data : Bytes}
    (hp : perform (moveGrant (issued (advance w s) q) (issuedPkt (advance w s) q)) (issuedPkt (advance w s) q) = (b, st, data))
    (hb : b.fab = (moveGrant (issued (advance w s) q) (issuedPkt (advance w s) q)).fab) (hne : st ≠ 0 → data = []) :
    ∃ t r, exec (.fabricRequest w q) s = .next t ∧ Followed (withRsp b r) t ∧ RspTo r q.src (targetPort s (.sram off)) q.tag st ∧
      r.data = if data.isEmpty then errData (issuedPkt (advance w s) q).req st else data := by
  have hdoms : ∀ d ∈ (issuedPkt (advance w s) q).doms, domOn (issued (advance w s) q) d = true := by
    intro d hd
    rw [issuedPkt_doms hk ht] at hd
    exact (advance_domOn w s d).trans (List.all_eq_true.mp hon d hd)
  obtain ⟨r, hr, hto, hdata⟩ := answer_withRsp b (issuedPkt (advance w s) q).req (issuedPkt (advance w s) q).seq st data []
  have hanswer : performPkt (issued (advance w s) q) (issuedPkt (advance w s) q) = withRsp b r := by
    rw [← hr, performPkt_answered (by simp [issuedPkt_tgt hk ht]) hdoms hp, ite_eq_left_iff.mpr fun h => (hne h).symm]
    rw [hb, issuedPkt_req hk ht]
    exact List.elem_cons_self
  obtain ⟨t, he, hf⟩ := execFabricRequest_followed hcalm hmay htag (issuedPkt_unqueued hk ht (by simp) (by simp)) hanswer
    ((congrArg Fab.held hb).trans hcalm.1)
  rw [issuedPkt_req hk ht] at hto
  exact ⟨t, r, he, hf, hto, hdata⟩

/-- A read of SRAM is answered with its bytes and changes nothing but the fabric's account (05 R125, R127, R129). -/
theorem execFabricRequest_sramRead (hk : q.kind = .read) :
    ∃ t r, exec (.fabricRequest w q) s = .next t ∧
      t.fab = { s.fab with
        seq := s.fab.seq + 1, out := aset s.fab.out q.src (alook s.fab.out q.src + 1), tags := (q.src, q.tag) :: s.fab.tags
        grant := aset s.fab.grant (targetPort s (.sram off)) ((q.src + 1) % 25), rsp := s.fab.rsp ++ [r] } ∧
      RspTo r q.src (targetPort s (.sram off)) q.tag 0 ∧ r.data = readRun (sramByte s) off q.flen ∧
      t.mem = s.mem ∧ t.rw = s.rw ∧ t.tsq = s.tsq := by
  have hreq := issuedPkt_req (s := advance w s) (t := .sram off) (by simp [hk]) ht
  have hp := perform_sramRead (s := moveGrant (issued (advance w s) q) (issuedPkt (advance w s) q))
    (issuedPkt_tgt (by simp [hk]) ht) (by rw [hreq]; exact hk)
  obtain ⟨t, r, he, ⟨-, hfab, hmem, -, hrw, htsq⟩, hto, hdata⟩ :=
    execFabricRequest_sram hcalm hmay htag ht hon (by simp [hk]) hp rfl (by simp)
  rw [hreq] at hdata
  refine ⟨t, r, he, ?_, hto, ?_, hmem, hrw, htsq⟩
  · rw [hfab hcalm.2.2.2.1]
    unfold withRsp moveGrant
    rw [hreq]
    rfl
  · rw [hdata, errData_ok]
    exact ite_eq_right_iff.mpr fun h => (List.isEmpty_iff.mp h).symm

/-- A write of SRAM that meets no published buffer is made, and answered (05 R123). -/
theorem execFabricRequest_sramWrite (hk : q.kind = .write) (hlen : q.data.length = q.flen)
    (hpub : publishedIn s (0x10000000 + off) q.flen = false) :
    ∃ t r, exec (.fabricRequest w q) s = .next t ∧ t.fab.rsp = s.fab.rsp ++ [r] ∧
      RspTo r q.src (targetPort s (.sram off)) q.tag 0 ∧
      t.mem = (sramPut s off q.data).mem ∧ t.pwr.memGen = s.pwr.memGen ∧ t.rw = s.rw ∧ t.tsq = s.tsq := by
  have hreq := issuedPkt_req (s := advance w s) (t := .sram off) (by simp [hk]) ht
  have hdata : wrData (issuedPkt (advance w s) q).req = q.data := by
    rw [hreq]
    exact (congrArg (padTo · q.data) hlen.symm).trans (padTo_self q.data)
  have hp := perform_sramWrite (s := moveGrant (issued (advance w s) q) (issuedPkt (advance w s) q))
    (issuedPkt_tgt (by simp [hk]) ht) (by rw [hreq]; exact hk) rfl
  obtain ⟨tw, htw⟩ := noteWrite_twn (sramPut (moveGrant (issued (advance w s) q) (issuedPkt (advance w s) q)) off q.data)
    (0x10000000 + off) q.data false
  rw [if_neg (by rw [hreq]; exact Bool.eq_false_iff.mp hpub), hdata, htw] at hp
  obtain ⟨t, r, he, ⟨⟨x, hfab⟩, -, hmem, hpwr, hrw, htsq⟩, hto, -⟩ :=
    execFabricRequest_sram hcalm hmay htag ht hon (by simp [hk]) hp rfl (by simp)
  refine ⟨t, r, he, ?_, hto, hmem, (congrArg Pwr.memGen hpwr).trans rfl, hrw, htsq⟩
  rw [hfab]
  rfl

/-- A write that meets a published buffer is refused (02 R51). -/
theorem execFabricRequest_published (hk : q.kind = .write) (hpub : publishedIn s (0x10000000 + off) q.flen = true) :
    ∃ t r, exec (.fabricRequest w q) s = .next t ∧ t.fab.rsp = s.fab.rsp ++ [r] ∧
      RspTo r q.src (targetPort s (.sram off)) q.tag 3 ∧ t.mem = s.mem := by
  have hreq := issuedPkt_req (s := advance w s) (t := .sram off) (by simp [hk]) ht
  have hp := perform_sramWrite (s := moveGrant (issued (advance w s) q) (issuedPkt (advance w s) q))
    (issuedPkt_tgt (by simp [hk]) ht) (by rw [hreq]; exact hk) rfl
  rw [if_pos (by rw [hreq]; exact hpub)] at hp
  obtain ⟨t, r, he, ⟨⟨x, hfab⟩, -, hmem, -, -, -⟩, hto, -⟩ :=
    execFabricRequest_sram hcalm hmay htag ht hon (by simp [hk]) hp rfl (by simp)
  refine ⟨t, r, he, ?_, hto, hmem⟩
  rw [hfab]
  rfl

end

/-! ### What a write of SRAM leaves (05 R123) -/

/-- Each byte of SRAM after a write: the byte written, or as before. -/
theorem sramByte_put {s t : State} {off : Nat} {b : Bytes} (hmem : t.mem = (sramPut s off b).mem) (hgen : t.pwr.memGen = s.pwr.memGen)
    (a : Nat) : sramByte t a = if off ≤ a ∧ a < off + b.length then b.getD (a - off) 0 else sramByte s a := by
  have hread := memPutAll_read none s.mem.sram off b a
  simp only [Option.or_none] at hread
  unfold sramByte
  rw [hmem, hgen, sramPut_mem, hread]
  split
  next h => simp [List.getElem?_eq_getElem (show a - off < b.length by omega)]
  next => rfl

/-! ### The statement -/

/-- Settles O21: the request of `execFabricRequest_sramRead`, `execFabricRequest_sramWrite`, `execFabricRequest_published` or
`execFabricRequest_undecoded`, by where its address decodes; the bytes after a write are those of `sramByte_put`. -/
theorem fabricRequests : Obligations.FabricRequests := by
  unfold Obligations.FabricRequests
  intro w q s
  dsimp only
  have hsram (hlo : 0x10000000 ≤ q.fa) (h : q.fa + q.flen ≤ 0x10800000 ∧ ¬ (q.fa < 0x10400000 ∧ 0x10400000 < q.fa + q.flen)) :
      decodeFa (advance w s) q.fa q.flen = .sram (q.fa - 0x10000000) := decodeFa_sram _ _ _ hlo h.1 h.2
  have hfa (hlo : 0x10000000 ≤ q.fa) : 0x10000000 + (q.fa - 0x10000000) = q.fa := by omega
  refine ⟨fun hbar => cmdRun_eq (f := fun s => issue s q) (issue_barred hbar), ?_, ?_, ?_, ?_⟩
  · rintro hcalm ⟨hmay, htag⟩ hk - ⟨hlo, hin⟩ hon
    obtain ⟨t, r, he, hfab, ⟨hsrc, hdst, htg, hst⟩, hdata, hkeep⟩ :=
      execFabricRequest_sramRead hcalm hmay htag (hsram hlo hin) hon hk
    exact ⟨t, r, he, hfab, hsrc, hdst, htg, hst, hdata, hkeep⟩
  · rintro hcalm ⟨hmay, htag⟩ hk hlo hpos hhi
    exact execFabricRequest_undecoded hcalm hmay htag hk (decodeFa_none _ _ _ hpos hlo hhi)
  · rintro hcalm ⟨hmay, htag⟩ hk hlen - ⟨hlo, hin⟩ hon hpub
    obtain ⟨t, r, he, hrsp, ⟨hsrc, -, htg, hst⟩, hmem, hgen, hrw, htsq⟩ :=
      execFabricRequest_sramWrite hcalm hmay htag (hsram hlo hin) hon hk hlen (by rw [hfa hlo]; exact hpub)
    have hbyte := sramByte_put hmem hgen
    refine ⟨t, r, he, hrsp, hst, hsrc, htg, fun i hi => ?_, fun a ha => ?_, ?_, ?_, ?_, ?_, fun hform => ?_, hrw, htsq⟩
    · rw [hbyte, if_pos (by omega), Nat.add_sub_cancel_left]
    · rw [hbyte, if_neg (by omega)]
    · rw [hmem, sramPut_mem]
    · rw [hmem, sramPut_mem]
    · rw [hmem, sramPut_mem]
    · rw [hmem, sramPut_mem]
    · unfold MemoryInForm
      rw [hmem]
      exact sramPut_wf s _ _ hform
  · rintro hcalm ⟨hmay, htag⟩ hk - ⟨hlo, hin⟩ hon hpub
    obtain ⟨t, r, he, hrsp, ⟨hsrc, -, htg, hst⟩, hmem⟩ :=
      execFabricRequest_published hcalm hmay htag (hsram hlo hin) hon hk (by rw [hfa hlo]; exact hpub)
    exact ⟨t, r, he, hrsp, hst, hsrc, htg, hmem⟩

end Sys2Proof.Machine
end

section
/-! PROOF. Which queue an egress serves (05 R133, R134). -/

namespace Sys2Proof.Machine

/-! ### The scheduler, one queue after another -/

/-- Queue `i` has a head, its shaper lets it send, and the egress's target accepts the head. -/
def QueueReady (g : Egress) (now : Nat) (ok : Pkt → Bool) (i : Nat) : Prop :=
  ∃ p r, (lget g.qs i {}).pk = p :: r ∧ shaperOk (lget g.qs i {}) now = true ∧ ok p = true

/-- What the scheduler makes of queue `i` with the best of the queues before it. -/
def egStep (g : Egress) (now : Nat) (ok : Pkt → Bool) (best : Option Nat) (i : Nat) : Option Nat :=
  let q := lget g.qs i {}
  match q.pk with
  | [] => best
  | p :: _ =>
    if shaperOk q now && ok p then
      match best with
      | none => some i
      | some j =>
        match (lget g.qs j {}).pk with
        | [] => some i
        | b :: _ => if tagDiff (p.tag.getD 0) (b.tag.getD 0) < 0 then some i else some j
    else best

/-- The best of the first `n` queues. -/
def egBest (g : Egress) (now : Nat) (ok : Pkt → Bool) (n : Nat) : Option Nat := (List.range n).foldl (egStep g now ok) none

theorem egPick_eq_egBest (g : Egress) (now : Nat) (ok : Pkt → Bool) : egPick g now ok = egBest g now ok 32 := rfl

section
variable {g : Egress} {now : Nat} {ok : Pkt → Bool}

theorem egBest_succ (n : Nat) : egBest g now ok (n + 1) = egStep g now ok (egBest g now ok n) n := by
  unfold egBest
  rw [List.range_succ, List.foldl_append]
  rfl

theorem egStep_unready {i : Nat} (best : Option Nat) (h : ¬ QueueReady g now ok i) : egStep g now ok best i = best := by
  unfold egStep
  dsimp only
  split
  next => rfl
  next p r hp => exact if_neg fun hs => h ⟨p, r, hp, (Bool.and_eq_true _ _).mp hs⟩

theorem egStep_first {i : Nat} (h : QueueReady g now ok i) : egStep g now ok none i = some i := by
  obtain ⟨p, r, hp, hs, ho⟩ := h
  unfold egStep
  simp [hp, hs, ho]

/-- A later queue is served before the best so far where its head's tag is smaller. -/
theorem egStep_meets {i j : Nat} {p b : Pkt} {r l : List Pkt} (h : QueueReady g now ok i) (hp : (lget g.qs i {}).pk = p :: r)
    (hb : (lget g.qs j {}).pk = b :: l) :
    egStep g now ok (some j) i = if tagDiff (p.tag.getD 0) (b.tag.getD 0) < 0 then some i else some j := by
  obtain ⟨p', r', hp', hs, ho⟩ := h
  obtain ⟨rfl, rfl⟩ := List.cons.inj (hp.symm.trans hp')
  unfold egStep
  simp [hp, hb, hs, ho]

/-- Whatever the best so far, a queue that is ready is served or is not. -/
theorem egStep_ready {i : Nat} (best : Option Nat) (h : QueueReady g now ok i) :
    egStep g now ok best i = some i ∨ (egStep g now ok best i = best ∧ best ≠ none) := by
  obtain ⟨p, r, hp, hs, ho⟩ := h
  unfold egStep
  simp only [hp, hs, ho, Bool.and_self, if_true]
  split
  next => exact .inl rfl
  next j =>
    split
    next => exact .inl rfl
    next => split <;> simp

theorem egBest_ready {n i : Nat} (h : egBest g now ok n = some i) : i < n ∧ QueueReady g now ok i := by
  induction n with
  | zero => cases h
  | succ n ih =>
    rw [egBest_succ] at h
    by_cases hn : QueueReady g now ok n
    · rcases egStep_ready (egBest g now ok n) hn with hs | ⟨hs, -⟩ <;> rw [hs] at h
      · cases h
        exact ⟨Nat.lt_succ_self _, hn⟩
      · exact (ih h).imp_left Nat.lt_succ_of_lt
    · rw [egStep_unready _ hn] at h
      exact (ih h).imp_left Nat.lt_succ_of_lt

theorem egBest_none {n : Nat} (h : egBest g now ok n = none) (j : Nat) (hj : j < n) : ¬ QueueReady g now ok j := by
  induction n with
  | zero => cases hj
  | succ n ih =>
    rw [egBest_succ] at h
    have hn : ¬ QueueReady g now ok n := fun hn => by
      rcases egStep_ready (egBest g now ok n) hn with hs | ⟨hs, hne⟩ <;> rw [hs] at h
      · cases h
      · exact hne h
    rw [egStep_unready _ hn] at h
    rcases Nat.lt_succ_iff_lt_or_eq.mp hj with hj | rfl
    · exact ih h hj
    · exact hn

/-- The queue that an egress serves is one of its 32, and is ready. -/
theorem egPick_ready {i : Nat} (h : egPick g now ok = some i) : i < 32 ∧ QueueReady g now ok i := egBest_ready h

end

/-! ### Tags modulo 2^48 (05 R134) -/

/-- Tags within half of 2^48 of one another differ as the numbers behind them do. -/
theorem tagDiff_window (base : Nat) {a b : Nat} (ha : a < 2 ^ 47) (hb : b < 2 ^ 47) :
    tagDiff ((base + a) % 2 ^ 48) ((base + b) % 2 ^ 48) = (a : Int) - b := by
  unfold tagDiff sgn tagMod
  norm_num at ha hb ⊢
  split <;> omega

section
variable {g : Egress} {now base : Nat} {o : Nat → Nat} {ok : Pkt → Bool}
  (htag : ∀ j p r, (lget g.qs j {}).pk = p :: r → o j < 2 ^ 47 ∧ p.tag = some ((base + o j) % 2 ^ 48))
include htag

theorem egStep_window {i j : Nat} (hi : QueueReady g now ok i) (hj : QueueReady g now ok j) :
    egStep g now ok (some j) i = if o i < o j then some i else some j := by
  obtain ⟨p, r, hp, -⟩ := id hi
  obtain ⟨b, l, hb, -⟩ := hj
  obtain ⟨hoi, hpt⟩ := htag i p r hp
  obtain ⟨hoj, hbt⟩ := htag j b l hb
  rw [egStep_meets hi hp hb, hpt, hbt, Option.getD_some, Option.getD_some, tagDiff_window base hoi hoj]
  exact if_congr (by omega) rfl rfl

theorem egBest_least {n i : Nat} (h : egBest g now ok n = some i) (j : Nat) (hj : j < n) (hr : QueueReady g now ok j) :
    o i < o j ∨ (o i = o j ∧ i ≤ j) := by
  induction n generalizing i with
  | zero => cases hj
  | succ n ih =>
    rw [egBest_succ] at h
    by_cases hn : QueueReady g now ok n
    · cases hbest : egBest g now ok n with
      | none =>
        rw [hbest, egStep_first hn] at h
        cases h
        rcases Nat.lt_succ_iff_lt_or_eq.mp hj with hj | rfl
        · exact absurd hr (egBest_none hbest j hj)
        · exact .inr ⟨rfl, le_rfl⟩
      | some k =>
        obtain ⟨hk, hkr⟩ := egBest_ready hbest
        rw [hbest, egStep_window htag hn hkr] at h
        have hlt : j < n → o k < o j ∨ (o k = o j ∧ k ≤ j) := fun hj => ih hbest hj
        split at h <;> cases h <;> rcases Nat.lt_succ_iff_lt_or_eq.mp hj with hj | rfl
        · have := hlt hj
          omega
        · exact .inr ⟨rfl, le_rfl⟩
        · exact hlt hj
        · omega
    · rw [egStep_unready _ hn] at h
      rcases Nat.lt_succ_iff_lt_or_eq.mp hj with hj | rfl
      · exact ih h hj
      · exact absurd hr hn

end

/-- Settles O23: the scheduler keeps the least tag of the queues that it has seen (`egBest_least`). -/
theorem smallestTagServed : Obligations.SmallestTagServed := by
  unfold Obligations.SmallestTagServed
  intro g now base o
  dsimp only
  intro htag
  have hready (j : Nat) : (∃ p r, (lget g.qs j {}).pk = p :: r ∧ shaperOk (lget g.qs j {}) now = true) ↔
      QueueReady g now (fun _ => true) j := by simp [QueueReady]
  simp only [hready]
  exact ⟨fun i h => ⟨(egPick_ready h).1, (egPick_ready h).2, egBest_least htag h⟩, egBest_none⟩

end Sys2Proof.Machine
end

section
/-! PROOF. What leaves the fabric: responses into their sources, and the packets of the egresses (05 R133, R137, R139, R148, R151). -/

namespace Sys2Proof.Machine

/-! ### Responses (05 R139, R148) -/

theorem respond_none {s : State} {src : Nat} (h : nextRsp s src = none) : respond s src = s := by
  unfold respond
  rw [h]

/-- The state without response `i`, which leaves the fabric for its source `src` or is dropped there. -/
def rspTaken (s : State) (src i : Nat) (r : Rsp) : State :=
  { s with fab := { s.fab with
    rsp := s.fab.rsp.eraseIdx i
    rspDrop := if portCut s src then sat32 s.fab.rspDrop else s.fab.rspDrop
    out := aset s.fab.out src (alook s.fab.out src - 1)
    tags := s.fab.tags.erase (src, r.tag) } }

section
variable {s : State} {src i : Nat} {r : Rsp} (hi : nextRsp s src = some i) (hr : s.fab.rsp[i]? = some r)
include hi hr

theorem respond_unclaimed (h : portCut s src = true ∨ xferOf s src r.tag = none) : respond s src = rspTaken s src i r := by
  unfold respond
  simp only [hi, hr]
  split
  next j hj => exact if_pos (h.resolve_right (by simp [hj]))
  next => rfl

theorem respond_claimed {j : Nat} (hlost : portCut s src = false) (hj : xferOf s src r.tag = some j) :
    respond s src = xferResponse (rspTaken s src i r) j r := by
  unfold respond
  simp only [hi, hr, hj]
  exact if_neg (by simp [hlost])

end

/-! ### The head of a queue leaves (05 R133) -/

theorem countDrained_pwr (l : List Nat) (s : State) : ∃ pw, countDrained s l = { s with pwr := pw } := by
  unfold countDrained
  refine foldl_keep (fun x => ∃ pw, x = { s with pwr := pw }) _ ?_ l ⟨s.pwr, rfl⟩
  rintro x d ⟨pw, rfl⟩
  exact ⟨_, rfl⟩

theorem egPop_head {g : Egress} {i now : Nat} {ok : Pkt → Bool} (h : QueueReady g now ok i) : ∃ p g', egPop g i now = some (p, g') := by
  obtain ⟨p, r, hp, -⟩ := h
  unfold egPop
  dsimp only
  rw [hp]
  exact ⟨_, _, rfl⟩

/-- Egress `e` as `g`, with the drain counts in `pw`. -/
def egressLeft (s : State) (e : Nat) (g : Egress) (pw : Pwr) : State :=
  { s with fab := { s.fab with eg := lmod s.fab.eg e fun _ => g }, pwr := pw }

section
variable {s : State} {e : Nat} {ok : Pkt → Bool}

theorem egressPop_none (h : egPick (lget s.fab.eg e {}) s.clk.mclk ok = none) : egressPop s e ok = none := by
  unfold egressPop
  simp only [h]

/-- The head of the queue that is picked leaves; where no source holds a request, nothing takes its place. -/
theorem egressPop_head (hheld : s.fab.held = []) {i : Nat} (h : egPick (lget s.fab.eg e {}) s.clk.mclk ok = some i) :
    ∃ p g' pw, egPop (lget s.fab.eg e {}) i s.clk.mclk = some (p, g') ∧ egressPop s e ok = some (p, egressLeft s e g' pw) := by
  obtain ⟨p, g', hpop⟩ := egPop_head (egPick_ready h).2
  obtain ⟨pw, hpw⟩ := countDrained_pwr p.doms { s with fab := { s.fab with eg := lmod s.fab.eg e fun _ => g' } }
  refine ⟨p, g', pw, hpop, ?_⟩
  unfold egressPop
  simp only [h, hpop]
  exact congrArg (fun x => some (p, x)) ((congrArg releaseHeld hpw).trans (releaseHeld_nil (egressLeft s e g' pw) hheld))

/-! ### The link layers (05 R137) -/

theorem egressTake_none (h : egPick (lget s.fab.eg e {}) s.clk.mclk ok = none) : egressTake s e ok = s := by
  unfold egressTake
  rw [egressPop_none h]

/-- The state whose egress has handed its packet over. -/
def handedOver (s : State) (p : Pkt) : State := { s with fab := { s.fab with handed := s.fab.handed ++ [p] } }

theorem egressTake_head (hheld : s.fab.held = []) {i : Nat} (h : egPick (lget s.fab.eg e {}) s.clk.mclk ok = some i) :
    ∃ p g' pw, egPop (lget s.fab.eg e {}) i s.clk.mclk = some (p, g') ∧ egressTake s e ok = handedOver (egressLeft s e g' pw) p := by
  obtain ⟨p, g', pw, hpop, htake⟩ := egressPop_head hheld h
  refine ⟨p, g', pw, hpop, ?_⟩
  unfold egressTake
  rw [htake]
  rfl

end

theorem chnReady_linked {s : State} {q : Nat} {p : Pkt} (h : chnReady s q p = true) :
    (portAt s q).link = true ∧ s.fab.handed.all (fun x => x.req.dst != 20 + q) = true := by
  unfold chnReady canStart at h
  simp only [Bool.and_eq_true, Bool.not_eq_true', List.any_eq_false] at h
  obtain ⟨hfree, ⟨⟨hlink, -⟩, -⟩, -⟩ := h
  exact ⟨hlink, List.all_eq_true.mpr fun x hx => by simpa using hfree x hx⟩

/-- 16 Table 16-7: a link that is down or held starts no frame. -/
theorem linkEgress_held {s : State} (h : s.twn.up = false ∨ linkHeld s = true) : linkEgress s = s := by
  unfold linkEgress linkReady
  exact if_pos (by rcases h with h | h <;> simp [h])

/-- A frame for the partner goes on the link at once and is answered. -/
theorem linkEgress_frame {s : State} (hup : s.twn.up = true) (hfree : linkHeld s = false) (hheld : s.fab.held = [])
    (hh : s.fab.handed = []) {i : Nat} (h : egPick (lget s.fab.eg 6 {}) s.clk.mclk (fun _ => true) = some i) :
    ∃ p g', egPop (lget s.fab.eg 6 {}) i s.clk.mclk = some (p, g') ∧
      (p.req.dst = 22 → (linkEgress s).twn.link = frameOf p.req.data :: s.twn.link ∧ (linkEgress s).fab.handed = [] ∧
        (linkEgress s).mem = s.mem ∧
        ∃ r, (linkEgress s).fab.rsp = s.fab.rsp ++ [r] ∧ r.src = p.req.src ∧ r.tag = p.req.tag ∧ r.status = 0) := by
  obtain ⟨p, g', pw, hpop, htake⟩ := egressTake_head hheld h
  refine ⟨p, g', hpop, fun hdst => ?_⟩
  have hhanded : (handedOver (egressLeft s 6 g' pw) p).fab.handed = [p] := congrArg (· ++ [p]) hh
  have hsent : ∃ n, linkEgress s = answerHanded (linkPut { handedOver (egressLeft s 6 g' pw) p with
      twn := { s.twn with fwdLines := n } } (frameOf p.req.data)) p := by
    unfold linkEgress linkReady
    rw [if_neg (by simp [hup, hfree]), htake]
    dsimp only
    rw [hhanded, List.filter_cons_of_pos (by simp [hdst])]
    exact ⟨_, rfl⟩
  obtain ⟨n, hn⟩ := hsent
  rw [hn]
  refine ⟨rfl, ?_, rfl, _, rfl, rfl, rfl, rfl⟩
  show (handedOver (egressLeft s 6 g' pw) p).fab.handed.filter (fun x => x.seq != p.seq) = []
  rw [hhanded]
  simp

/-! ### The DMC egresses (06 R169, R176) -/

/-- What a state keeps of the queues, the memories and the sequencer of another. -/
structure KeepsQueues (s t : State) : Prop where
  eg : t.fab.eg = s.fab.eg
  mem : t.mem = s.mem
  tsq : t.tsq = s.tsq

/-- The requests of a channel that are done are answered, and no more. -/
theorem finishReqs_keeps (s : State) (c : Nat) : KeepsQueues s (finishReqs s c) := by
  have hfold := foldl_keep (fun a : State × List LineReq => KeepsQueues s a.1)
    (fun a r => if r.left = 0 ∧ !(a.2.any fun x => x.src == r.src) then (lineAnswer a.1 r, a.2) else (a.1, a.2 ++ [r]))
    (fun a r ⟨h1, h2, h3⟩ => by split <;> exact ⟨h1, h2, h3⟩) (chanAt s c).reqs (x := (s, [])) ⟨rfl, rfl, rfl⟩
  exact ⟨hfold.eg, hfold.mem, hfold.tsq⟩

theorem forcedMark_keeps (s : State) (t : Target) (n : Nat) : (forcedMark s t n).fab = s.fab ∧ (forcedMark s t n).mem = s.mem := by
  unfold forcedMark
  split <;> exact ⟨rfl, rfl⟩

/-- The head of the queue that is picked enters the channel, or is refused there. -/
theorem dmcTake_head {s : State} {c i : Nat} (hheld : s.fab.held = [])
    (h : egPick (lget s.fab.eg c {}) s.clk.mclk (fun p => dmcRoom s c p && !settleHeld s p) = some i) :
    ∃ p g', egPop (lget s.fab.eg c {}) i s.clk.mclk = some (p, g') ∧ (dmcTake s c).fab.eg = lmod s.fab.eg c (fun _ => g') ∧
      (dmcTake s c).mem = s.mem ∧ (p.forced = false → (dmcTake s c).tsq = s.tsq) := by
  obtain ⟨p, g', pw, hpop, hleft⟩ := egressPop_head hheld h
  refine ⟨p, g', hpop, ?_⟩
  unfold dmcTake
  rw [hleft]
  dsimp only
  split
  next =>
    exact ⟨(finishReqs_keeps _ _).eg, (finishReqs_keeps _ _).mem, fun _ => (finishReqs_keeps _ _).tsq⟩
  next =>
    split
    next hf =>
      exact ⟨congrArg Fab.eg (forcedMark_keeps _ _ _).1, (forcedMark_keeps _ _ _).2, fun h => absurd hf (by simp [h])⟩
    next => exact ⟨rfl, rfl, fun _ => rfl⟩

theorem dmcDequeue_on {s : State} {e : Nat} (h : domOn s (20 + e) = true) : dmcDequeue s e = dmcTake s e := if_pos (by simp [h])

theorem dmcDequeue_off {s : State} {e : Nat} (h : domOn s (20 + e) = false) (hp : (domAt s (20 + e)).phase ≠ .drain) :
    dmcDequeue s e = s := if_neg (by simp [h, hp])

/-! ### FAB_QSEL (05 R151) -/

theorem bits_qsel {e i : Nat} (he : e < 8) (hi : i < 32) : bits (e * 256 + i) 10 8 = e ∧ bits (e * 256 + i) 4 0 = i := by
  unfold bits
  omega

/-- A write selects a queue and copies what the registers show of it. -/
theorem qselWrite_eq (s : State) (v : Nat) :
    let g := lget s.fab.eg (bits v 10 8) {}
    let q := lget g.qs (bits v 4 0) {}
    qselWrite s v = { s with
      rw := aset s.rw (Base.fab + 0x40) (bits v 10 8 * 256 + bits v 4 0)
      fab := { s.fab with qsn := [q.pk.length % 256 * 2 ^ 24 + queueEff g q % 2 ^ 24,
                                  (match q.pk with | [] => 0 | p :: _ => min 0xFFFFFFFF (s.clk.mclk - p.enq)), q.maxDly] } } := by
  dsimp only
  obtain ⟨he, hi⟩ := bits_qsel (e := bits v 10 8) (i := bits v 4 0) (by unfold bits; omega) (by unfold bits; omega)
  unfold qselWrite qselGet qselE qselQ
  simp only [rwGet_rwPut, if_true, he, hi]
  rfl

/-! ### The commands -/

theorem exec_egressDequeue {w : When} {e : Nat} {s b : State} (h : dequeue (advance w s) e = b) :
    exec (.egressDequeue w e) s = .next (endCmd s b) := cmdRun_eq (f := fun s => dequeue s e) h

theorem dequeue_dmc (s : State) {e : Nat} (h : e < 4) : dequeue s e = dmcDequeue s e := if_pos h

theorem dequeue_chain (s : State) {e : Nat} (h : e = 4 ∨ e = 5) : dequeue s e = egressTake s e (chnReady s (e - 4)) := by
  rcases h with rfl | rfl <;> rfl

/-- Settles O22: a response is taken by `respond_unclaimed` or `respond_claimed`; a head leaves by `egressTake_head`, `dmcTake_head` or
`linkEgress_frame`; FAB_QSEL is `qselWrite_eq`. -/
theorem queuesAndResponses : Obligations.QueuesAndResponses := by
  unfold Obligations.QueuesAndResponses
  refine ⟨fun w src s => ?_, fun w e s hheld => ?_, fun w r s hd => ?_⟩
  · refine ⟨fun h => cmdRun_eq (f := fun s => respond s src) (respond_none h), fun i r hi hr => ⟨fun h => ?_, fun j hlost hj => ?_⟩⟩
    · exact cmdRun_eq (f := fun s => respond s src) (respond_unclaimed hi hr h)
    · exact cmdRun_eq (f := fun s => respond s src) (respond_claimed hi hr hlost hj)
  · dsimp only
    refine ⟨fun i he hpick => ?_, fun he hpick => ?_, fun p hp => chnReady_linked hp, fun he hoff hp => ?_, fun i he hon hpick => ?_,
      fun he h => ?_, fun i he hup hfree hh hpick => ?_⟩
    · obtain ⟨p, g', pw, hpop, htake⟩ := egressTake_head (s := advance w s) hheld hpick
      exact ⟨p, g', _, hpop, exec_egressDequeue ((dequeue_chain _ he).trans htake), rfl, rfl⟩
    · exact exec_egressDequeue ((dequeue_chain _ he).trans (egressTake_none hpick))
    · exact exec_egressDequeue ((dequeue_dmc _ he).trans (dmcDequeue_off ((advance_domOn w s _).trans hoff) hp))
    · obtain ⟨p, g', hpop, hkeep⟩ := dmcTake_head (s := advance w s) hheld hpick
      exact ⟨p, g', _, hpop,
        exec_egressDequeue ((dequeue_dmc _ he).trans (dmcDequeue_on ((advance_domOn w s _).trans hon))), hkeep⟩
    · subst he
      exact exec_egressDequeue (linkEgress_held h)
    · subst he
      obtain ⟨p, g', hpop, hsent⟩ := linkEgress_frame (s := advance w s) hup hfree hheld hh hpick
      exact ⟨p, g', _, hpop, exec_egressDequeue rfl, hsent⟩
  · exact cmdRun_eq (f := writeReg (Base.fab + 0x40) r noOutside) ((write_qsel w r noOutside s hd).trans (qselWrite_eq _ _))

end Sys2Proof.Machine
end

section
/-! PROOF. The phases of a domain that goes down (05 R143 to R146, 17 R454, R456). -/

namespace Sys2Proof.Machine

/-! ### One domain of the list -/

theorem lmod_congr {α : Type} (l : List α) (i : Nat) (d : α) {f g : α → α} (h : f (lget l i d) = g (lget l i d)) :
    lmod l i f = lmod l i g := by
  induction l generalizing i with
  | nil => rfl
  | cons a r ih =>
    cases i with
    | zero => exact congrArg (· :: r) h
    | succ i => exact congrArg (a :: ·) (ih i h)

theorem lmod_lmod {α : Type} (l : List α) (i : Nat) (f g : α → α) : lmod (lmod l i f) i g = lmod l i (g ∘ f) := by
  induction l generalizing i with
  | nil => rfl
  | cons a r ih =>
    cases i with
    | zero => rfl
    | succ i => exact congrArg (a :: ·) (ih i)

/-- Two changes of a domain that agree on it as it stands do the same. -/
theorem modDom_congr {s : State} {d : Nat} {f g : Dom → Dom} (h : f (domAt s d) = g (domAt s d)) : modDom s d f = modDom s d g := by
  unfold modDom
  rw [lmod_congr s.pwr.doms d {} h]

theorem modDom_modDom (s : State) (d : Nat) (f g : Dom → Dom) : modDom (modDom s d f) d g = modDom s d (g ∘ f) := by
  unfold modDom
  dsimp only
  rw [lmod_lmod]

theorem domAt_modDom {s : State} {d : Nat} (f : Dom → Dom) (h : d < s.pwr.doms.length) : domAt (modDom s d f) d = f (domAt s d) :=
  lget_lmod_same s.pwr.doms d f {} h

/-! ### DRAIN (05 R143, R145) -/

section
variable {s : State} {d : Nat}

theorem drainEnd_ends (hp : (domAt s d).phase = .drain)
    (h : (domAt s d).quick = true ∨ domWork s d = false ∨ (domAt s d).c0 + 1 + drainLimit s d ≤ s.clk.mclk) :
    drainEnd s d = modDom s d fun y => { y with
      phase := .flush, limit := domWork s d && decide ((domAt s d).c0 + 1 + drainLimit s d ≤ s.clk.mclk) && !(domAt s d).quick } := by
  unfold drainEnd
  exact (if_pos ⟨hp, by simpa using h⟩).trans (modDom_congr rfl)

theorem drainEnd_stays (hp : (domAt s d).phase ≠ .drain) : drainEnd s d = s := if_neg fun h => hp h.1

/-! ### FLUSH (05 R146) -/

/-- The fabric without the packets for domain `d`. -/
def withoutPkts (f : Fab) (d : Nat) : Fab :=
  { f with
    eg := f.eg.map fun g => { g with qs := g.qs.map fun q => { q with pk := q.pk.filter fun p => !p.doms.contains d } }
    handed := f.handed.filter fun p => !p.doms.contains d
    held := f.held.filter fun p => !p.doms.contains d }

theorem withoutPkts_queues (f : Fab) (d : Nat) :
    ∀ g ∈ (withoutPkts f d).eg, ∀ q ∈ g.qs, ∀ p ∈ q.pk, p.doms.contains d = false := by
  intro g hg q hq p hp
  obtain ⟨g', -, rfl⟩ := List.mem_map.mp hg
  obtain ⟨q', -, rfl⟩ := List.mem_map.mp hq
  simpa using (List.mem_filter.mp hp).2

/-- The state once FLUSH has taken the requests for domain `d` out of the fabric and out of the channel behind it. -/
def flushTaken (s : State) (d : Nat) : State :=
  if 20 ≤ d ∧ d < 24 then
    modChan { s with fab := withoutPkts s.fab d } (d - 20) fun c => { c with rdq := [], wrq := [], reqs := [], wb := [] }
  else { s with fab := withoutPkts s.fab d }

theorem flushTaken_keeps (s : State) (d : Nat) :
    (flushTaken s d).fab = withoutPkts s.fab d ∧ (flushTaken s d).mem = s.mem ∧ (flushTaken s d).pwr = s.pwr := by
  unfold flushTaken
  split <;> exact ⟨rfl, rfl, rfl⟩

/-- Requests, with their places in the order of issue, are completed with DOMAIN_OFF. -/
def completeOff (l : List (Req × Nat)) (s : State) : State := l.foldl (fun s p => complete s p.1 p.2 2) s

/-- They are answered, and nothing moves in the queues. -/
theorem completeOff_keeps (l : List (Req × Nat)) (s : State) :
    (completeOff l s).fab.eg = s.fab.eg ∧ (completeOff l s).mem = s.mem ∧ (completeOff l s).pwr = s.pwr ∧
      ∃ rs, (completeOff l s).fab.rsp = s.fab.rsp ++ rs ∧ ∀ r ∈ rs, r.status = 2 := by
  induction l generalizing s with
  | nil => exact ⟨rfl, rfl, rfl, [], (List.append_nil _).symm, by simp⟩
  | cons p l ih =>
    obtain ⟨heg, hmem, hpwr, rs, hrsp, hst⟩ := ih (complete s p.1 p.2 2)
    exact ⟨heg, hmem, hpwr, _, hrsp.trans (List.append_assoc _ _ _), List.forall_mem_cons.mpr ⟨rfl, hst⟩⟩

theorem flushEnd_ends (hp : (domAt s d).phase = .flush) :
    ∃ l f, flushEnd s d = modDom (completeOff l (flushTaken s d)) d f ∧ ∀ x, (f x).phase = .isolate :=
  ⟨_, _, if_pos hp, fun _ => rfl⟩

theorem flushEnd_stays (hp : (domAt s d).phase ≠ .flush) : flushEnd s d = s := if_neg hp

/-! ### ISOLATE and the switch (05 R143, 17 R454, R456) -/

theorem isolateEnd_ends (hp : (domAt s d).phase = .isolate) (ho : (domAt s d).opening = false) (ht : (domAt s d).c0 + 64 ≤ s.clk.mclk) :
    isolateEnd s d = modDom s d fun y => { y with opening := true } :=
  modDom_congr (if_pos ⟨hp, ho, ht⟩)

theorem isolateEnd_stays (hp : (domAt s d).phase ≠ .isolate) : isolateEnd s d = modDom s d fun y => y :=
  modDom_congr (if_neg fun h => hp h.1)

theorem powerSwitchOpen_stays (h : (domAt s d).phase ≠ .isolate ∨ (domAt s d).opening = false) : powerSwitchOpen s d = s :=
  if_neg fun ⟨hp, ho⟩ => h.elim (· hp) fun h => by simp [h] at ho

/-- 17 R456: the phases start, and DRAIN is to end as it begins. -/
theorem powerGoodFailed_starts (hon : domOn s d = true) :
    powerGoodFailed s d = modDom s d fun y => { y with
      fault := true, phase := .fence, c0 := s.clk.mclk, downs := satAdd 4095 y.downs 1, drained := 0, flushed := 0, limit := false
      quick := true, queued := 0 } := by
  have hp : (domAt s d).phase = .on := by simpa [domOn] using hon
  unfold powerGoodFailed
  rw [if_pos hon]
  unfold startDown
  rw [modDom_modDom]
  exact modDom_congr (if_pos hp)

end

/-- Settles O24: each phase's end where it is due (`drainEnd_ends`, `flushEnd_ends`, `isolateEnd_ends`) and where it does not stand. -/
theorem powerDownPhases : Obligations.PowerDownPhases := by
  unfold Obligations.PowerDownPhases
  intro w d s hd
  dsimp only
  have hlen : d < (advance w s).pwr.doms.length := by simpa [advance] using hd
  refine ⟨fun hp h => cmdRun_eq (f := fun s => drainEnd s d) (drainEnd_ends hp h),
    fun hp => cmdRun_eq (f := fun s => drainEnd s d) (drainEnd_stays hp), fun hp => ?_,
    fun hp => cmdRun_eq (f := fun s => flushEnd s d) (flushEnd_stays hp),
    fun hp ho ht => cmdRun_eq (f := fun s => isolateEnd s d) (isolateEnd_ends hp ho ht),
    fun hp => cmdRun_eq (f := fun s => isolateEnd s d) (isolateEnd_stays hp),
    fun hon => cmdRun_eq (f := fun s => powerGoodFailed s d) (powerGoodFailed_starts ((advance_domOn w s d).trans hon)),
    fun h => cmdRun_eq (f := fun s => powerSwitchOpen s d) (powerSwitchOpen_stays h)⟩
  obtain ⟨l, f, hb, hf⟩ := flushEnd_ends hp
  obtain ⟨htaken, hmem, hpwr⟩ := flushTaken_keeps (advance w s) d
  obtain ⟨heg, hmem', hpwr', rs, hrsp, hst⟩ := completeOff_keeps l (flushTaken (advance w s) d)
  have hdom : (domAt (modDom (completeOff l (flushTaken (advance w s) d)) d f) d).phase = .isolate := by
    rw [domAt_modDom f (by rw [hpwr', hpwr]; exact hlen), hf]
  refine ⟨_, cmdRun_eq (f := fun s => flushEnd s d) hb, hdom, congrArg (· == DomPhase.on) hdom, ?_, ⟨rs, ?_, hst⟩, hmem'.trans hmem⟩
  · have hqueues : (modDom (completeOff l (flushTaken (advance w s) d)) d f).fab.eg = (withoutPkts s.fab d).eg :=
      heg.trans (congrArg Fab.eg htaken)
    rw [hqueues]
    exact withoutPkts_queues s.fab d
  · exact hrsp.trans (congrArg (·.rsp ++ rs) htaken)

end Sys2Proof.Machine
end

section
/-! PROOF. DRAM scheduling: the return of MR4 data, elastic issue, and the DMC's register commands (06 R167, R170, R178, R179, R185; 07 R195,
R198, R201, R206, R212). -/

namespace Sys2Proof.Machine

/-! ### The demand of an MR4 reading (06 R178) -/

/-- The demand of each rate that the standard gives a meaning: the exponent of its multiplier, and BEYOND past them all. -/
theorem mr4Demand_rate (raw : Byte) :
    (mr4Rate raw = .base → mr4Demand raw = 0) ∧ (mr4Rate raw = .mult 2 → mr4Demand raw = 1) ∧
      (mr4Rate raw = .mult 4 → mr4Demand raw = 2) ∧ (mr4Rate raw = .mult 8 → mr4Demand raw = 3) ∧
      (mr4Rate raw = .over → mr4Demand raw = 4) := by
  refine ⟨fun h => ?_, fun h => ?_, fun h => ?_, fun h => ?_, fun h => ?_⟩ <;> simp only [mr4Demand, h]

/-- Every reading, of a reserved code too, demands one of the codes of DMC_MR4ST. -/
theorem mr4Demand_le (raw : Byte) : mr4Demand raw ≤ 4 := by
  unfold mr4Demand
  split <;> omega

/-! ### The return of MR4 data (06 R178, R179, 07 R203) -/

/-- The state once the demand of rank `p` is kept. -/
def mr4Kept (s : State) (p : Nat) (raw : Byte) : State :=
  modRank s p fun y => { y with mrrAt := none, polled := true, srAt := y.sr, demand := mr4Demand raw, mr4 := raw.toNat }

/-- The same with the check of R178 and R179: a demand above what the running set refreshes at raises REFRESH_DEFICIT, at the cycle `t` of the
return, unless the rank refreshes itself. -/
def mr4Checked (s : State) (p : Nat) (raw : Byte) (t : Nat) : State :=
  if (prankAt s p).sr = false ∧ refMult s s.tsq.set < demandMult (mr4Demand raw) then
    raiseFaultAt (mr4Kept s p raw) (t - tickStart s) 4 2 (1 + p / 2) (p * 256 + demandMult (mr4Demand raw)) (some (prankAt s p).mrrWord)
  else mr4Kept s p raw

section
variable {s : State} {p : Nat} {raw : Byte}

theorem mr4Return_none (h : (prankAt s p).mrrAt = none) : mr4Return s p raw = s := by
  unfold mr4Return
  dsimp only
  rw [h]

/-- What becomes of a read on its way, by its time and by whether its rank is retired. -/
theorem mr4Return_some {t : Nat} (h : (prankAt s p).mrrAt = some t) :
    mr4Return s p raw =
      if s.clk.mclk < t then s
      else if retired s p then modRank s p fun y => { y with mrrAt := none }
      else mr4Checked s p raw t := by
  have hsr : ((!(prankAt s p).sr) = true ∧ refMult s s.tsq.set < demandMult (mr4Demand raw)) ↔
      ((prankAt s p).sr = false ∧ refMult s s.tsq.set < demandMult (mr4Demand raw)) := by simp
  unfold mr4Return
  dsimp only
  rw [h]
  exact if_congr Iff.rfl rfl (if_congr Iff.rfl rfl (if_congr hsr rfl rfl))

theorem mr4Return_early {t : Nat} (h : (prankAt s p).mrrAt = some t) (ht : s.clk.mclk < t) : mr4Return s p raw = s := by
  rw [mr4Return_some h, if_pos ht]

theorem mr4Return_retired {t : Nat} (h : (prankAt s p).mrrAt = some t) (ht : t ≤ s.clk.mclk) (hr : retired s p = true) :
    mr4Return s p raw = modRank s p fun y => { y with mrrAt := none } := by
  rw [mr4Return_some h, if_neg (by omega), if_pos hr]

theorem mr4Return_checked {t : Nat} (h : (prankAt s p).mrrAt = some t) (ht : t ≤ s.clk.mclk) (hr : retired s p = false) :
    mr4Return s p raw = mr4Checked s p raw t := by
  rw [mr4Return_some h, if_neg (by omega), if_neg (by simp [hr])]

end

/-- Settles O34: the demand by `mr4Demand_rate` and `mr4Demand_le`; the return by `mr4Return_none`, `mr4Return_early`, `mr4Return_retired` and
`mr4Return_checked`, one for each state of the read. -/
theorem mr4Returns : Obligations.Mr4Returns := by
  unfold Obligations.Mr4Returns
  intro w chan rank raw s _
  obtain ⟨h0, h1, h2, h3, h4⟩ := mr4Demand_rate raw
  exact ⟨h0, h1, h2, h3, h4, mr4Demand_le raw,
    fun h => cmdRun_eq (f := fun s => mr4Return s (2 * chan + rank) raw) (mr4Return_none h),
    fun t h ht => cmdRun_eq (f := fun s => mr4Return s (2 * chan + rank) raw) (mr4Return_early h ht),
    fun t h ht hr => cmdRun_eq (f := fun s => mr4Return s (2 * chan + rank) raw) (mr4Return_retired h ht hr),
    fun t h ht hr => cmdRun_eq (f := fun s => mr4Return s (2 * chan + rank) raw) (mr4Return_checked h ht hr)⟩

/-! ### Elastic issue (06 R167, R170, 07 R194, R206) -/

/-- The state once the queues of channel `c` are taken up: the scrub's write-backs and its next read, the neighbour refresh that is over, the
counts of what waits, and the batch. -/
def queuesTakenUp (s : State) (c : Nat) : State := startBatch (countHeld (nrefDone (scrubStep (scrubBack s c) c) c) c) c

/-- The chosen command issues, where there is one. -/
def issueChoice (s : State) (c : Nat) (errs : List EccErr) : State :=
  match elChoice s c with
  | some e => elIssue s c e errs
  | none => s

section
variable {s : State} {c : Nat} (errs : List EccErr)

theorem issueChoice_none (h : elChoice s c = none) : issueChoice s c errs = s := by
  unfold issueChoice
  rw [h]

theorem issueChoice_some {e : ElCmd} (h : elChoice s c = some e) : issueChoice s c errs = elIssue s c e errs := by
  unfold issueChoice
  rw [h]

theorem elasticIssue_barred
    (h : (domOn s (20 + c) = false ∧ (domAt s (20 + c)).phase ≠ .drain) ∨ s.dmc.fspLeft ≠ 0 ∨ fixedHeld s c = true ∨ s.dmc.ready = false) :
    elasticIssue s c errs = s := by
  unfold elasticIssue
  split
  next => rfl
  next hon =>
    refine if_pos ?_
    rcases h with ⟨hoff, hp⟩ | hfsp | hheld | hready
    · exact absurd (by simp [hoff, hp]) hon
    · simp [fspChanging, hfsp]
    · simp [hheld]
    · simp [hready]

theorem elasticIssue_free (hon : domOn s (20 + c) = true ∨ (domAt s (20 + c)).phase = .drain) (hfsp : s.dmc.fspLeft = 0)
    (hheld : fixedHeld s c = false) (hready : s.dmc.ready = true) :
    elasticIssue s c errs = issueChoice (queuesTakenUp s c) c errs := by
  have hdom : ¬ (!domOn s (20 + c) && (domAt s (20 + c)).phase != .drain) = true := by
    rcases hon with hon | hdrain
    · simp [hon]
    · simp [hdrain]
  have hfree : ¬ (fspChanging s || fixedHeld s c || !s.dmc.ready) = true := by simp [fspChanging, hfsp, hheld, hready]
  exact (if_neg hdom).trans (if_neg hfree)

end

/-- Settles O35: a channel where nothing may issue is `elasticIssue_barred`; one that is free issues its choice by `elasticIssue_free`. -/
theorem elasticIssueConditions : Obligations.ElasticIssue := by
  unfold Obligations.ElasticIssue
  intro w c errs s
  refine ⟨fun h => ?_, fun hon hfsp hheld hready => ?_⟩
  · rw [← advance_domOn w] at h
    exact cmdRun_eq (f := fun s => elasticIssue s c errs) (elasticIssue_barred errs h)
  · rw [← advance_domOn w] at hon
    have hissue := elasticIssue_free errs hon hfsp hheld hready
    exact ⟨fun hnone => cmdRun_eq (f := fun s => elasticIssue s c errs) (hissue.trans (issueChoice_none errs hnone)),
      fun e hsome => cmdRun_eq (f := fun s => elasticIssue s c errs) (hissue.trans (issueChoice_some errs hsome))⟩

/-! ### DMC_RETIRE (07 R195, R198, R201) -/

section
variable (s : State) {v : Nat}

theorem retireWrite_unkeyed (hk : bits v 31 16 ≠ 0x4D1C) : retireWrite s v = s := if_pos hk

theorem retireWrite_condemn (hk : bits v 31 16 = 0x4D1C) (ha : bits v 9 8 = 1) : retireWrite s v = condemnRank s (bits v 2 0) := by
  unfold retireWrite
  rw [if_neg (by simp [hk]), ha]
  rfl

theorem retireWrite_start (hk : bits v 31 16 = 0x4D1C) (ha : bits v 9 8 = 2) :
    retireWrite s v = modRmt s (bits v 2 0) fun x => { x with go := true } := by
  unfold retireWrite
  rw [if_neg (by simp [hk]), ha]
  rfl

theorem retireWrite_abort (hk : bits v 31 16 = 0x4D1C) (ha : bits v 9 8 = 3) :
    retireWrite s v = { s with dmc := { s.dmc with abort := if movingLr s = some (bits v 2 0) then true else s.dmc.abort } } := by
  unfold retireWrite
  rw [if_neg (by simp [hk]), ha]
  by_cases hm : movingLr s = some (bits v 2 0)
  · rw [if_pos hm, if_pos hm]
    rfl
  · rw [if_neg hm, if_neg hm]
    rfl

end

/-- What a condemned rank leads to, in the spare or in the map, moves no rank's own record. -/
theorem condemnRank_ranks (s : State) (p : Nat) (h : (prankAt s p).bad = false) :
    (condemnRank s p).dmc.ranks = lmod s.dmc.ranks p fun r => { r with bad := true } := by
  unfold condemnRank
  rw [if_neg (by simp [h])]
  dsimp only
  split_ifs
  · rfl
  · rfl
  · split <;> rfl
  · refine foldl_keep (fun x : State => x.dmc.ranks = lmod s.dmc.ranks p fun r => { r with bad := true }) _ (fun x lr hx => ?_) _ rfl
    split
    · exact hx
    · exact hx

/-- 07 R195: a physical rank is condemned after CONDEMN, whatever it was before. -/
theorem condemnRank_bad (s : State) (p : Nat) (hp : p < s.dmc.ranks.length) : (prankAt (condemnRank s p) p).bad = true := by
  cases h : (prankAt s p).bad with
  | true => rw [condemnRank, if_pos h, h]
  | false =>
    unfold prankAt
    rw [condemnRank_ranks s p h, lget_lmod_same _ _ _ _ hp]

/-! ### The registers of a channel (06 R185) -/

section
variable {off : Nat} (h1 : 0x100 ≤ off) (h2 : off < 0x200)
include h1 h2

theorem regDom_chan : regDom (Base.dmc + off) = 20 + (off - 0x100) / 0x40 := by
  have hoff : (Base.dmc + off) % 0x10000 = off := by unfold Base.dmc; omega
  have hblk : (Base.dmc + off) / 0x10000 % 16 = 4 := by unfold Base.dmc; omega
  unfold regDom
  rw [hoff, hblk]
  exact (if_neg (by omega)).trans (if_pos ⟨h1, h2⟩)

theorem dmcWrite_chan (s : State) (v : Nat) : dmcWrite s off v = chanWrite s ((off - 0x100) / 0x40) ((off - 0x100) % 0x40) v := by
  unfold dmcWrite
  split
  case h_7 => exact if_pos ⟨h1, h2⟩
  all_goals omega

end

/-- The DMC's window holds no writable pair, and any source may write it. -/
theorem dmcReg_plain (src off : Nat) (h : off < 0x10000) :
    mayWrite src (Base.dmc + off) = true ∧ isWideHigh (Base.dmc + off) = false ∧ widePair (Base.dmc + off) = none := by
  have hblk : blkOf (Base.dmc + off) = 4 := by unfold blkOf Base.dmc; omega
  have hchn : Base.dmc + 0x10000 ≤ Base.chn := by decide
  have hdbg : Base.dmc + 0x10000 ≤ Base.dbg := by decide
  refine ⟨by simp [mayWrite, hblk], Bool.eq_false_iff.mpr fun hw => ?_, Option.eq_none_iff_forall_ne_some.mpr fun _ hw => ?_⟩
  · rcases isWideHigh_cases hw with hw | hw <;> omega
  · rcases widePair_cases hw with ⟨hw, -⟩ | ⟨hw, -⟩ <;> omega

/-- A write of a channel's MAXAGE register, in a channel that is fully on. -/
theorem write_maxAge (w : When) (c : Nat) (r : Wr) (o : Outside) (s : State) (hc : c < 4) (hd : domOn s (20 + c) = true) :
    writeReg (Base.dmc + 0x128 + 0x40 * c) r o (advance w s) =
      if bitAt r.val.toNat 31 then modChan (advance w s) c fun x => { x with maxAge := 0 } else advance w s := by
  have hoff : Base.dmc + 0x128 + 0x40 * c = Base.dmc + (0x128 + 0x40 * c) := Nat.add_assoc _ _ _
  have hchan : (0x128 + 0x40 * c - 0x100) / 0x40 = c := by omega
  have hreg : (0x128 + 0x40 * c - 0x100) % 0x40 = 0x28 := by omega
  have hdom : regDom (Base.dmc + (0x128 + 0x40 * c)) = 20 + c := by rw [regDom_chan (by omega) (by omega), hchan]
  have hbase : Base.dmc = 0x40040000 := rfl
  obtain ⟨hmay, hhigh, hpair⟩ := dmcReg_plain r.src (0x128 + 0x40 * c) (by omega)
  rw [hoff, writeReg_plain w _ r o s (20 + c) hd (by omega) (by omega) (by omega) (by omega) hdom hmay hhigh hpair,
    regWriteRaw_dmc _ _ _ _ _ (by omega), if_neg (by omega), dmcWrite_chan (by omega) (by omega), hchan, hreg]
  rfl

/-! ### The statement -/

/-- Settles O36: DMC_RETIRE by the `retireWrite_` lemma of its action and `condemnRank_bad`, MAXAGE.CLR by `write_maxAge`, DMC_ELOGSEL by
`write_elogSel`. -/
theorem dmcRegisterCommands : Obligations.DmcRegisterCommands := by
  unfold Obligations.DmcRegisterCommands
  intro w r c s
  have hretire {b : State} (hd : domOn s 9 = true) (h : retireWrite (advance w s) r.val.toNat = b) :
      cmdRun w (writeReg (Base.dmc + 0x210) r noOutside) s = .next (endCmd s b) :=
    cmdRun_eq ((write_retire w r noOutside s hd).trans h)
  refine ⟨fun hd hk ha => ⟨hretire hd (retireWrite_condemn _ hk ha), condemnRank_bad (advance w s) _⟩,
    fun hd hk ha => hretire hd (retireWrite_start _ hk ha), fun hd hk ha => hretire hd (retireWrite_abort _ hk ha),
    fun hd hk => ?_, fun hc hd hv => ?_, fun hd => ?_⟩
  · have hsame := hretire hd (retireWrite_unkeyed _ hk)
    exact ⟨hsame, hsame, hsame⟩
  · exact cmdRun_eq (f := fun s => if c < 4 then writeReg (Base.dmc + 0x128 + 0x40 * c) r noOutside s else s)
      ((if_pos hc).trans ((write_maxAge w c r noOutside s hc hd).trans (if_pos hv)))
  · have hsel : bits r.val.toNat 4 0 = r.val.toNat % 32 := by simp [bits]
    refine cmdRun_eq ((write_elogSel w r noOutside s hd).trans ?_)
    unfold elogSel
    rw [hsel]
    rfl

end Sys2Proof.Machine
end

section
/-! PROOF. Migration to the spare, the frequency change, and training at boot (07 R199, R200, R206, R209, R210, 17 R541). -/

namespace Sys2Proof.Machine

/-! ### What MIG issues (07 R199, R200) -/

/-- The channels of logical rank `lr`'s own rank and of the spare are on. -/
def MigOn (s : State) (lr : Nat) : Prop := domOn s (20 + (rmtAt s lr).cur / 2) = true ∧ domOn s (20 + spareRank s / 2) = true

/-- MIG may issue for logical rank `lr`: it moves, no frequency change runs, and both channels are on. -/
structure MigFree (s : State) (lr : Nat) : Prop where
  moves : movingLr s = some lr
  unchanging : s.dmc.fspLeft = 0
  on : MigOn s lr

/-- The pass over logical rank `lr` has lines left to read. -/
def migMore (s : State) (lr : Nat) : Bool := decide ((rmtAt s lr).st = 2 ∧ s.dmc.cp < dmDl (dramB s)) && !s.dmc.passEnd

theorem migMore_iff (s : State) (lr : Nat) :
    migMore s lr = true ↔ (rmtAt s lr).st = 2 ∧ s.dmc.passEnd = false ∧ s.dmc.cp < dmDl (dramB s) := by
  unfold migMore
  simp only [Bool.and_eq_true, decide_eq_true_eq, Bool.not_eq_true']
  tauto

/-- What MIG issues with nothing read that waits to be written: the oldest mirror write or the next read. -/
def migNext (s : State) (lr : Nat) (ahead : Bool) : State :=
  match s.dmc.mirror with
  | (d, data, poison) :: rest =>
    if ahead && migMore s lr then migGet s lr
    else migPut { s with dmc := { s.dmc with mirror := rest } } d data (if poison then [0] else [])
  | [] => if migMore s lr then migGet s lr else s

/-- MIG's write is one transfer of its own: a write of CLASS 3 to the spare. -/
theorem migPut_xfer (s : State) (d : Nat) (data : Bytes) (bad : List Nat) :
    ∃ x q, (migPut s d data bad).fab = { s.fab with xfers := s.fab.xfers ++ [x] } ∧ x.src = 10 ∧ x.job = .migWrite d ∧ x.todo = [q] ∧
      q.req.kind = .write ∧ q.req.cls = 3 ∧ q.req.data = data ∧ q.tgt = some (.rank (spareRank s) d) ∧ q.bad = bad :=
  ⟨_, _, rfl, rfl, rfl, rfl, rfl, rfl, rfl, rfl, rfl⟩

/-- MIG's read is one transfer of its own, of the lines from CP on, and changes nothing else. -/
theorem migGet_xfer (s : State) (lr : Nat) :
    ∃ x, migGet s lr = { s with fab := { s.fab with xfers := s.fab.xfers ++ [x] } } ∧ x.src = 10 ∧ x.job = .migRead s.dmc.cp :=
  ⟨_, rfl, rfl, rfl⟩

section
variable {s : State} {lr : Nat} (ahead : Bool)

theorem migCopy_unmoved (h : movingLr s = none) : migCopy s ahead = s := by
  unfold migCopy
  rw [h]

theorem migCopy_changing (h : s.dmc.fspLeft ≠ 0) : migCopy s ahead = s := by
  unfold migCopy
  split
  next => rfl
  next => exact if_pos (by simp [fspChanging, h])

theorem migCopy_off (hm : movingLr s = some lr) (hoff : ¬ MigOn s lr) : migCopy s ahead = s := by
  have hbar : (fspChanging s || !domOn s (20 + (rmtAt s lr).cur / 2) || !domOn s (20 + spareRank s / 2)) = true := by
    unfold MigOn at hoff
    rw [← Bool.and_eq_true, Bool.not_eq_true] at hoff
    rw [Bool.or_assoc, ← Bool.not_and, hoff, Bool.not_false, Bool.or_true]
  unfold migCopy
  rw [hm]
  exact if_pos hbar

theorem MigFree.not_barred (h : MigFree s lr) :
    ¬ (fspChanging s || !domOn s (20 + (rmtAt s lr).cur / 2) || !domOn s (20 + spareRank s / 2)) = true := by
  obtain ⟨-, hfsp, hhome, hspare⟩ := h
  simp [fspChanging, hfsp, hhome, hspare]

/-- What has been read goes first. -/
theorem migCopy_data (h : MigFree s lr) {d : Nat} {data : Bytes} {bad : List Nat} (hd : s.dmc.migData = some (d, data, bad)) :
    migCopy s ahead = migPut { s with dmc := { s.dmc with migData := none } } d data bad := by
  unfold migCopy
  rw [h.moves]
  refine (if_neg h.not_barred).trans ?_
  rw [hd]

theorem migCopy_next (h : MigFree s lr) (hd : s.dmc.migData = none) (hr : migReads s = false) : migCopy s ahead = migNext s lr ahead := by
  unfold migCopy
  rw [h.moves]
  refine (if_neg h.not_barred).trans ?_
  rw [hd]
  exact if_neg (by simp [hr])

theorem migNext_mirror {d : Nat} {data : Bytes} {poison : Bool} {rest : List (Nat × Bytes × Bool)}
    (hw : s.dmc.mirror = (d, data, poison) :: rest) (hgo : ahead = false ∨ ¬ migMore s lr = true) :
    migNext s lr ahead = migPut { s with dmc := { s.dmc with mirror := rest } } d data (if poison then [0] else []) := by
  unfold migNext
  rw [hw]
  refine if_neg ?_
  rw [Bool.and_eq_true]
  rintro ⟨hahead, hmore⟩
  rcases hgo with hgo | hgo
  · simp [hgo] at hahead
  · exact hgo hmore

theorem migNext_read (hgo : s.dmc.mirror = [] ∨ ahead = true) (hmore : migMore s lr = true) : migNext s lr ahead = migGet s lr := by
  unfold migNext
  split
  next hw =>
    rcases hgo with hgo | hgo
    · simp [hgo] at hw
    · exact if_pos (by rw [hgo, hmore, Bool.and_self])
  next => exact if_pos hmore

end

/-- The time before a command leaves both channels on or off as they are. -/
theorem advance_migOn (w : When) (s : State) (lr : Nat) : MigOn (advance w s) lr ↔ MigOn s lr := by
  unfold MigOn
  rw [advance_domOn, advance_domOn]
  exact Iff.rfl

/-! ### Changes of the ranks' records alone -/

/-- `b` is `s` but for the records of the physical ranks. -/
def RanksAlone (s b : State) : Prop := ∃ r, b = { s with dmc := { s.dmc with ranks := r } }

theorem RanksAlone.refl (s : State) : RanksAlone s s := ⟨s.dmc.ranks, rfl⟩

theorem RanksAlone.trans {s t b : State} (h : RanksAlone s t) (h' : RanksAlone t b) : RanksAlone s b := by
  obtain ⟨r, rfl⟩ := h
  obtain ⟨r', rfl⟩ := h'
  exact ⟨r', rfl⟩

theorem modRank_ranksAlone (s : State) (p : Nat) (f : PRank → PRank) : RanksAlone s (modRank s p f) := ⟨_, rfl⟩

theorem enterFsp_ranksAlone (s : State) (f p : Nat) : RanksAlone s (enterFsp s f p) := modRank_ranksAlone s p _

theorem RanksAlone.foldl {α : Type} {f : State → α → State} (hf : ∀ x a, RanksAlone x (f x a)) (l : List α) (s : State) :
    RanksAlone s (l.foldl f s) :=
  foldl_keep (RanksAlone s) f (fun x a hx => hx.trans (hf x a)) l (.refl s)

theorem setSr_ranksAlone (s : State) (v : Bool) : RanksAlone s (setSr s v) :=
  .foldl (fun x p => modRank_ranksAlone x p _) _ s

/-! ### The steps of a frequency change (07 R206) -/

/-- The change's own account (its step, its target and the ticks it has left) and memory are the same in `b` as in `s`. -/
structure ChangeKept (s b : State) : Prop where
  step : b.dmc.fspStep = s.dmc.fspStep
  target : b.dmc.fspTarget = s.dmc.fspTarget
  left : b.dmc.fspLeft = s.dmc.fspLeft
  mem : b.mem = s.mem

theorem ChangeKept.refl (s : State) : ChangeKept s s := ⟨rfl, rfl, rfl, rfl⟩

theorem ChangeKept.trans {s t b : State} (h : ChangeKept s t) (h' : ChangeKept t b) : ChangeKept s b :=
  ⟨h'.step.trans h.step, h'.target.trans h.target, h'.left.trans h.left, h'.mem.trans h.mem⟩

theorem ChangeKept.foldl {α : Type} {f : State → α → State} (hf : ∀ x a, ChangeKept x (f x a)) (l : List α) (s : State) :
    ChangeKept s (l.foldl f s) :=
  foldl_keep (ChangeKept s) f (fun x a hx => hx.trans (hf x a)) l (.refl s)

theorem RanksAlone.changeKept {s b : State} (h : RanksAlone s b) : ChangeKept s b := by
  obtain ⟨r, rfl⟩ := h
  exact ⟨rfl, rfl, rfl, rfl⟩

theorem modRmt_changeKept (s : State) (lr : Nat) (f : RankMap → RankMap) : ChangeKept s (modRmt s lr f) := ⟨rfl, rfl, rfl, rfl⟩

theorem refreshEffect_changeKept (s : State) (c r bk : Nat) : ChangeKept s (refreshEffect s c r bk) := ⟨rfl, rfl, rfl, rfl⟩

theorem condemnRank_changeKept (s : State) (p : Nat) : ChangeKept s (condemnRank s p) := by
  have hmod := (modRank_ranksAlone s p fun r => { r with bad := true }).changeKept
  unfold condemnRank
  split
  next => exact .refl s
  dsimp only
  split_ifs
  · exact ⟨rfl, rfl, rfl, rfl⟩
  · exact ⟨rfl, rfl, rfl, rfl⟩
  · split
    · exact ⟨rfl, rfl, rfl, rfl⟩
    · exact hmod
  · refine hmod.trans (.foldl (fun x lr => ?_) _ _)
    split_ifs
    · exact modRmt_changeKept x lr _
    · exact .refl x

/-- The effects of steps 1, 2, 4, 5 and 6 move neither the account of the change nor memory; the other numbers have none. -/
theorem fspStepEffect_changeKept (s : State) (n bad : Nat) : ChangeKept s (fspStepEffect s n bad) := by
  unfold fspStepEffect
  split
  · have hclosed : ChangeKept s { s with dmc := { s.dmc with ch := s.dmc.ch.map closeBanks } } := ⟨rfl, rfl, rfl, rfl⟩
    have hentered := RanksAlone.foldl (fun x p => enterFsp_ranksAlone x x.dmc.fspTarget p) (liveRanks s)
      { s with dmc := { s.dmc with ch := s.dmc.ch.map closeBanks } }
    exact hclosed.trans (hentered.trans (setSr_ranksAlone _ true)).changeKept
  · exact ⟨rfl, rfl, rfl, rfl⟩
  · exact (setSr_ranksAlone s false).changeKept
  · refine .foldl (fun x p => ?_) _ s
    have hretrain : ChangeKept x { x with dmc := { x.dmc with retrain := x.dmc.retrain ||| 2 ^ p } } := ⟨rfl, rfl, rfl, rfl⟩
    exact hretrain.trans (condemnRank_changeKept _ p)
  · have hrefreshed := ChangeKept.foldl (fun x p => refreshEffect_changeKept x (p / 2) (p % 2) 16) (liveRanks s)
      { s with dmc := { s.dmc with ch := s.dmc.ch.map fun c => { c with fixedH := [], allH := [] } } }
    exact ⟨hrefreshed.step, hrefreshed.target, hrefreshed.left, hrefreshed.mem⟩
  · exact .refl s

section
variable {s : State} (bad : Byte)

theorem fspStepDone_idle (h : s.dmc.fspStep = 0) : fspStepDone s bad = s := if_pos h

theorem fspStepDone_running {n : Nat} (hn : n ≠ 0) (h : s.dmc.fspStep = n) :
    fspStepDone s bad = { fspStepEffect s n bad.toNat with
      dmc := { (fspStepEffect s n bad.toNat).dmc with fspStep := if n = 6 then 0 else n + 1 } } := by
  subst h
  exact if_neg hn

/-- The second step selects the bank of the target's timing. -/
theorem fspStepDone_second (h : s.dmc.fspStep = 2) :
    fspStepDone s bad = { s with dmc := { s.dmc with bank := s.dmc.fspTarget, fspStep := 3 } } :=
  fspStepDone_running bad (by decide) h

/-- The third step only passes. -/
theorem fspStepDone_third (h : s.dmc.fspStep = 3) : fspStepDone s bad = { s with dmc := { s.dmc with fspStep := 4 } } :=
  fspStepDone_running bad (by decide) h

/-- 07 R206: the steps follow one another, and the sixth is the last. -/
theorem fspStepDone_next {n : Nat} (h1 : 1 ≤ n) (h6 : n ≤ 6) (h : s.dmc.fspStep = n) :
    (fspStepDone s bad).dmc.fspStep = (n + 1) % 7 ∧ (fspStepDone s bad).dmc.fspTarget = s.dmc.fspTarget ∧
      (fspStepDone s bad).dmc.fspLeft = s.dmc.fspLeft ∧ (fspStepDone s bad).mem = s.mem := by
  have hkept := fspStepEffect_changeKept s n bad.toNat
  have hnext : (if n = 6 then 0 else n + 1) = (n + 1) % 7 := by split_ifs <;> omega
  rw [fspStepDone_running bad (by omega) h]
  exact ⟨hnext, hkept.target, hkept.left, hkept.mem⟩

end

/-! ### The end of the change (07 R206, R208) -/

theorem fspFinish_idle {s : State} (h : s.dmc.fspStep = 0) (k : Nat) : fspFinish s k = s := by
  cases k with
  | zero => rfl
  | succ k => exact if_pos h

/-- With its steps done and no change waiting, the change leaves its set point in force. -/
theorem fspEndEarly_last {s : State} (hstep : s.dmc.fspStep = 0) (hnext : s.dmc.fspNext = none) :
    fspEndEarly s =
      { s with dmc := { s.dmc with fspLeft := 0, bank := s.dmc.fspTarget }, tsq := { s.tsq with fsp := s.dmc.fspTarget } } := by
  have hend : fspEnd s =
      { s with dmc := { s.dmc with fspLeft := 0, bank := s.dmc.fspTarget }, tsq := { s.tsq with fsp := s.dmc.fspTarget } } := by
    unfold fspEnd
    rw [fspFinish_idle hstep]
    dsimp only
    rw [hnext]
  unfold fspEndEarly
  rw [hend]
  exact if_pos rfl

/-! ### Training at boot (07 R209, R210, 17 R541) -/

/-- What a training in which no rank failed leaves: DRAM ready and empty, no failure kept, and set point 0 in force. -/
structure TrainedWell (s b : State) : Prop where
  ready : b.dmc.ready = true
  trainFail : b.dmc.trainFail = false
  bootBad : b.dmc.bootBad = 0
  mem : b.mem = { s.mem with dram := [] }
  fsp : b.tsq.fsp = 0

theorem TrainedWell.ranksAlone {s t b : State} (h : TrainedWell s t) (hb : RanksAlone t b) : TrainedWell s b := by
  obtain ⟨r, rfl⟩ := hb
  exact ⟨h.ready, h.trainFail, h.bootBad, h.mem, h.fsp⟩

theorem TrainedWell.trainLr {s t : State} (h : TrainedWell s t) (l : List Nat) :
    TrainedWell s { t with dmc := { t.dmc with trainLr := l } } := ⟨h.ready, h.trainFail, h.bootBad, h.mem, h.fsp⟩

theorem TrainedWell.applyNext {s t : State} (h : TrainedWell s t) :
    TrainedWell s { t with tsq := { t.tsq with applyNext := true } } := ⟨h.ready, h.trainFail, h.bootBad, h.mem, h.fsp⟩

theorem trainDone_trainedWell (s : State) (rfm : List (Nat × Nat)) : TrainedWell s (trainDone s 0 rfm) := by
  have hfailed : (idxWhere 8 fun p => populated s p && bitAt (0 : Byte).toNat p) = [] := by
    simp [idxWhere, bitAt]
  have hentered (l : List Nat) (x : State) : RanksAlone x (l.foldl (fun s p => enterFsp (enterFsp s 1 p) 0 p) x) :=
    .foldl (fun y p => (enterFsp_ranksAlone y 1 p).trans (enterFsp_ranksAlone _ 0 p)) l x
  have hretired (x : State) : RanksAlone x ((List.range 8).foldl (fun s p =>
      if retired s p then modRank s p fun r => { r with sr := true } else s) x) := by
    refine .foldl (fun y p => ?_) _ x
    split_ifs
    · exact modRank_ranksAlone y p _
    · exact .refl y
  unfold trainDone
  dsimp only
  rw [hfailed]
  refine .ranksAlone (.trainLr (.ranksAlone ?_ (hentered _ _)) _) (hretired _)
  exact ⟨rfl, rfl, rfl, rfl, rfl⟩

theorem bootTrained_barred {s : State} (bad : Byte) (rfm : List (Nat × Nat)) (h : s.fld.st ≠ 5 ∨ s.tsq.run = true) :
    bootTrained s bad rfm = s := by
  refine if_neg fun hx => ?_
  obtain ⟨hst, hrun, -⟩ := hx
  rcases h with h | h
  · exact h hst
  · simp [h] at hrun

/-- Training that goes well makes the next boundary the apply point. -/
theorem bootTrained_well {s : State} (rfm : List (Nat × Nat)) (hst : s.fld.st = 5) (hrun : s.tsq.run = false)
    (happly : s.tsq.applyNext = false) (hback : s.boot.fallback = false) (hdram : (dramDoms s).isEmpty = false) :
    (bootTrained s 0 rfm).tsq.applyNext = true ∧ TrainedWell s (bootTrained s 0 rfm) := by
  have hwell := trainDone_trainedWell s rfm
  have heq : bootTrained s 0 rfm = { trainDone s 0 rfm with tsq := { (trainDone s 0 rfm).tsq with applyNext := true } } := by
    refine (if_pos (by simp [hst, hrun, happly, hback, hdram])).trans ?_
    exact if_pos (by rw [hwell.trainFail, Bool.not_false])
  rw [heq]
  exact ⟨rfl, hwell.applyNext⟩

/-! ### The statement -/

theorem exec_migCopy {w : When} {ahead : Bool} {s b : State} (h : migCopy (advance w s) ahead = b) :
    exec (.migCopy w ahead) s = .next (endCmd s b) :=
  cmdRun_eq (f := fun s => migCopy s ahead) h

theorem exec_freqStepDone {w : When} {bad : Byte} {s b : State} (h : fspStepDone (advance w s) bad = b) :
    exec (.freqStepDone w bad) s = .next (endCmd s b) :=
  cmdRun_eq (f := fun s => fspStepDone s bad) h

/-- The change ends with its last tick, at the end of that tick. -/
theorem exec_freqChangeEnd_last {w : When} {s b : State} (hleft : s.dmc.fspLeft = 1) (hlen : s.clk.len ≤ (advance w s).clk.cyc)
    (h : fspEndEarly (advance w s) = b) : exec (.freqChangeEnd w) s = .next (endCmd s b) :=
  cmdRun_eq (f := fun s => if s.dmc.fspLeft = 1 ∧ s.clk.len ≤ s.clk.cyc then fspEndEarly s else s) ((if_pos ⟨hleft, hlen⟩).trans h)

theorem exec_freqChangeEnd_early {w : When} {s : State} (h : s.dmc.fspLeft ≠ 1 ∨ (advance w s).clk.cyc < s.clk.len) :
    exec (.freqChangeEnd w) s = .next (endCmd s (advance w s)) := by
  refine cmdRun_eq (f := fun s => if s.dmc.fspLeft = 1 ∧ s.clk.len ≤ s.clk.cyc then fspEndEarly s else s) (if_neg ?_)
  rintro ⟨hleft, hlen⟩
  exact h.elim (fun hne => hne hleft) (Nat.not_lt.mpr hlen)

theorem exec_bootTrainingDone {w : When} {bad : Byte} {rfm : List (Nat × Nat)} {s b : State} (h : bootTrained (advance w s) bad rfm = b) :
    exec (.bootTrainingDone w bad rfm) s = .next (endCmd s b) :=
  cmdRun_eq (f := fun s => bootTrained s bad rfm) h

/-- Settles O37: what MIG issues by the `migCopy_` and `migNext_` lemmas, the steps of a frequency change by the `fspStepDone_` lemmas, its end
by `fspEndEarly_last`, and training by `bootTrained_well`. -/
theorem migrationAndFrequency : Obligations.MigrationAndFrequency := by
  unfold Obligations.MigrationAndFrequency
  refine ⟨fun w ahead s => ?_, fun w bad rfm s => ?_⟩
  · have hfree {lr : Nat} (hm : movingLr s = some lr) (hfsp : s.dmc.fspLeft = 0) (hon : MigOn s lr) : MigFree (advance w s) lr :=
      ⟨hm, hfsp, (advance_migOn w s lr).mpr hon⟩
    refine ⟨fun h => exec_migCopy ?_, fun lr hm hoff => exec_migCopy ?_, fun lr d data bad hm hfsp hon hd => ?_,
      fun lr d data poison rest hm hfsp hon hd hr hw hgo => ?_, fun lr hm hfsp hon hd hr hgo hmore => ?_⟩
    · exact h.elim (migCopy_unmoved ahead (s := advance w s)) (migCopy_changing ahead (s := advance w s))
    · exact migCopy_off ahead (s := advance w s) hm (mt (advance_migOn w s lr).mp hoff)
    · exact ⟨_, exec_migCopy (migCopy_data ahead (hfree hm hfsp hon) hd), rfl, migPut_xfer _ d data bad⟩
    · have hnext := migCopy_next ahead (hfree hm hfsp hon) hd hr
      have hwrite := migNext_mirror ahead (s := advance w s) hw (hgo.imp_right (mt (migMore_iff s lr).mp))
      exact ⟨_, exec_migCopy (hnext.trans hwrite), rfl, migPut_xfer _ d data _⟩
    · have hnext := migCopy_next ahead (hfree hm hfsp hon) hd hr
      have hread := migNext_read ahead (s := advance w s) hgo ((migMore_iff s lr).mpr hmore)
      obtain ⟨x, hget, hsrc, hjob⟩ := migGet_xfer (advance w s) lr
      exact ⟨_, x, exec_migCopy ((hnext.trans hread).trans hget), rfl, hsrc, hjob⟩
  · refine ⟨fun h => exec_freqStepDone (fspStepDone_idle bad h), fun h => exec_freqStepDone (fspStepDone_second bad (s := advance w s) h),
      fun h => exec_freqStepDone (fspStepDone_third bad (s := advance w s) h),
      fun n h1 h6 h => ⟨_, exec_freqStepDone rfl, fspStepDone_next bad h1 h6 h⟩, exec_freqChangeEnd_early,
      fun hleft hlen hst hnext => exec_freqChangeEnd_last hleft hlen (fspEndEarly_last (s := advance w s) hst hnext),
      fun h => exec_bootTrainingDone (bootTrained_barred bad rfm h), fun hst hrun happly hback hdram hbad => ?_⟩
    subst hbad
    obtain ⟨happlied, hready, -, hnobad, hmem, hfsp⟩ := bootTrained_well (s := advance w s) rfm hst hrun happly hback hdram
    exact ⟨_, exec_bootTrainingDone rfl, happlied, hready, hmem, hnobad, hfsp⟩

end Sys2Proof.Machine
end

section
/-! PROOF. FIELD words: their interval of light, and the strobe that is settled before it (08 R218, R221). -/

namespace Sys2Proof.Machine

/-- A FIELD word that may act gives its light, and is complete where its interval ends. -/
theorem fieldAct_some {s : State} {d : Nat} {x : Disp} (h : openUnit s d 4 0 0xD 4 = some x) :
    fieldAct d s = fieldLight (doneDispAt s d (fieldStart x + fieldLen x)) (x.unit - 0xD) x := by
  unfold fieldAct
  rw [h]

section
variable {s : State} {e : Nat} {x : Disp}

/-- NOSTROBE keeps the plane that is shown, but not on the first word after an event of R221; a port that is off strobes nothing. -/
theorem settleField_kept (h : bitAt x.payload 14 = true ∧ (lseAt s e).force = false ∨ domOn s (30 + 3 * e) = false) :
    (settleField s e x).lse = s.lse := by
  have hkept : (bitAt x.payload 14 && !(lseAt s e).force || !domOn s (30 + 3 * e)) = true := by
    rcases h with ⟨hno, hforce⟩ | hoff
    · simp [hno, hforce]
    · simp [hoff]
  unfold settleField
  exact (congrArg State.lse (if_pos hkept)).trans rfl

/-- Any other word's flip is noted, and the word after it may keep its plane again. -/
theorem settleField_strobes (h : bitAt x.payload 14 = false ∨ (lseAt s e).force = true) (hon : domOn s (30 + 3 * e) = true) :
    ∃ plane, (settleField s e x).lse = { s.lse with
      flips := s.lse.flips ++ [(e, plane, fieldFlip s e x)], eng := lmod s.lse.eng e fun y => { y with force := false } } := by
  have hstrobe : ¬ (bitAt x.payload 14 && !(lseAt s e).force || !domOn s (30 + 3 * e)) = true := by
    rcases h with hyes | hforce
    · simp [hyes, hon]
    · simp [hforce, hon]
  unfold settleField
  exact ⟨_, (congrArg State.lse (if_neg hstrobe)).trans rfl⟩

end

theorem exec_field {w : When} {d : Nat} {s b : State} (h : fieldAct d (scanNow (advance w s)) = b) :
    exec (.field w d) s = .next (endCmd s b) :=
  cmdRun_eq (f := fun s => fieldAct d (scanNow s)) h

/-- Settles O38: the word acts by `fieldAct_some`, whose light is `fieldLight`; its strobe is settled as `settleField_kept` and
`settleField_strobes` say. -/
theorem fieldWord : Obligations.FieldWord := by
  unfold Obligations.FieldWord
  refine ⟨fun w d s x hopen => ⟨_, exec_field (fieldAct_some hopen)⟩, fun s e x => ⟨settleField_kept, fun hyes hon => ?_⟩⟩
  obtain ⟨plane, hlse⟩ := settleField_strobes hyes hon
  refine ⟨plane, congrArg Lse.flips hlse, fun hlen => ?_⟩
  unfold lseAt
  rw [hlse]
  exact congrArg LseEng.force (lget_lmod_same _ _ _ _ hlen)

end Sys2Proof.Machine
end

section
/-! PROOF. The windows that RASTER and VECTOR words open, and the end of a path element (08 R226, R228, R230). -/

namespace Sys2Proof.Machine

/-! ### Windows (08 R226, R230) -/

/-- The window that a word opens where none was open before it. The first sweep of a VECTOR word is a forward one. -/
def wordWin (s : State) (e op : Nat) (x : Disp) : LWin :=
  let next := sweepFrom (lseAt s e) (256 * x.slot)
  { word := x.word, op := op, field := bits x.payload 59 56, slot := x.slot, finish := x.finish
    next := if op = 2 then - Int.fdiv (- next) 2 * 2 else next }

section
variable {s : State} {e : Nat}

/-- Without an open window no sweep starts. -/
theorem lightRun_closed (upTo fuel ends : Nat) (h : (lseAt s e).win = none) : lightRun e upTo fuel ends s = s := by
  cases fuel with
  | zero => rfl
  | succ fuel =>
    unfold lightRun
    dsimp only
    rw [h]

/-- The buffer of an engine whose path does not run is not refilled. -/
theorem refill_idle (word : Nat) (h : ((lseAt s e).path && !(lseAt s e).stopped) = false) : refill s e word = s :=
  if_neg (by simpa using h)

/-- Outside a calibration run that takes the engine, and with no window open before it, a word's window is its own. -/
theorem openWin_first {op : Nat} (x : Disp) (hcal : pcEng s e = false)
    (hpath : op = 2 → ((lseAt s e).path && !(lseAt s e).stopped) = false) (hwin : (lseAt s e).win = none) :
    openWin s e op x = modLse s e fun y => { y with win := some (wordWin s e op x) } := by
  have hfill : (if op = 2 then refill s e x.word else s) = s := by
    split_ifs with hop
    · exact refill_idle x.word (hpath hop)
    · rfl
  unfold openWin wordWin
  dsimp only
  rw [lightRun_closed _ _ _ hwin, hfill, hcal]
  refine (if_neg (by decide)).trans ?_
  split_ifs <;> rfl

end

/-! ### The end of a path element (08 R228) -/

/-- When what follows the running element is passed: at the next forward sweep of the open window, or now. -/
def elementEndAt (s : State) (e : Nat) : Nat :=
  match (lseAt s e).win with
  | some k => (cycOf (Int.fdiv (sweepStart (lseAt s e) (- Int.fdiv (- k.next) 2 * 2)) 4)).toNat
  | none => s.clk.cyc

section
variable {s : State} {e : Nat}

theorem elementEnd_idle (h : (lseAt s e).run = none) : elementEnd s e = s := by
  unfold elementEnd
  dsimp only
  rw [h]

variable {n : Nat} {b : Bytes} (hrun : (lseAt s e).run = some n) (hbuf : bufEl (lseAt s e) (lseAt s e).ptr = some b)
include hrun hbuf

/-- An element that has periods left to count goes on. -/
theorem elementEnd_counting (h : n < elNper b) : elementEnd s e = s := by
  unfold elementEnd
  dsimp only
  rw [hrun, hbuf]
  exact if_neg (Nat.not_le.mpr h)

/-- One that has counted its periods ends, and the path passes on behind it. -/
theorem elementEnd_over (h : elNper b ≤ n) :
    elementEnd s e = pathPass (min (elementEndAt s e) (nSlot s * 256)) e 2049
      (modLse s e fun y => { y with run := none, ptr := (lseAt s e).ptr + 1 }) := by
  have hptr : modLse s e (fun y => { y with run := none, ptr := y.ptr + 1 }) =
      modLse s e fun y => { y with run := none, ptr := (lseAt s e).ptr + 1 } :=
    congrArg (fun l => ({ s with lse := { s.lse with eng := l } } : State)) (lmod_congr s.lse.eng e {} rfl)
  unfold elementEnd elementEndAt
  dsimp only
  rw [hrun, hbuf, ← hptr]
  exact if_pos h

end

/-! ### The statement -/

theorem exec_scannerWord {w : When} {d op : Nat} {c : Instr} {s : State} {x : Disp}
    (hc : (op, c) ∈ [(1, Instr.raster w d), (2, .vector w d)]) (hopen : openUnit (scanNow (advance w s)) d 4 op 0xD 4 = some x) :
    exec c s = .next (endCmd s (openWin (doneDisp (scanNow (advance w s)) d) (x.unit - 0xD) op x)) := by
  have hact : cmdRun w (fun s => actDisp d 4 op 0xD 4 (fun s x => openWin s (x.unit - 0xD) op x) (scanNow s)) s =
      .next (endCmd s (openWin (doneDisp (scanNow (advance w s)) d) (x.unit - 0xD) op x)) :=
    cmdRun_eq (actDisp_some _ hopen)
  simp only [List.mem_cons, Prod.mk.injEq, List.not_mem_nil, or_false] at hc
  rcases hc with ⟨rfl, rfl⟩ | ⟨rfl, rfl⟩
  · exact hact
  · exact hact

theorem exec_pathElementEnd {w : When} {e : Nat} {s b : State}
    (h : (if e < 4 then elementEnd (scanNow (advance w s)) e else scanNow (advance w s)) = b) :
    exec (.pathElementEnd w e) s = .next (endCmd s b) :=
  cmdRun_eq (f := fun s => let s := scanNow s; if e < 4 then elementEnd s e else s) h

/-- Settles O39: a word's window by `exec_scannerWord` and `openWin_first`, the end of an element by the `elementEnd_` lemmas. -/
theorem scannerWindowsAndPaths : Obligations.ScannerWindowsAndPaths := by
  unfold Obligations.ScannerWindowsAndPaths
  refine ⟨fun w d s x op c hc hopen => ⟨exec_scannerWord hc hopen, fun he hcal hpath hwin => ?_⟩, fun w e s =>
    ⟨fun he => exec_pathElementEnd (if_neg (Nat.not_lt.mpr he)),
      fun he hrun => exec_pathElementEnd ((if_pos he).trans (elementEnd_idle hrun)),
      fun n b he hrun hbuf hn => exec_pathElementEnd ((if_pos he).trans (elementEnd_counting hrun hbuf hn)),
      fun n b he hrun hbuf hn => exec_pathElementEnd ((if_pos he).trans (elementEnd_over hrun hbuf hn))⟩⟩
  dsimp only
  rw [openWin_first (s := doneDisp (scanNow (advance w s)) d) x hcal hpath hwin]
  exact ⟨_, congrArg LseEng.win (lget_lmod_same _ _ _ _ he), rfl, rfl, rfl, rfl, rfl, rfl, rfl⟩

end Sys2Proof.Machine
end

section
/-! PROOF. The register commands of light, colour and the plane ports (08 R236, 09 R255, 11 R312). -/

namespace Sys2Proof.Machine

/-- A write of PSO_PORTe, in an engine whose Scan-Out domain is fully on. -/
theorem write_psoPort (w : When) (e : Nat) (r : Wr) (o : Outside) (s : State) (he : e < 4) (hd : domOn s (28 + 3 * e) = true) :
    writeReg (Base.pso + 0x11C + 0x40 * e) r o (advance w s) =
      if bitAt r.val.toNat 31 then modPso (advance w s) e fun x => { x with retrain := true } else advance w s := by
  interval_cases e <;>
  · rw [writeReg_plain w _ r o s _ hd (by decide) (by decide) (by decide) (by decide) rfl rfl rfl rfl]
    rfl

theorem exec_retrain {w : When} {e : Nat} {r : Wr} {s b : State} (he : e < 4)
    (h : writeReg (Base.pso + 0x11C + 0x40 * e) r noOutside (advance w s) = b) : exec (.retrain w e r) s = .next (endCmd s b) :=
  cmdRun_eq (f := fun s => if e < 4 then writeReg (Base.pso + 0x11C + 0x40 * e) r noOutside s else s) ((if_pos he).trans h)

/-- Settles O42: each write is its register's own (`write_lseCtl`, `write_psoPort`, `write_frSel`, `write_colSel`). -/
theorem lightRegisterCommands : Obligations.LightRegisterCommands := by
  unfold Obligations.LightRegisterCommands
  refine fun w e r s => ⟨fun hd hclr hsnap => ?_, fun he hd => exec_retrain he (write_psoPort w e r noOutside s he hd),
    fun hd => cmdRun_eq (write_frSel w r noOutside s hd), fun hd => cmdRun_eq (write_colSel w r noOutside s hd)⟩
  refine cmdRun_eq ((write_lseCtl w r noOutside s hd).trans ?_)
  rw [hclr, hsnap]
  rfl

end Sys2Proof.Machine
end

section
/-! PROOF. FETCH words, and the reads that the fetch units issue (09 R245 to R247). -/

namespace Sys2Proof.Machine

/-! ### FETCH words (09 R245, R246) -/

section
variable {s : State} {d op : Nat} {x : Disp} (hopen : openUnit s d 2 op 5 4 = some x)
include hopen

/-- An elastic FETCH word lets its engine's reads run. -/
theorem fetchAct_elastic (h : fetchFixed x.payload = false) :
    fetchAct d op s = doneDisp (modPso s (x.unit - 5) fun y => { y with go := true }) d := by
  unfold fetchAct
  rw [hopen]
  exact if_neg (by simp [h])

/-- A fixed one takes the lines of its window, and is complete once BLOCKS lines have come. -/
theorem fetchAct_fixed (h : fetchFixed x.payload = true) :
    fetchAct d op s =
      let e := x.unit - 5
      let z := fixedLines (takeLines s e (tickStart s + 256 * x.slot) (min (tickStart s + 256 * x.finish) (s.clk.mclk + 1)) 256) e 4096
      if fetchBlocks x.payload ≤ (psoAt z e).taken then doneDisp (modPso z e fun y => { y with taken := 0, tag := 0 }) d else z := by
  unfold fetchAct
  rw [hopen]
  exact if_pos h

end

theorem exec_fetchWord {w : When} {d op : Nat} {c : Instr} {s b : State}
    (hc : (op, c) ∈ [(0, Instr.fetchArray w d), (1, .fetchLines w d)]) (h : fetchAct d op (scanNow (advance w s)) = b) :
    exec c s = .next (endCmd s b) := by
  have hact : cmdRun w (fun s => fetchAct d op (scanNow s)) s = .next (endCmd s b) := cmdRun_eq h
  simp only [List.mem_cons, Prod.mk.injEq, List.not_mem_nil, or_false] at hc
  rcases hc with ⟨rfl, rfl⟩ | ⟨rfl, rfl⟩
  · exact hact
  · exact hact

/-! ### Elastic reads (09 R247) -/

/-- The requests that a transfer is cut into have its kind and CLASS. -/
theorem cutReqs_kind_cls (src : Nat) (kind : ReqKind) (cls fuel fa n : Nat) (data : Bytes) :
    ∀ q ∈ cutReqs src kind cls fuel fa n data, q.req.kind = kind ∧ q.req.cls = cls := by
  induction fuel generalizing fa n data with
  | zero => exact List.forall_mem_nil _
  | succ fuel ih =>
    unfold cutReqs
    split_ifs
    · exact List.forall_mem_nil _
    · exact List.forall_mem_cons.mpr ⟨⟨rfl, rfl⟩, ih _ _ _⟩

section
variable {s : State} {e : Nat}

theorem fetchRead_idle (h : (psoAt (fetchLevels s) e).cls = 0 ∨ fetchBusy (fetchLevels s) e = true ∨ domOn (fetchLevels s) (28 + 3 * e) = false) :
    fetchRead s e = fetchLevels s := by
  unfold fetchRead
  exact if_pos (by simpa using h)

variable {x : Extent} {pts : List (Nat × Nat)} {base len : Nat} (hcls : (psoAt (fetchLevels s) e).cls ≠ 0)
  (hbusy : fetchBusy (fetchLevels s) e = false) (hon : domOn (fetchLevels s) (28 + 3 * e) = true)
  (hpiece : nextPiece (fetchLevels s) e = some (x, pts)) (hplace : surfPlace (fetchLevels s) e = some (base, len))
include hcls hbusy hon hpiece hplace

/-- With demand, and nothing under way, the next piece is read if the buffer has room for it, beginning with its surface's descriptor. -/
theorem fetchRead_piece :
    fetchRead s e = if 32768 < fill (psoAt (fetchLevels s) e) + pts.length then fetchLevels s
      else fetchAsk (fetchLevels s) e (psoAt (fetchLevels s) e).next 0 [(base, 64)] [] [] := by
  unfold fetchRead
  dsimp only
  rw [if_neg (by simp [hcls, hbusy, hon]), hpiece, hplace]

end

theorem exec_fetchElasticRead {w : When} {e : Nat} {s b : State}
    (h : (if e < 4 then fetchRead (scanNow (advance w s)) e else scanNow (advance w s)) = b) :
    exec (.fetchElasticRead w e) s = .next (endCmd s b) :=
  cmdRun_eq (f := fun s => let s := scanNow s; if e < 4 then fetchRead s e else s) h

/-- Settles O40: a FETCH word by `fetchAct_elastic` and `fetchAct_fixed`, a read by `fetchRead_idle` and `fetchRead_piece`; `cutReqs_kind_cls`
gives the read its CLASS. -/
theorem fetchReads : Obligations.FetchReads := by
  unfold Obligations.FetchReads
  refine ⟨fun w d s x op c hc hopen => ⟨fun h => exec_fetchWord hc (fetchAct_elastic hopen h),
      fun h => exec_fetchWord hc (fetchAct_fixed hopen h)⟩, fun w e s =>
    ⟨fun he => exec_fetchElasticRead (if_neg (Nat.not_lt.mpr he)),
      fun he hidle => exec_fetchElasticRead ((if_pos he).trans (fetchRead_idle hidle)),
      fun x pts base len he hcls hbusy hon hpiece hplace => ?_⟩⟩
  have hread := exec_fetchElasticRead (w := w) ((if_pos he).trans (fetchRead_piece hcls hbusy hon hpiece hplace))
  dsimp only
  rw [hread]
  refine ⟨fun hfull => by rw [if_pos hfull], fun hroom => ⟨_, by rw [if_neg (Nat.not_lt.mpr hroom)]; rfl, rfl, rfl, fun q hq => ?_⟩⟩
  obtain ⟨r, -, hq⟩ := List.mem_flatMap.mp hq
  exact cutReqs_kind_cls _ _ _ _ _ _ _ q hq

end Sys2Proof.Machine
end

section
/-! PROOF. PUSH and COMMIT words, and the commit in its window or late (09 R252, R253, R257). -/

namespace Sys2Proof.Machine

/-! ### The ports of a group (09 R257) -/

theorem lmod_length {α : Type} (l : List α) (i : Nat) (f : α → α) : (lmod l i f).length = l.length := by
  simpa using congrArg List.length (lmod_map l i f (fun _ => ()) fun _ => rfl)

theorem psoAt_modPso (s : State) (e m : Nat) (f : PsoEng → PsoEng) :
    psoAt (modPso s e f) m = if e = m ∧ m < s.pso.eng.length then f (psoAt s m) else psoAt s m :=
  lget_lmod s.pso.eng e m f {}

/-- One update of each of some ports reaches these ports once. -/
theorem psoAt_foldl_modPso {l : List Nat} (hl : l.Nodup) (f : PsoEng → PsoEng) (s : State) {m : Nat} (hm : m < s.pso.eng.length) :
    psoAt (l.foldl (fun s n => modPso s n f) s) m = if l.contains m = true then f (psoAt s m) else psoAt s m := by
  induction l generalizing s with
  | nil => rfl
  | cons n l ih =>
    obtain ⟨hn, hl⟩ := List.nodup_cons.mp hl
    rw [List.foldl_cons, ih hl _ (hm.trans_eq (lmod_length _ _ _).symm), psoAt_modPso]
    by_cases hnm : n = m
    · subst hnm
      simp [hn, hm]
    · simp [hnm, Ne.symm hnm]

/-- An update of some ports changes no other block. -/
theorem foldl_modPso_eq (l : List Nat) (f : PsoEng → PsoEng) (s : State) :
    l.foldl (fun s n => modPso s n f) s = { s with pso := (l.foldl (fun s n => modPso s n f) s).pso } :=
  foldl_keep (fun b : State => b = { s with pso := b.pso }) _ (fun b n h => by rw [h]; rfl) l rfl

theorem cloneGroup_nodup (s : State) (e : Nat) : (cloneGroup s e).Nodup := List.nodup_range.filter _

theorem mem_cloneGroup_self (s : State) {e : Nat} (he : e < 4) : e ∈ cloneGroup s e := by
  simp [cloneGroup, he]

/-! ### PUSH and COMMIT words (09 R252, R253) -/

theorem exec_push {w : When} {d : Nat} {s : State} {x : Disp} (hopen : openUnit (scanNow (advance w s)) d 3 0 9 4 = some x) :
    exec (.push w d) s = .next (endCmd s (pushOpenWin (doneDisp (scanNow (advance w s)) d) (x.unit - 9) x)) :=
  cmdRun_eq (f := fun s => actDisp d 3 0 9 4 (fun s x => pushOpenWin s (x.unit - 9) x) (scanNow s)) (actDisp_some _ hopen)

theorem exec_commit {w : When} {d : Nat} {s b : State} {x : Disp} (hopen : openUnit (scanNow (advance w s)) d 3 1 9 4 = some x)
    (h : commitOpen (doneDisp (scanNow (advance w s)) d) (x.unit - 9) x = b) : exec (.commit w d) s = .next (endCmd s b) :=
  cmdRun_eq (f := fun s => actDisp d 3 1 9 4 (fun s x => commitOpen s (x.unit - 9) x) (scanNow s)) ((actDisp_some _ hopen).trans h)

/-! ### Late commits (09 R253) -/

/-- A port whose commit window has closed without its commit: a late commit is counted where a restart waits for it. -/
def lateCommit (x : PsoEng) : PsoEng :=
  let x := { x with commitWin := none }
  if x.open_ && !x.commitPend then { x with late := sat32 x.late, lateNow := sat16 x.lateNow } else x

theorem lateCommit_eq (x : PsoEng) :
    lateCommit x = if x.open_ = true ∧ x.commitPend = false then
        { x with commitWin := none, late := sat32 x.late, lateNow := sat16 x.lateNow }
      else { x with commitWin := none } := by
  unfold lateCommit
  simp only [Bool.and_eq_true, Bool.not_eq_true']

section
variable {s : State} {e a b upTo : Nat} (hwin : (psoAt s e).commitWin = some (a, b))
include hwin

theorem commitLate_early (h : upTo < 256 * b) : commitLate s e upTo = s := by
  unfold commitLate
  rw [hwin]
  exact if_neg (Nat.not_le.mpr h)

theorem commitLate_closed (h : 256 * b ≤ upTo) :
    commitLate s e upTo = (cloneGroup s e).foldl (fun s m => modPso s m lateCommit) s := by
  unfold commitLate
  rw [hwin]
  exact if_pos h

end

/-! ### What a packet changes (09 R255, 16 R425) -/

/-- In `b` only the ports, the light and the twin's state may be other than in `s`. -/
def PortsAlone (s b : State) : Prop :=
  ∃ eng l t, eng.length = s.pso.eng.length ∧ b = { s with pso := { s.pso with eng := eng }, lse := l, twn := t }

theorem PortsAlone.refl (s : State) : PortsAlone s s := ⟨_, _, _, rfl, rfl⟩

theorem PortsAlone.trans {s t b : State} (h : PortsAlone s t) (h' : PortsAlone t b) : PortsAlone s b := by
  obtain ⟨eng, _, _, hlen, rfl⟩ := h
  obtain ⟨eng', l, t, hlen', rfl⟩ := h'
  exact ⟨eng', l, t, hlen'.trans hlen, rfl⟩

theorem PortsAlone.foldl {α : Type} {f : State → α → State} (hf : ∀ x a, PortsAlone x (f x a)) (l : List α) (s : State) :
    PortsAlone s (l.foldl f s) :=
  foldl_keep (PortsAlone s) f (fun x a hx => hx.trans (hf x a)) l (.refl s)

/-- Which ports send the same packets rests on the schedule. -/
theorem PortsAlone.cloneGroup {s b : State} (h : PortsAlone s b) (e : Nat) : cloneGroup b e = cloneGroup s e := by
  obtain ⟨_, _, _, -, rfl⟩ := h
  rfl

theorem modPso_portsAlone (s : State) (e : Nat) (f : PsoEng → PsoEng) : PortsAlone s (modPso s e f) :=
  ⟨_, _, _, lmod_length _ _ _, rfl⟩

theorem sendLogged_portsAlone (s : State) (e a : Nat) (p : Nat → Bytes) : PortsAlone s (sendLogged s e a p) :=
  ⟨_, _, _, lmod_length _ _ _, rfl⟩

theorem strobe_portsAlone (s : State) (e t plane : Nat) : PortsAlone s (strobe s e t plane) := ⟨_, _, _, rfl, rfl⟩

theorem settleField_portsAlone (s : State) (e : Nat) (d : Disp) : PortsAlone s (settleField s e d) := by
  have hcount := modPso_portsAlone s e fun x => { x with fields := x.fields + 1 }
  unfold settleField
  dsimp only
  split_ifs
  · exact hcount
  · exact hcount.trans ((sendLogged_portsAlone _ _ _ _).trans (strobe_portsAlone _ _ _ _))

theorem settleDue_portsAlone (e upTo : Nat) (l : List Disp) (s : State) : PortsAlone s (settleDue e upTo l s) := by
  induction l generalizing s with
  | nil => exact .refl s
  | cons d l ih =>
    unfold settleDue
    split_ifs
    · exact (settleField_portsAlone s e d).trans (ih _)
    · exact .refl s

theorem strobesTo_portsAlone (s : State) (e upTo : Nat) : PortsAlone s (strobesTo s e upTo) := settleDue_portsAlone e upTo _ s

theorem groupSend_portsAlone (s : State) (e a : Nat) (p : Nat → Bytes) : PortsAlone s (groupSend s e a p) := by
  refine .foldl (fun x m => ?_) _ s
  split_ifs
  · exact sendLogged_portsAlone x m a p
  · exact .refl x

/-! ### Commits (09 R253) -/

section
variable {s : State} {e c upTo : Nat}

theorem commitSend_none (h : commitAt s e = none) : commitSend s e upTo = s := by
  unfold commitSend
  rw [h]

theorem commitSend_early (h : commitAt s e = some c) (hc : upTo ≤ c) : commitSend s e upTo = s := by
  unfold commitSend
  rw [h]
  exact if_pos hc

/-- A port whose COMMIT packet has been sent. -/
def commitSent (x : PsoEng) : PsoEng := { x with commitPend := true, commitWin := none }

/-- A commit whose cycle has come: its packets, and then the ports of the group wait for their flip. -/
theorem commitSend_due (h : commitAt s e = some c) (hc : c < upTo) :
    ∃ b, PortsAlone s b ∧ commitSend s e upTo = (cloneGroup s e).foldl (fun s m => modPso s m commitSent) b := by
  have hstrobes : PortsAlone s ((cloneGroup s e).foldl (fun s m => strobesTo s m (16 * c)) s) :=
    .foldl (fun x m => strobesTo_portsAlone x m _) _ s
  have hsent (p : Nat → Bytes) : PortsAlone s (groupSend _ e (16 * c) p) := hstrobes.trans (groupSend_portsAlone _ e _ p)
  unfold commitSend
  rw [h]
  dsimp only
  rw [if_neg (Nat.not_le.mpr hc), (hsent _).cloneGroup e]
  exact ⟨_, hsent _, rfl⟩

end

/-! ### The cycle of a commit (09 R253) -/

/-- A packet that must leave strobes their time starts no earlier for it. -/
theorem le_clearOf (l : List Nat) (n a : Nat) : a ≤ clearOf l n a := by
  refine foldl_keep (a ≤ ·) _ (fun x d hx => ?_) _ le_rfl
  split_ifs <;> omega

theorem le_foldl_max {α : Type} (f : α → Nat) {l : List α} {m : α} (h : m ∈ l) (k : Nat) :
    f m ≤ l.foldl (fun k m => max k (f m)) k := by
  induction h generalizing k with
  | head l => exact foldl_keep (f m ≤ ·) _ (fun k n hk => le_max_of_le_left hk) l (le_max_right k (f m))
  | tail n _ ih => exact ih _

/-- A group's wires are free when each of its ports' is. -/
theorem wire_le_groupWire (s : State) {e m : Nat} (h : m ∈ cloneGroup s e) : (psoAt s m).wire ≤ groupWire s e :=
  le_foldl_max (fun m => (psoAt s m).wire) h 0

/-- A commit has a cycle only where a restart is open, all of it sent, and none of its commits waits for a flip; the cycle lies in the window
and behind what is on the wires. -/
theorem commitAt_some {s : State} {e a b c : Nat} (hwin : (psoAt s e).commitWin = some (a, b)) (h : commitAt s e = some c) :
    (psoAt s e).open_ = true ∧ (psoAt s e).commitPend = false ∧ pushDone (psoAt s e) = true ∧ c < 256 * b ∧
      max (4096 * a) (max ((psoAt s e).regEnd + 384) (groupWire s e)) ≤ 16 * c := by
  have hclear := le_clearOf ((cloneGroup s e).flatMap (strobesAhead s)) 20 (max (4096 * a) (max ((psoAt s e).regEnd + 384) (groupWire s e)))
  unfold commitAt groupClear at h
  dsimp only at h
  rw [hwin] at h
  dsimp only at h
  split_ifs at h with hdue
  obtain ⟨-, -, hopen, hpend, hdone, -, hend⟩ := hdue
  obtain rfl := Option.some.inj h
  refine ⟨hopen, by simpa using hpend, hdone, hend, hclear.trans ?_⟩
  omega

/-! ### The statement -/

/-- Settles O41: the words by `exec_push` and `exec_commit`, a late commit by `commitLate_closed`, one that is sent by `commitSend_due`, and its
cycle by `commitAt_some`. -/
theorem pushAndCommit : Obligations.PushAndCommit := by
  unfold Obligations.PushAndCommit
  refine ⟨fun w d s x => ⟨exec_push, fun hopen => ⟨fun hroot => exec_commit hopen (if_pos hroot),
      fun hclone => exec_commit hopen (if_neg hclone)⟩⟩, fun w e s => ⟨rfl, rfl⟩, fun v e upTo =>
    ⟨fun a b hwin => ⟨commitLate_early hwin, fun hclosed => ?_⟩, fun c => commitSend_early, commitSend_none,
      fun c hat hc => ?_, fun c a b he hwin hat => ?_⟩⟩
  · rw [commitLate_closed hwin hclosed]
    refine ⟨foldl_modPso_eq _ _ v, fun m hm => ?_⟩
    rw [psoAt_foldl_modPso (cloneGroup_nodup v e) lateCommit v hm, lateCommit_eq]
  · obtain ⟨b, ⟨eng, l, t, hlen, rfl⟩, hsend⟩ := commitSend_due hat hc
    rw [hsend, foldl_modPso_eq]
    refine ⟨rfl, rfl, rfl, fun m hm hgroup => ?_⟩
    rw [← foldl_modPso_eq, psoAt_foldl_modPso (cloneGroup_nodup v e) commitSent _ (hm.trans_eq hlen.symm), if_pos hgroup]
    exact ⟨rfl, rfl⟩
  · obtain ⟨hopen, hpend, hdone, hend, hstart⟩ := commitAt_some hwin hat
    have hwire := wire_le_groupWire v (mem_cloneGroup_self v he)
    exact ⟨by omega, hend, hdone, hopen, hpend, by omega⟩

end Sys2Proof.Machine
end

section
/-! PROOF. COMPUTE words, the writes of the drive channels, and the samples of the sense channels (10 R270, R272, R274, R275). -/

namespace Sys2Proof.Machine

/-! ### COMPUTE words and drive channels (10 R274, R275) -/

theorem exec_compute {w : When} {d : Nat} {s : State} {x : Disp} (hopen : openUnit (scanNow (advance w s)) d 5 0 0x11 16 = some x) :
    exec (.compute w d) s =
      .next (endCmd s (computeLoop (doneDisp (scanNow (advance w s)) d) (x.unit - 0x11) (bits x.payload 59 56))) :=
  cmdRun_eq (f := fun s => actDisp d 5 0 0x11 16 computeAct (scanNow s)) (actDisp_some _ hopen)

theorem exec_drvWrite {w : When} {d : Nat} {s b : State} (h : drvAct d (advance w s) = b) :
    exec (.drvWrite w d) s = .next (endCmd s b) :=
  cmdRun_eq h

theorem exec_sharedDrvWrite {w : When} {d : Nat} {s b : State} (h : sharedAct d (advance w s) = b) :
    exec (.sharedDrvWrite w d) s = .next (endCmd s b) :=
  cmdRun_eq h

section
variable {s : State} {d : Nat} {x : Disp} (hx : s.tsq.disp[d]? = some x)
include hx

/-- At its FINISH, a COMPUTE word that is complete writes its loop's output. -/
theorem drvAct_finished (hkind : x.kind = 5) (hlo : 0x11 ≤ x.unit) (hhi : x.unit < 0x21) (hdone : x.done = true)
    (hfin : 256 * x.finish ≤ s.clk.cyc) : drvAct d s = drvWrite s (x.unit - 0x11) := by
  unfold drvAct
  rw [hx]
  exact if_pos ⟨hkind, hlo, hhi, hdone, hfin⟩

theorem drvAct_unfinished (hdone : x.done = false) : drvAct d s = s := by
  unfold drvAct
  rw [hx]
  exact if_neg (by simp [hdone])

/-- At its flip, a FIELD word of an engine that is on hands the engine's shared channels over. -/
theorem sharedAct_field (hkind : x.kind = 4) (hlo : 0xD ≤ x.unit) (hhi : x.unit < 0x11) (hop : bits x.payload 63 60 = 0)
    (hon : unitOn s x.unit = true) :
    sharedAct d s = sharedWrite s (x.unit - 0xD) (4 * (x.unit - 0xD) + fieldCh s (x.unit - 0xD) (bits x.payload 59 56)) := by
  unfold sharedAct
  rw [hx]
  exact if_pos ⟨hkind, hlo, hhi, hop, hon⟩

end

theorem sharedAct_none {s : State} {d : Nat} (h : s.tsq.disp[d]? = none) : sharedAct d s = s := by
  unfold sharedAct
  rw [h]

/-- A code reaches a drive channel that is on, and that neither the tick's blanking nor DRVCAL holds; it is logged for the digest. -/
theorem putDrv_free {s : State} {c : Nat} (code : Nat) (parked : Bool) (hblank : drvBlanked s = false) (hon : domOn s (drvDom c) = true)
    (hheld : drvHeld s c = false) :
    ∃ p t, putDrv s c code parked = { s with srv := { s.srv with drv := lmod s.srv.drv c fun _ => code, parked := p }, twn := t } := by
  have hfree : ¬ (drvBlanked s = true ∨ (!domOn s (drvDom c)) = true ∨ drvHeld s c = true) := by simp [hblank, hon, hheld]
  unfold putDrv
  exact ⟨_, _, if_neg hfree⟩

/-- A loop that is defined writes its output to a channel of its own, where that takes a code (10 R274). -/
theorem drvWrite_own {s : State} {l c : Nat} (hdrv : lpDrv (loopB (srvB s) l) = some c) (hen : lpEn (loopB (srvB s) l) = true)
    (hown : drvShare s c = none) (hblank : drvBlanked s = false) (hon : domOn s (drvDom c) = true) (hheld : drvHeld s c = false) :
    ∃ p t, drvWrite s l =
      { s with srv := { s.srv with drv := lmod s.srv.drv c fun _ => pat 16 (loopAt s l).u, parked := p }, twn := t } := by
  have hput : drvWrite s l = putDrv s c (pat 16 (loopAt s l).u) (loopParked s (loopB (srvB s) l)) := by
    unfold drvWrite
    dsimp only
    rw [hdrv]
    exact if_pos ⟨hen, .inl (by simp [hown])⟩
  rw [hput]
  exact putDrv_free _ _ hblank hon hheld

/-! ### What a sample changes (10 R272, 18 R479) -/

/-- `t` is `s` but for what the input guard keeps and for the samples of the tick: no register of a sense channel moved. -/
def SampsAlone (s t : State) : Prop := ∃ p l, t = { s with pins := p, srv := { s.srv with samp := l } }

theorem SampsAlone.trans {s t b : State} (h : SampsAlone s t) (h' : SampsAlone t b) : SampsAlone s b := by
  obtain ⟨p, l, rfl⟩ := h
  obtain ⟨p', l', rfl⟩ := h'
  exact ⟨p', l', rfl⟩

theorem SampsAlone.shadowRun_eq {s t : State} (h : SampsAlone s t) : shadowRun t = shadowRun s := by
  obtain ⟨p, l, rfl⟩ := h
  rfl

theorem guardSample_sampsAlone (s : State) (i : Nat) (v : Int) (ok hold : Bool) : SampsAlone s (guardSample s i v ok hold).1 := by
  unfold guardSample
  dsimp only
  split_ifs
  · exact ⟨_, _, rfl⟩
  · exact ⟨_, _, rfl⟩
  · exact ⟨_, _, rfl⟩
  · exact ⟨_, _, rfl⟩

theorem sampleSrc_sampsAlone (s : State) (src arg : Nat) (v : Int) (ok hold : Bool) : SampsAlone s (sampleSrc s src arg v ok hold).1 := by
  unfold sampleSrc
  split
  next i _ => exact guardSample_sampsAlone s i v ok hold
  next => exact ⟨_, _, rfl⟩

theorem putSamp_sampsAlone (s : State) (ch j : Nat) (v : Int) (fb : Bool) : SampsAlone s (putSamp s ch j v fb) := by
  unfold putSamp
  split_ifs
  · exact ⟨_, _, rfl⟩
  · exact ⟨_, _, rfl⟩

/-- The samples of its gate and of its park that a loop's sample brings with it leave the sense channels alone. -/
theorem gateSamples_sampsAlone (s : State) (l j : Nat) : SampsAlone s (gateSamples s l j) := by
  have hput (s : State) (src arg : Nat) (v : Int) (ch : Nat) :
      SampsAlone s (putSamp (sampleSrc s src arg v true false).1 ch j (sampleSrc s src arg v true false).2.1
        (sampleSrc s src arg v true false).2.2) :=
    (sampleSrc_sampsAlone s src arg v true false).trans (putSamp_sampsAlone _ _ _ _ _)
  unfold gateSamples
  dsimp only
  split
  next e _ =>
    refine SampsAlone.trans ?_ (hput _ _ _ _ _)
    split
    next n _ => exact hput _ _ _ _ _
    next => exact ⟨_, _, rfl⟩
  next =>
    split
    next n _ => exact hput _ _ _ _ _
    next => exact ⟨_, _, rfl⟩

theorem gateSamples_foldl_sampsAlone (ls : List Nat) (j : Nat) (s : State) :
    SampsAlone s (ls.foldl (fun s l => gateSamples s l j) s) :=
  foldl_keep (SampsAlone s) _ (fun t l ht => ht.trans (gateSamples_sampsAlone t l j)) ls ⟨_, _, rfl⟩

/-- What a lead puts into its bundle changes its twin's state alone. -/
theorem bundleSamples_twn (s : State) (n : Nat) : ∃ t, bundleSamples s n = { s with twn := t } := by
  unfold bundleSamples
  dsimp only
  split_ifs
  · exact ⟨_, rfl⟩
  · exact ⟨_, rfl⟩
  · exact ⟨_, rfl⟩

/-! ### Samples of a sense channel (10 R270, R272) -/

/-- 10 R272: the mean of a sample's conversions, each trimmed (12 R328), without its remainder. -/
def snsMean (s : State) (ch : Nat) (raws : List Nat) : Nat :=
  ((raws.take (2 ^ snsOsr s ch)).map (trim s ch)).foldl (· + ·) 0 / 2 ^ snsOsr s ch

/-- Whether a sample's conversions are all there, and good. -/
def snsGood (s : State) (ch : Nat) (raws : List Nat) (ok : Bool) : Bool :=
  ok && raws.length == 2 ^ snsOsr s ch && domOn s (snsDom ch)

/-- What the input guard makes of a sample: the state it leaves, the value, and whether that is a fallback value. -/
def snsGuard (s : State) (ch : Nat) (raws : List Nat) (ok : Bool) : State × Int × Bool :=
  sampleSrc s 5 ch (snsMean s ch raws) (snsGood s ch raws ok) (snsHeld s ch)

theorem snsGuard_sampsAlone (s : State) (ch : Nat) (raws : List Nat) (ok : Bool) : SampsAlone s (snsGuard s ch raws ok).1 :=
  sampleSrc_sampsAlone s 5 ch _ _ _

/-- SRV_SNSn of channel `ch` shows a delivered value. -/
def snsShow (s : State) (ch : Nat) (v : Int) (fb : Bool) : State :=
  { s with srv := { s.srv with sns := lmod s.srv.sns ch fun _ => (pat 16 v, fb) } }

theorem snsShow_sampsAlone {s t : State} (h : SampsAlone s t) (ch : Nat) (v : Int) (fb : Bool) :
    SampsAlone (snsShow s ch v fb) (snsShow t ch v fb) := by
  obtain ⟨p, l, rfl⟩ := h
  exact ⟨p, l, rfl⟩

section
variable {s : State} {ch j : Nat} {raws : List Nat} {ok : Bool}

theorem snsSample_untaken (h : samplers s ch j = [] ∨ snsEn s ch = false) : snsSample s ch j raws ok = s := by
  unfold snsSample
  exact if_pos (h.imp (fun hls => by simp [hls]) fun hen => .inl (by simp [hen]))

variable (hls : samplers s ch j ≠ []) (hen : snsEn s ch = true) (hnew : sampAt s ch j = none) (hsh : shadowRun s = false)
include hls hen hnew hsh

/-- A sample that a loop takes, and that the tick does not have yet, passes the input guard, shows, and brings the samples of the loops' gates
and parks with it. -/
theorem snsSample_eq :
    snsSample s ch j raws ok =
      let g := snsGuard s ch raws ok
      (samplers s ch j).foldl (fun s l => gateSamples s l j) (putSamp (snsShow g.1 ch g.2.1 g.2.2) ch j g.2.1 g.2.2) := by
  have htake : ¬ ((samplers s ch j).isEmpty = true ∨ (!snsEn s ch) = true ∨ (sampAt s ch j).isSome = true ∧ (!shadowRun s) = true) := by
    simp [hls, hen, hnew]
  have hrun : ¬ shadowRun (snsGuard s ch raws ok).1 = true := by simp [(snsGuard_sampsAlone s ch raws ok).shadowRun_eq, hsh]
  unfold snsSample
  exact (if_neg htake).trans (if_neg hrun)

/-- Of the sense channels' registers only its own moves. -/
theorem snsSample_sampsAlone :
    SampsAlone (snsShow s ch (snsGuard s ch raws ok).2.1 (snsGuard s ch raws ok).2.2) (snsSample s ch j raws ok) := by
  rw [snsSample_eq hls hen hnew hsh]
  have hshow := snsShow_sampsAlone (snsGuard_sampsAlone s ch raws ok) ch (snsGuard s ch raws ok).2.1 (snsGuard s ch raws ok).2.2
  exact (hshow.trans (putSamp_sampsAlone _ _ _ _ _)).trans (gateSamples_foldl_sampsAlone _ _ _)

end

theorem exec_snsSample {w : When} {ch j : Nat} {raws : List Nat} {ok : Bool} {s b : State} (h : snsSample (advance w s) ch j raws ok = b) :
    exec (.snsSample w ch j raws ok) s = .next (endCmd s (bundleSamples b s.srv.samp.length)) :=
  cmdRun_eq (f := fun s => bundleSamples (snsSample s ch j raws ok) s.srv.samp.length)
    (congrArg (fun b => bundleSamples b s.srv.samp.length) h)

/-! ### The statement -/

/-- Settles O43: COMPUTE words by `exec_compute`; a loop's own channel by `drvAct_finished`, `drvWrite_own` and `putDrv_free`; shared channels
by `sharedAct_field`; a sample by `snsSample_untaken` and `snsSample_sampsAlone`. -/
theorem servoLoops : Obligations.ServoLoops := by
  unfold Obligations.ServoLoops
  refine ⟨fun w d s x => ⟨exec_compute, fun hx hkind hlo hhi hdone hfin c hdrv hen hown hblank hon hheld hc => ?_,
      fun hx hdone => exec_drvWrite (drvAct_unfinished hx hdone),
      fun hx hkind hlo hhi hop hunit => exec_sharedDrvWrite (sharedAct_field hx hkind hlo hhi hop hunit),
      fun hx => exec_sharedDrvWrite (sharedAct_none hx)⟩,
    fun w ch j raws ok s => ⟨fun h => exec_snsSample (snsSample_untaken h), fun hls hen hnew hsh hch => ?_⟩⟩
  · obtain ⟨p, t, hwrite⟩ := drvWrite_own (s := advance w s) hdrv hen hown hblank ((advance_domOn w s _).trans hon) hheld
    exact ⟨_, exec_drvWrite ((drvAct_finished (s := advance w s) hx hkind hlo hhi hdone hfin).trans hwrite), lget_lmod_same _ _ _ _ hc,
      fun k hk => lget_lmod_other _ _ _ _ _ hk.symm, rfl⟩
  · obtain ⟨p, l, hsamp⟩ := snsSample_sampsAlone (raws := raws) (ok := ok) hls hen hnew hsh
    obtain ⟨t, hbundle⟩ := bundleSamples_twn (snsSample (advance w s) ch j raws ok) s.srv.samp.length
    refine ⟨_, _, _, _, exec_snsSample rfl, rfl, ?_, ?_⟩
    · rw [hbundle, hsamp]
      exact lget_lmod_same _ _ _ _ hch
    · rw [hbundle, hsamp]
      rfl

end Sys2Proof.Machine
end

section
/-! PROOF. What holds of every step: the queue, the enables of Aperture, the rules at reset, and the frame of a command's end (00 "Notation", 01
R30, 05 R127, R131, 14 R370, 16 R436, 19 R493). -/

namespace Sys2Proof.Machine

/-! ### The queue -/

theorem step_cons {c : Instr} {r : List Instr} {s : State} (h : s.pending = c :: r) : step s = exec c { s with pending := r } := by
  unfold step
  rw [h]

theorem step_nil {s : State} (h : s.pending = []) : step s = .next s := by
  unfold step
  rw [h]

/-- A step either idles or ends a command, with the queue's rest. -/
theorem step_next {s t : State} (h : step s = .next t) : t = s ∨ ∃ q b, t = endCmd q b := by
  cases hp : s.pending with
  | nil =>
    rw [step_nil hp] at h
    injection h with h
    exact .inl h.symm
  | cons c r =>
    rw [step_cons hp] at h
    obtain ⟨b, hb⟩ := exec_next h
    exact .inr ⟨_, b, hb⟩

/-- Settles O1: `step` on a queue that is not empty. -/
theorem stepRunsFrontCommand : Obligations.StepRunsFrontCommand := by
  unfold Obligations.StepRunsFrontCommand
  exact fun c r s h => step_cons h

/-- Settles O2: `step` on the empty queue. -/
theorem emptyQueueIdles : Obligations.EmptyQueueIdles := by
  unfold Obligations.EmptyQueueIdles
  exact fun s h => step_nil h

/-- Settles O3: every command ends (`exec_ends`), and its end leaves the queue as the command found it. -/
theorem commandsAnswerAndKeepQueue : Obligations.CommandsAnswerAndKeepQueue := by
  unfold Obligations.CommandsAnswerAndKeepQueue
  intro c r s h
  obtain ⟨b, hb⟩ := exec_ends c { s with pending := r }
  exact ⟨_, (step_cons h).trans hb, endCmd_pending _ b⟩

/-! ### The enables (14 R370) -/

/-- No enable and no level rests on the queue. -/
theorem EnablesRight.of_pending {s : State} (q : List Instr) (h : EnablesRight s) : EnablesRight { s with pending := q } := h

/-- Whatever a command has done, its end drives every enable to its level. -/
theorem endCmd_enablesRight (s b : State) : EnablesRight (endCmd s b) :=
  EnablesRight.of_pending s.pending (s := finish b) (lenStep_level _)

/-- Settles O6: a step that idles changes nothing, and every other one ends in `lenStep`, which drives all sixteen enables. -/
theorem stepKeepsEnablesRight : Obligations.StepKeepsEnablesRight := by
  unfold Obligations.StepKeepsEnablesRight
  intro s t hs h
  rcases step_next h with rfl | ⟨q, b, rfl⟩
  · exact hs
  · exact endCmd_enablesRight q b

/-! ### Reset -/

/-- At reset Dark stands, so no level is high, and none is driven. -/
theorem reset_enablesRight : EnablesRight State.reset := by
  intro n _
  have hlow : ¬ (lenLevel State.reset n).1 = true := fun h => by
    have hdark := ((lenLevel_high_iff State.reset n).1 h).1
    simp [show State.reset.saf.dark = true from rfl] at hdark
  rw [Bool.not_eq_true] at hlow
  rw [hlow]
  exact Nat.zero_testBit n

/-- 17 R445: a part whose power state is at reset has AON (0) and SAF (1) fully on, and no other domain. -/
theorem domOn_of_reset {s : State} (h : s.pwr.doms = ({} : Pwr).doms) (d : Nat) : domOn s d = true ↔ d < 2 := by
  unfold domOn domAt
  rw [h]
  by_cases hd : d < 64
  · interval_cases d <;> decide
  · have : (lget ({} : Pwr).doms d {}) = {} := List.getD_eq_default _ _ (by simpa using hd)
    rw [this]
    simpa using by omega

/-- Settles O5: at reset Dark stands, no memory lists a byte, and the domains are those of `Pwr` at reset. -/
theorem resetKeepsTheRules : Obligations.ResetKeepsTheRules := by
  unfold Obligations.ResetKeepsTheRules
  exact ⟨reset_enablesRight, reset_enablesRight.darkIsDark, reset_memory_wf, domOn_of_reset rfl⟩

/-! ### The end of a command -/

/-- Where nothing waits in the fabric and nothing is to be forwarded, only the watchdog's pin and the enables follow a command. -/
theorem finish_calm {b : State} (h : FabricCalm b) : finish b = lenStep (wdoutRelease b) := by
  unfold finish
  rw [pumpFabric_calm b h, forwardAll_calm b h.2.2.2.1]

/-- Settles O9: `finish_calm`, with what the pin and the enables change (`wdoutRelease_eq`, `lenStep_eq`). -/
theorem commandEndFrame : Obligations.CommandEndFrame := by
  unfold Obligations.CommandEndFrame
  intro s b h
  obtain ⟨dr, cl, ca, eg, ev, q, i, hlen, hlit⟩ := lenStep_eq (wdoutRelease b)
  rw [wdoutRelease_eq] at hlen hlit
  refine ⟨dr, cl, ca, eg, ev, q, i, ?_, hlit⟩
  have hend : endCmd s b = { lenStep (wdoutRelease b) with pending := s.pending } :=
    congrArg (fun y : State => { y with pending := s.pending }) (finish_calm h)
  rw [wdoutRelease_eq, hlen] at hend
  exact hend

end Sys2Proof.Machine
end

section
/-! PROOF. The triggers of Aperture, and what is none (14 R375, R377 to R380, R385). -/

namespace Sys2Proof.Machine

/-! ### What a trigger leaves (14 R378, R379) -/

/-- What a trigger with a code makes of a state: Dark with its cause, one count, one log entry, the hold restarted, no engine qualified, and
no more. -/
def Fired (s : State) (code : Nat) (b : State) : Prop :=
  b.saf.dark = true ∧ b.saf.cause = (if s.saf.dark then s.saf.cause else code) ∧ b.saf.lastTrig = some s.clk.aclk ∧
    b.saf.cnt = lmod s.saf.cnt code sat32 ∧ b.saf.logTotal = (s.saf.logTotal + 1) % 2 ^ 32 ∧
    (∃ l, b.saf.log.head? = some l ∧ l.code = code ∧ l.aclk = s.clk.aclk ∧ l.wasdark = s.saf.dark) ∧
    (∀ x ∈ b.saf.eng, x.qual = false ∧ x.good = 0) ∧ b.saf.ena = s.saf.ena ∧ b.tsq.tc = s.tsq.tc ∧ b.mem = s.mem ∧ b.fld = s.fld

/-- A state that differs only in what a trigger's own condition marks. -/
def Marked (s x : State) : Prop :=
  x.saf.dark = s.saf.dark ∧ x.saf.cause = s.saf.cause ∧ x.clk.aclk = s.clk.aclk ∧ x.saf.cnt = s.saf.cnt ∧ x.saf.logTotal = s.saf.logTotal ∧
    x.saf.ena = s.saf.ena ∧ x.tsq.tc = s.tsq.tc ∧ x.mem = s.mem ∧ x.fld = s.fld

theorem Marked.refl (s : State) : Marked s s := ⟨rfl, rfl, rfl, rfl, rfl, rfl, rfl, rfl, rfl⟩

theorem fire_fired {s x : State} (hm : Marked s x) (code tcode chan zone : Nat) : Fired s code (fire x code tcode chan zone) := by
  obtain ⟨l, eg, sv, q, i, h, heng, hcode, -, haclk, hdark⟩ := fire_eq x code tcode chan zone
  obtain ⟨hd, hc, ha, hn, hl, he, ht, hmem, hf⟩ := hm
  rw [h]
  exact ⟨rfl, by rw [← hd, ← hc], by rw [← ha], by rw [← hn], by rw [← hl], ⟨l, rfl, hcode, haclk.trans ha, hdark.trans hd⟩, heng, he, ht, hmem, hf⟩

theorem intlkOpenNow_fired (s : State) : Fired s 1 (intlkOpenNow s) := by
  unfold intlkOpenNow
  refine fire_fired ?_ 1 0 0 0
  exact ⟨rfl, rfl, rfl, rfl, rfl, rfl, rfl, rfl, rfl⟩

theorem intlkDiscNow_fired (s : State) (lvl : Bool) : Fired s 2 (intlkDiscNow s lvl) := by
  unfold intlkDiscNow
  refine fire_fired ?_ 2 0 0 0
  exact ⟨rfl, rfl, rfl, rfl, rfl, rfl, rfl, rfl, rfl⟩

theorem clockLoss_fired (s : State) (code : Nat) : Fired s code (clockLoss s code) := by
  unfold clockLoss
  refine fire_fired ?_ code 0 0 0
  exact ⟨rfl, rfl, rfl, rfl, rfl, rfl, rfl, rfl, rfl⟩

/-! ### The triggers that rest on a condition, where it holds and where it does not -/

theorem keyIs_iff (v k : Nat) : keyIs v k = true ↔ bits v 31 16 = k := beq_iff_eq

/-- 14 R375: the level that a monitor shows is above the cap of a channel with a role. -/
def OverCap (s : State) (n lvl : Nat) : Prop :=
  n < 16 ∧ sfRole (safB s) n ≠ 0 ∧ sfMon (safB s) n ≠ 0xFF ∧ 64 * monCap s n < lvl

theorem overpowerNow_fired {s : State} {n lvl : Nat} (h : OverCap s n lvl) : Fired s 4 (overpowerNow s n lvl) := by
  unfold OverCap at h
  unfold overpowerNow
  simp only [decide_eq_true h, if_pos h.1, ↓reduceIte]
  refine fire_fired ?_ 4 0 n 0
  exact ⟨rfl, rfl, rfl, rfl, rfl, rfl, rfl, rfl, rfl⟩

theorem overpowerNow_within {s : State} {n lvl : Nat} (h : ¬ OverCap s n lvl) :
    overpowerNow s n lvl = { s with saf := { s.saf with above := if n < 16 then setBit s.saf.above n false else s.saf.above } } := by
  unfold OverCap at h
  unfold overpowerNow
  simp only [decide_eq_false h]
  by_cases hn : n < 16
  · simp only [hn, Bool.false_eq_true, ↓reduceIte]
  · simp only [hn, Bool.false_eq_true, ↓reduceIte]

theorem scanlossNow_fired {s : State} {e : Nat} (hk : engKind s e = 2) (hl : engLit s e = true) : Fired s 3 (scanlossNow s e) := by
  unfold scanlossNow
  rw [if_pos ⟨hk, hl⟩]
  exact fire_fired (Marked.refl s) 3 0 (4 * e) 0

theorem scanlossNow_unlit {s : State} {e : Nat} (h : engKind s e ≠ 2 ∨ engLit s e = false) : scanlossNow s e = s :=
  if_neg fun hc => h.elim (· hc.1) fun hl => by simp [hl] at hc

theorem strapNow_fired {s : State} {a : Bool} (h : a ≠ bitAt s.boot.straps 3) : Fired s 10 (strapNow s a) := by
  unfold strapNow
  simp only [bne_iff_ne.mpr h, ↓reduceIte]
  refine fire_fired ?_ 10 0 0 0
  exact ⟨rfl, rfl, rfl, rfl, rfl, rfl, rfl, rfl, rfl⟩

theorem strapNow_like {s : State} {a : Bool} (h : a = bitAt s.boot.straps 3) :
    strapNow s a = setCond { s with boot := { s.boot with benchLive := a } } 10 false := by
  unfold strapNow
  simp [h]

theorem lenfaultNow_fired {s : State} {n : Nat} {a : Bool} (h : a ≠ bitAt s.saf.drive n) : Fired s 11 (lenfaultNow s n a) := by
  unfold lenfaultNow
  simp only [bne_iff_ne.mpr h, ↓reduceIte]
  refine fire_fired ?_ 11 0 n 0
  exact ⟨rfl, rfl, rfl, rfl, rfl, rfl, rfl, rfl, rfl⟩

theorem lenfaultNow_like {s : State} {n : Nat} {a : Bool} (h : a = bitAt s.saf.drive n) :
    lenfaultNow s n a = setCond { s with saf := { s.saf with stuck := setBit s.saf.stuck n false } } 11
      (setBit s.saf.stuck n false != 0) := by
  unfold lenfaultNow
  simp [h]

/-- 14 R385: an injected trigger is one with code 13, and its latency is kept. -/
theorem testFire_fired {s : State} {code : Nat} (lat : Nat) (h1 : 1 ≤ code) (h2 : code ≤ 12) : Fired s 13 (testFire s code lat) := by
  unfold testFire
  rw [if_pos ⟨h1, h2⟩]
  have h := fire_fired (Marked.refl s) 13 code 0 0
  generalize fire s 13 code 0 0 = b at h ⊢
  exact h

theorem testFire_none {s : State} {code : Nat} (lat : Nat) (h : code = 0 ∨ 12 < code) : testFire s code lat = s :=
  if_neg (by omega)

/-! ### The commands -/

/-- Settles O47: each trigger is `fire` on the state that its own condition has marked (`fire_fired`); what is none leaves Aperture's Dark,
counts and log alone. -/
theorem apertureTriggers : Obligations.ApertureTriggers := by
  unfold Obligations.ApertureTriggers
  refine ⟨?_, ?_⟩
  · intro w r lat n lvl e a s u v high fired
    have run : ∀ {c : Instr} {code : Nat} {b : State}, exec c s = .next (endCmd s b) → Fired u code b → fired c code :=
      fun hc hb => ⟨_, hc, hb⟩
    refine ⟨run rfl (intlkOpenNow_fired u), run (cmdRun_eq (f := fun s => if a = a then intlkDiscNow s a else s) (if_pos rfl)) (intlkDiscNow_fired u a), fun h => run rfl (overpowerNow_fired h),
      run rfl (clockLoss_fired u 6), run rfl (clockLoss_fired u 7), fun hk hl => run rfl (scanlossNow_fired hk hl),
      fun h => run rfl (strapNow_fired h), fun hn h => run (cmdRun_eq (f := fun s => if n < 16 then lenfaultNow s n a else s) (if_pos hn)) (lenfaultNow_fired h),
      fun hd hk hb => run (cmdRun_eq ((write_force w r noOutside s hd).trans (if_pos ?_))) (fire_fired (Marked.refl u) 12 0 0 0),
      fun hd hk h1 h2 => run (cmdRun_eq ((write_safTest w r _ s hd).trans (if_pos ((keyIs_iff _ _).2 hk)))) (testFire_fired lat h1 h2)⟩
    rw [Bool.and_eq_true, keyIs_iff]
    exact ⟨hk, hb⟩
  · intro w r lat n lvl e a b s u v high
    refine ⟨fun h => cmdRun_eq (f := fun s => if a = b then intlkDiscNow s a else s) (if_neg h),
      fun h => cmdRun_eq (f := fun s => scanlossNow s e) (scanlossNow_unlit h),
      fun h => cmdRun_eq (f := fun s => overpowerNow s n lvl) (overpowerNow_within h),
      fun h => cmdRun_eq (f := fun s => if n < 16 then lenfaultNow s n a else s) (if_neg (by omega)),
      fun h => cmdRun_eq (f := fun s => strapNow s a) (strapNow_like h),
      fun hn h => cmdRun_eq (f := fun s => if n < 16 then lenfaultNow s n a else s) ((if_pos hn).trans (lenfaultNow_like h)),
      fun hd h => cmdRun_eq ((write_force w r noOutside s hd).trans (if_neg ?_)), fun hd h => cmdRun_eq ((write_safTest w r _ s hd).trans ?_)⟩
    · rw [Bool.and_eq_true, keyIs_iff]
      exact fun hc => h.elim (· hc.1) fun hb => by simp [v, hb] at hc
    · rcases h with hk | h
      · exact if_neg (mt (keyIs_iff _ _).1 hk)
      · rw [testFire_none lat h, ite_self]

end Sys2Proof.Machine
end

section
/-! PROOF. Re-arm of Aperture (14 R383, R387). -/

namespace Sys2Proof.Machine

/-! ### The hold and the interlock -/

/-- 14 R383: nothing is held once REARMHOLD has passed since the last trigger. -/
theorem holding_eq_false_iff (s : State) :
    holding s = false ↔ ∀ t, s.saf.lastTrig = some t → t + 20000 * sfHold (safB s) ≤ s.clk.aclk := by
  unfold holding holdCycles
  cases s.saf.lastTrig with
  | none => simp
  | some t => simp [Nat.mul_comm]

/-- The interlock has been closed for 100 ms. -/
abbrev LongClosed (s : State) : Prop := ∃ c, s.saf.closedAt = some c ∧ c + 2000000 ≤ s.clk.aclk

/-! ### REARMERR -/

/-- 14 Table 14-7 in its order (assumption log entry 21). -/
theorem rearmErr_eq (s : State) :
    rearmErr s = (if s.saf.dark = false then 5
      else if trimOk s = false ∨ s.saf.lenFlt = true ∨ s.saf.intFault = true then 4
      else if safPend s ≠ 0 then 1 else if holding s = true then 2 else if LongClosed s then 0 else 3) := by
  unfold rearmErr LongClosed
  cases s.saf.closedAt with
  | none => simp
  | some t =>
    by_cases h : t + 2000000 ≤ s.clk.aclk
    · simp [h, Nat.not_lt.mpr h]
    · simp [h, Nat.lt_of_not_le h]

/-- A re-arm passes where nothing stands against it. -/
theorem rearmErr_eq_zero_iff {s : State} (hd : s.saf.dark = true) :
    rearmErr s = 0 ↔ trimOk s = true ∧ s.saf.lenFlt = false ∧ s.saf.intFault = false ∧ safPend s = 0 ∧ holding s = false ∧ LongClosed s := by
  rw [rearmErr_eq, if_neg (by simp [hd])]
  split_ifs with hl hp hh hc
  · simpa using fun ht hf hi => by simp [ht, hf, hi] at hl
  · simpa using fun _ _ _ h0 => absurd h0 hp
  · simp [hh]
  · simp only [not_or, Bool.not_eq_true, Bool.not_eq_false] at hl hh
    simpa [hc, hh] using ⟨hl.1, hl.2.1, hl.2.2, by simpa using hp⟩
  · simp [hc]

/-! ### The outcome at the boundary -/

theorem rearmNow_refused {s : State} (hr : s.saf.rearmReq = true) (h : rearmErr s ≠ 0) :
    rearmNow s = { s with saf := { s.saf with rearmReq := false, rearmErr := rearmErr s } } := by
  unfold rearmNow
  rw [if_pos hr]
  exact if_neg h

/-- A re-arm that passes lifts Dark, and every engine has to qualify anew. -/
theorem rearmNow_passed {s : State} (hr : s.saf.rearmReq = true) (h : rearmErr s = 0) :
    (rearmNow s).saf.rearmReq = false ∧ (rearmNow s).saf.rearmErr = 0 ∧ (rearmNow s).saf.dark = false ∧
      ∀ x ∈ (rearmNow s).saf.eng, x.qual = false ∧ x.cross = 0 := by
  unfold rearmNow
  simp only [hr, h, ↓reduceIte]
  obtain ⟨eg, sv, q, i, hpark, hm⟩ := parkAll_eq (unqualify { s with
    saf := { s.saf with rearmReq := false, rearmErr := 0, dark := false, eng := s.saf.eng.map fun x => { x with cross := 0 } }
    boot := { s.boot with step := if s.boot.step = 11 then 12 else s.boot.step } }) false
  rw [hpark]
  refine ⟨rfl, rfl, rfl, unparked_all hm (fun x => x.qual = false ∧ x.cross = 0) (fun x => Iff.rfl) ?_⟩
  intro x hx
  obtain ⟨y, hy, rfl⟩ := List.mem_map.mp hx
  obtain ⟨z, _, rfl⟩ := List.mem_map.mp hy
  exact ⟨rfl, rfl⟩

theorem rearmNow_rearmErr {s : State} (hr : s.saf.rearmReq = true) : (rearmNow s).saf.rearmErr = rearmErr s := by
  by_cases h : rearmErr s = 0
  · rw [(rearmNow_passed hr h).2.1, h]
  · rw [rearmNow_refused hr h]

theorem rearmNow_dark {s : State} (hr : s.saf.rearmReq = true) :
    (rearmNow s).saf.dark = false ↔ s.saf.dark = false ∨ (s.saf.dark = true ∧ rearmErr s = 0) := by
  by_cases h : rearmErr s = 0
  · obtain ⟨-, -, hdark, -⟩ := rearmNow_passed hr h
    cases hd : s.saf.dark <;> simp [hdark, h]
  · rw [rearmNow_refused hr h]
    simp [h]

/-- Settles O48: the request, HOLDING, the interlock and the selects as their registers say; the outcome by `rearmErr_eq`. -/
theorem apertureRearm : Obligations.ApertureRearm := by
  unfold Obligations.ApertureRearm
  refine ⟨fun w r s => ?_, fun s hr => ?_⟩
  · intro u v
    refine ⟨fun hd => cmdRun_eq ((write_rearm w r noOutside s hd).trans ?_), ⟨rfl, holding_eq_false_iff u⟩, rfl,
      fun hd => cmdRun_eq (write_zoneSel w r noOutside s hd), fun hd => cmdRun_eq (write_safLogSel w r noOutside s hd)⟩
    simp only [Bool.and_eq_true, keyIs_iff]
    rfl
  · intro t
    refine ⟨?_, ?_, (rearmNow_rearmErr hr).trans ?_, ?_⟩
    · by_cases h : rearmErr s = 0
      · exact (rearmNow_passed hr h).1
      · rw [show t = _ from rearmNow_refused hr h]
    · rw [rearmNow_dark hr]
      cases hd : s.saf.dark with
      | false => simp
      | true => simpa [LongClosed] using rearmErr_eq_zero_iff hd
    · exact rearmErr_eq s
    · intro h0
      exact (rearmNow_passed hr ((rearmNow_rearmErr hr).symm.trans h0)).2.2.2

end Sys2Proof.Machine
end

section
/-! PROOF. Power commands, resets, and PLL0's lock (14 R365, 17 R446, R450, R451, 18 R481, R482, 20 R518, 21 R522). -/

namespace Sys2Proof.Machine

/-! ### Power commands (17 R450, Table 17-3) -/

theorem pwrCmd_refused {s : State} {v : Nat} {lk : Bool} (hk : bits v 31 16 = 0x9D0E) (hop : bits v 9 8 = 1 ∨ bits v 9 8 = 2)
    (h : pwrRefusal s (bits v 9 8) (bits v 5 0) lk ≠ 0) :
    pwrCmd s v lk = pwrRefuse s (pwrRefusal s (bits v 9 8) (bits v 5 0) lk) (bits v 5 0) := by
  unfold pwrCmd
  dsimp only
  rw [if_neg (by omega), if_pos h]

theorem pwrCmd_up {s : State} {v : Nat} {lk : Bool} (hk : bits v 31 16 = 0x9D0E) (hop : bits v 9 8 = 1)
    (h : pwrRefusal s (bits v 9 8) (bits v 5 0) lk = 0) : pwrCmd s v lk = cmdUp s (bits v 5 0) := by
  unfold pwrCmd
  dsimp only
  rw [if_neg (by omega), if_neg (not_not_intro h), if_pos hop]

theorem pwrCmd_down {s : State} {v : Nat} {lk : Bool} (hk : bits v 31 16 = 0x9D0E) (hop : bits v 9 8 = 2)
    (h : pwrRefusal s (bits v 9 8) (bits v 5 0) lk = 0) : pwrCmd s v lk = cmdDown s (bits v 5 0) := by
  unfold pwrCmd
  dsimp only
  rw [if_neg (by omega), if_neg (not_not_intro h), if_neg (by omega)]

theorem cmdUp_off {s : State} {d : Nat} (h : (domAt s d).phase = .off) :
    cmdUp s d = modDom s d fun y => { y with want := true, queued := 0 } :=
  modDom_congr (by simp only [h])

theorem cmdDown_on {s : State} {d : Nat} (h : (domAt s d).phase = .on) :
    cmdDown s d = modDom s d fun y => { y with
      phase := .fence, c0 := s.clk.mclk, downs := satAdd 4095 y.downs 1, drained := 0, flushed := 0, limit := false
      quick := false, queued := 0 } := by
  unfold cmdDown startDown
  dsimp only
  rw [if_pos h]
  exact modDom_congr (if_pos h)

/-- 17 Table 17-3: a domain that the head does not use comes up by no command. -/
theorem pwrRefusal_unused {s : State} {d : Nat} (lk : Bool) (h : bitAt (domUsed s) d = false) : pwrRefusal s 1 d lk = 1 :=
  if_pos ⟨rfl, by simp [h]⟩

/-- A domain that the running set protects goes down by no command. -/
theorem pwrRefusal_protected {s : State} {d : Nat} (lk : Bool) (h : bitAt (runDomreq s) d = true) : pwrRefusal s 2 d lk ≠ 0 := by
  unfold pwrRefusal
  split_ifs <;> simp_all

/-- A domain of another authority obeys no command. -/
theorem pwrRefusal_notCommand {s : State} {op d : Nat} (lk : Bool) (h : isCommandDom d = false) : pwrRefusal s op d lk ≠ 0 := by
  unfold pwrRefusal
  rw [if_pos (c := isCommandDom d = false ∨ _) (.inl h)]
  split <;> decide

/-- Settles O26: `write_pwrCmd` and the cases of `pwrCmd`. -/
theorem powerCommand : Obligations.PowerCommand := by
  unfold Obligations.PowerCommand
  intro w r s hd hk u op d why
  refine ⟨fun hne hop => ?_, fun hz hop hoff => ?_, fun hz hop hon => ?_, fun hop hun => ?_, fun hop hreq => ?_, fun hcmd => ?_⟩
  · have hb := (write_pwrCmd w r noOutside s hd).trans (pwrCmd_refused hk hop hne)
    exact ⟨cmdRun_eq hb, cmdRun_eq hb⟩
  · exact cmdRun_eq ((write_pwrCmd w r noOutside s hd).trans ((pwrCmd_up hk hop hz).trans (cmdUp_off hoff)))
  · exact cmdRun_eq ((write_pwrCmd w r noOutside s hd).trans ((pwrCmd_down hk hop hz).trans (cmdDown_on hon)))
  · show pwrRefusal u op d (dbgLock s) = 1
    rw [hop]
    exact pwrRefusal_unused _ hun
  · show pwrRefusal u op d (dbgLock s) ≠ 0
    rw [hop]
    exact pwrRefusal_protected _ hreq
  · exact pwrRefusal_notCommand _ hcmd

/-! ### Resets of the core (18 R481, 20 R518) -/

/-- While time passes the watchdog's configuration and evidence stand. -/
theorem advance_wdg (w : When) (s : State) :
    ∃ c k tc cyc, (advance w s).wdg = { s.wdg with count := c, key := k, svTc := tc, svCyc := cyc } := by
  show ∃ c k tc cyc, wdgTime (if s.clk.on then w.dt else 0) s = { s.wdg with count := c, key := k, svTc := tc, svCyc := cyc }
  generalize (if s.clk.on then w.dt else 0) = dt
  unfold wdgTime
  split_ifs
  · exact ⟨_, _, _, _, rfl⟩
  · exact ⟨_, _, _, _, romService_frame _ _ _⟩
  · exact ⟨_, _, _, _, rfl⟩

theorem advance_wdgConfig (w : When) (s : State) :
    (advance w s).wdg.run = s.wdg.run ∧ (advance w s).wdg.timeout = s.wdg.timeout ∧ (advance w s).wdg.window = s.wdg.window ∧
      (advance w s).wdg.warn = s.wdg.warn ∧ (advance w s).wdg.evCount = s.wdg.evCount := by
  obtain ⟨c, k, tc, cyc, h⟩ := advance_wdg w s
  rw [h]
  exact ⟨rfl, rfl, rfl, rfl, rfl⟩

/-- What a reset other than PORST_N leaves: the core at boot step 5 with the cause, Aperture with CORERESET fired, and what the part keeps. -/
def CoreRestarted (s : State) (cause : Nat) (b : State) : Prop :=
  b.boot.cause = cause ∧ b.boot.count = min 255 (s.boot.count + 1) ∧ b.boot.step = 5 ∧ b.boot.straps = s.boot.straps ∧
    b.fld.applied = false ∧ b.tsq.run = false ∧ b.clk.on = false ∧ b.clk.aclk = s.clk.aclk ∧ b.clk.aon = s.clk.aon ∧
    b.saf.dark = true ∧ b.saf.ena = s.saf.ena ∧ lget b.saf.cnt 9 0 = lget (lmod s.saf.cnt 9 sat32) 9 0 ∧
    b.mem = { nvm := s.mem.nvm } ∧ b.cal.otp = s.cal.otp ∧ b.cal.array = s.cal.array ∧ b.wdg.evCount = s.wdg.evCount ∧
    b.wdg.run = false ∧ b.pwr.wakeCfg = s.pwr.wakeCfg ∧ (∀ d, domOn b d = true ↔ d < 2) ∧ b.twn.ofs = s.twn.ofs

theorem resetCore_restarted (s : State) (cause : Nat) : CoreRestarted s cause (resetCore s cause) := by
  unfold resetCore
  obtain ⟨sa, sv, p, h, hdark, hena, hcnt, -, -⟩ := coreReset_eq s
  rw [h]
  exact ⟨rfl, rfl, rfl, rfl, rfl, rfl, rfl, rfl, rfl, hdark, hena, congrArg (lget · 9 0) hcnt, rfl, rfl, rfl, rfl, rfl, rfl,
    domOn_of_reset rfl, rfl⟩

theorem resetN_awake {s : State} (hon : domOn s 0 = true) (hd : s.pwr.deep = false) : resetN s = resetCore s 1 := by
  unfold resetN
  rw [hon, hd]
  rfl

theorem resetN_off {s : State} (hon : domOn s 0 = false) : resetN s = s := by
  unfold resetN
  rw [hon]
  rfl

theorem brownOut_on {s : State} (hon : domOn s 0 = true) (hb : s.boot.brown = false) :
    brownOut s = { resetCore s 1 with boot := { (resetCore s 1).boot with brown := true } } := by
  unfold brownOut
  rw [if_neg (by simp [hon, hb])]

/-- Settles O29: every one of these resets is `resetCore` (`resetCore_restarted`). -/
theorem coreReset_restarts : Obligations.CoreReset := by
  unfold Obligations.CoreReset
  intro w r s u done
  have kept : ∀ {b : State} {cause : Nat}, CoreRestarted u cause b → done b cause := by
    intro b cause h
    obtain ⟨-, -, -, -, hev⟩ := advance_wdgConfig w s
    unfold CoreRestarted at h
    rw [show u.wdg.evCount = s.wdg.evCount from hev] at h
    exact h
  refine ⟨fun hd hk hb => ⟨_, cmdRun_eq ((write_swReset w r noOutside s hd).trans (if_pos ?_)), kept (resetCore_restarted u 4)⟩,
    fun hon hd => ⟨_, cmdRun_eq (f := resetN) (resetN_awake ((advance_domOn w s 0).trans hon) hd), kept (resetCore_restarted u 1)⟩,
    fun hon hb => ⟨_, cmdRun_eq (f := brownOut) (brownOut_on ((advance_domOn w s 0).trans hon) hb), kept ?_, rfl⟩,
    fun hoff => cmdRun_eq (f := resetN) (resetN_off ((advance_domOn w s 0).trans hoff)), rfl⟩
  · rw [Bool.and_eq_true, keyIs_iff]
    exact ⟨hk, hb⟩
  · have h := resetCore_restarted u 1
    generalize resetCore u 1 = b at h ⊢
    exact h

/-! ### PORST_N and a low VAON (18 R481, R482, 21 R522) -/

/-- Boot steps 1 to 4 but for Aperture's arming. -/
def porstLatched (s : State) (straps : BitVec 4) (fuses : Bytes) : State :=
  let otp := (List.range 512).map fun i => lget s.cal.array i 0 ||| lget fuses i 0
  { porstHold s with
    cal := { array := otp, otp := otp }
    boot := { straps := straps.toNat, benchLive := bitAt straps.toNat 3, step := 5 } }

theorem porstRelease_eq (s : State) (straps : BitVec 4) (fuses : Bytes) : porstRelease s straps fuses = safArm (porstLatched s straps fuses) :=
  rfl

/-- TRIMOK rests on the OTP alone (12 R315). -/
theorem trimOk_congr {s b : State} (h : b.cal.otp = s.cal.otp) : trimOk b = trimOk s := by
  unfold trimOk
  rw [h]

/-- 14 R365, R382: Aperture's arming moves its cause and its log and nothing else. -/
theorem safArm_eq (s : State) : ∃ c l n, safArm s = { s with saf := { s.saf with cause := c, log := l, logTotal := n } } := by
  unfold safArm
  split
  · exact ⟨_, _, _, rfl⟩
  · exact ⟨_, _, _, rfl⟩

/-- 14 R382: the cause of arming is TRIM where the factory record is bad. -/
theorem safArm_cause (s : State) : (safArm s).saf.cause = if trimOk (safArm s) then s.saf.cause else 14 := by
  obtain ⟨c, l, n, h⟩ := safArm_eq s
  have htrim : trimOk (safArm s) = trimOk s := trimOk_congr (by rw [h])
  rw [htrim]
  unfold safArm
  split
  · rfl
  · rfl

/-- A domain whose rail is gone. -/
def unpowered (x : Dom) : Dom := { x with phase := .off }

/-- A low VAON leaves no domain on. -/
theorem vaonLow_off (s : State) (d : Nat) : domOn (vaonLow s) d = false := by
  have h : domAt (vaonLow s) d = unpowered (domAt (porstHold s) d) := lget_map unpowered (porstHold s).pwr.doms d ({} : Dom) ({} : Dom) rfl
  unfold domOn
  rw [h]
  rfl

/-! ### PLL0's lock (18 R482) -/

theorem domAt_cmdUp (s : State) (d e : Nat) : (domAt (cmdUp s d) e).phase = (domAt s e).phase ∧
    ((domAt s e).phase = .off → (domAt s e).want = true → (domAt (cmdUp s d) e).want = true) := by
  have h : domAt (cmdUp s d) e = _ := lget_lmod s.pwr.doms d e _ {}
  rw [h]
  split
  · constructor
    · split <;> rfl
    · intro hp _
      rw [show (lget s.pwr.doms e {}).phase = .off from hp]
  · exact ⟨rfl, fun _ hw => hw⟩

/-- Commands to come up leave every phase as it is. -/
theorem cmdUps_phase (ds : List Nat) (s : State) (e : Nat) : (domAt (ds.foldl cmdUp s) e).phase = (domAt s e).phase :=
  foldl_keep (fun x => (domAt x e).phase = (domAt s e).phase) cmdUp (fun x d h => (domAt_cmdUp x d e).1.trans h) ds rfl

/-- A domain that is off and is commanded to come up waits for its parents or its turn. -/
theorem cmdUps_want {ds : List Nat} {s : State} {d : Nat} (hd : d ∈ ds) (hl : d < s.pwr.doms.length) (hoff : (domAt s d).phase = .off) :
    (domAt (ds.foldl cmdUp s) d).want = true := by
  induction ds generalizing s with
  | nil => simp at hd
  | cons a r ih =>
    by_cases hda : d = a
    · subst hda
      have hw : (domAt (cmdUp s d) d).want = true := by rw [cmdUp_off hoff, domAt_modDom _ hl]
      exact (foldl_keep (fun x => (domAt x d).phase = .off ∧ (domAt x d).want = true) cmdUp
        (fun x e h => ⟨(domAt_cmdUp x e d).1.trans h.1, (domAt_cmdUp x e d).2 h.1 h.2⟩) r
        ⟨(domAt_cmdUp s d d).1.trans hoff, hw⟩).2
    · refine ih (List.mem_of_ne_of_mem hda hd) ?_ ((domAt_cmdUp s a d).1.trans hoff)
      exact hl.trans_eq (lmod_length _ _ _).symm

theorem advance_coreHeld (w : When) (s : State) : coreHeld (advance w s) = coreHeld s := by
  unfold coreHeld
  rw [advance_domOn]
  rfl

theorem coreHeld_iff (s : State) :
    coreHeld s = true ↔ s.boot.brown = true ∨ s.tap.extest = true ∨ s.pwr.deep = true ∨ domOn s 0 = false := by
  unfold coreHeld
  simp [or_assoc]

theorem pll0Locked_held {s : State} (h : coreHeld s = true ∨ s.clk.on = true) : pll0Locked s = s := if_pos h

/-- MCLK runs and domain 2 is on; what follows commands the domains of boot step 5 to come up. -/
def pll0On (s : State) : State :=
  modDom { s with clk := { s.clk with on := true } } 2 fun x => { x with phase := .on, ups := satAdd 4095 x.ups 1 }

theorem pll0Locked_starts {s : State} (h : ¬ (coreHeld s = true ∨ s.clk.on = true)) :
    pll0Locked s = [4, 5, 6, 7, 8, 12].foldl cmdUp (pll0On s) := if_neg h

/-- 18 R482: what the lock leaves, where `pll0Locked_starts`. -/
theorem pll0Starts_eq (s : State) (hl : 13 ≤ s.pwr.doms.length) :
    let b := [4, 5, 6, 7, 8, 12].foldl cmdUp (pll0On s)
    b.clk = { s.clk with on := true } ∧ domOn b 2 = true ∧
      (∀ d ∈ [4, 5, 6, 7, 8, 12], (domAt s d).phase = .off → (domAt b d).want = true) ∧ b = { s with clk := b.clk, pwr := b.pwr } := by
  intro b
  obtain ⟨p, hp⟩ := cmdUps_pwr [4, 5, 6, 7, 8, 12] (pll0On s)
  have hclk : b.clk = { s.clk with on := true } := congrArg State.clk hp
  have hpwr : b.pwr = p := congrArg State.pwr hp
  refine ⟨hclk, ?_, fun d hd hoff => ?_, ?_⟩
  · have h2 : (domAt (pll0On s) 2).phase = .on := congrArg Dom.phase (lget_lmod_same s.pwr.doms 2 _ {} (by omega))
    have hb : (domAt b 2).phase = .on := (cmdUps_phase _ _ 2).trans h2
    unfold domOn
    rw [hb]
    rfl
  · have hne : 2 ≠ d ∧ d < 13 := by fin_cases hd <;> decide
    have hkeep : domAt (pll0On s) d = domAt s d := lget_lmod_other s.pwr.doms 2 d _ {} hne.1
    refine cmdUps_want hd ?_ (by rw [hkeep]; exact hoff)
    exact (hne.2.trans_le hl).trans_eq (lmod_length _ _ _).symm
  · rw [hclk, hpwr]
    exact hp

/-- Settles O30: PORST_N by `safArm_eq` on what it latches, a low VAON by `vaonLow_off`, the lock by `pll0Starts_eq`. -/
theorem powerOnResetAndLock : Obligations.PowerOnResetAndLock := by
  unfold Obligations.PowerOnResetAndLock
  refine ⟨fun w straps fuses s _ => ?_, fun w s => ⟨fun h => ?_, fun hclk hbr hex hdeep hon hl => ?_⟩⟩
  · have hc := safArm_cause (porstLatched (advance w s) straps fuses)
    obtain ⟨c, l, n, harm⟩ := safArm_eq (porstLatched (advance w s) straps fuses)
    rw [harm] at hc
    refine ⟨_, cmdRun_eq (f := fun s => porstRelease s straps fuses) ((porstRelease_eq _ _ _).trans harm),
      rfl, rfl, rfl, rfl, rfl, rfl, rfl, rfl, rfl, rfl, rfl, hc, rfl, _, rfl, rfl, rfl, vaonLow_off _⟩
  · refine cmdRun_eq (f := pll0Locked) (pll0Locked_held ?_)
    rw [advance_coreHeld, coreHeld_iff]
    exact h.symm
  · have hfree : ¬ (coreHeld (advance w s) = true ∨ (advance w s).clk.on = true) := by
      rw [advance_coreHeld, coreHeld_iff, show (advance w s).clk.on = s.clk.on from rfl]
      simp [hclk, hbr, hex, hdeep, hon]
    exact ⟨_, cmdRun_eq (f := pll0Locked) (pll0Locked_starts hfree), pll0Starts_eq _ (hl.trans_eq (List.length_map _).symm)⟩

end Sys2Proof.Machine
end

section
/-! PROOF. GP lines and input events, flash commands, DBG_CMD with the halts and breakpoints, and the boundary-scan port (18 R477, R478,
R480, R483, 19 R500 to R504, R509). -/

namespace Sys2Proof.Machine

/-! ### GP lines and input events (18 R477, R478, R480) -/

theorem inputEvent_line (s : State) (n : Nat) (v : Int) : inputEvent s (512 + n) v = gpLevel s n (v % 2 == 1) := by
  unfold inputEvent
  dsimp only
  rw [if_pos (by omega), Nat.add_sub_cancel_left]

theorem gpLevel_new {s : State} {n : Nat} {hi : Bool} (hn : n < 32) (ho : ownerOf s (gpBall n) = 1) (hp : ballParked s (gpBall n) = false)
    (hne : bitAt s.pins.gpin n ≠ hi) :
    gpLevel s n hi = srcEvent { s with pins := { s.pins with gpin := setBit s.pins.gpin n hi } } 3 n (b2n hi) :=
  if_pos ⟨hn, ho, by simp [hp], hne⟩

theorem gpLevel_none {s : State} {n : Nat} {hi : Bool}
    (h : ownerOf s (gpBall n) ≠ 1 ∨ ballParked s (gpBall n) = true ∨ bitAt s.pins.gpin n = hi) : gpLevel s n hi = s := by
  unfold gpLevel
  rw [if_neg]
  rintro ⟨-, ho, hp, hne⟩
  rcases h with h | h | h
  · exact h ho
  · simp [h] at hp
  · exact hne h

theorem stampEv_taken {s : State} {i : Nat} (v : Int) (hc : (lget s.pins.ins i {}).count < inMaxEv (inputsB s) i)
    (hs : (lget s.pins.ins i {}).stale = false) :
    stampEv s i v = { s with pins := { s.pins with
      evq := s.pins.evq ++ [{ idx := i, stamp := s.clk.cyc, val := v, stale := false, ovr := false }]
      ins := lmod s.pins.ins i fun y => { y with count := y.count + 1, seen := true, stale := false } } } := by
  unfold stampEv stampEvAt
  dsimp only
  rw [if_pos hc, hs]
  rfl

/-- 18 R478: past MAXEV an event is dropped and counted, and the last one that waits carries OVERRUN. -/
theorem stampEv_dropped {s : State} {i : Nat} (v : Int) (hc : inMaxEv (inputsB s) i ≤ (lget s.pins.ins i {}).count) :
    stampEv s i v = { s with pins := { s.pins with
      evq := markOver s.pins.evq i, ins := lmod s.pins.ins i fun y => { y with drops := min 65535 (y.drops + 1) } } } := by
  unfold stampEv stampEvAt
  dsimp only
  rw [if_neg (by omega)]
  rfl

/-- Settles O31: GP lines by `gpLevel_new` and `gpLevel_none`, events by `stampEv_taken` and `stampEv_dropped`. -/
theorem inputEvents : Obligations.InputEvents := by
  unfold Obligations.InputEvents
  intro w idx n s v hn u x hi
  exact ⟨fun ho hp hne => cmdRun_eq (f := fun s => inputEvent s (512 + n) v) ((inputEvent_line u n v).trans (gpLevel_new hn ho hp hne)),
    fun h => cmdRun_eq (f := fun s => inputEvent s (512 + n) v) ((inputEvent_line u n v).trans (gpLevel_none h)),
    fun hc hs => stampEv_taken (s := u) v hc hs, fun hc => stampEv_dropped (s := u) v hc,
    fun h => cmdRun_eq (f := fun s => if staleDue s idx then stampStale s idx s.clk.cyc else s) (if_neg (by simp [u, h])),
    fun h => cmdRun_eq (f := fun s => if staleDue s idx then stampStale s idx s.clk.cyc else s) (if_pos h)⟩

/-! ### Flash commands (18 R483) -/

theorem padTo_length (n : Nat) (b : Bytes) : (padTo n b).length = n := by
  unfold padTo
  simp
  omega

/-- Padding fills up with zeros. -/
theorem padTo_getD (n : Nat) (b : Bytes) {i : Nat} (h : i < n) : (padTo n b).getD i 0 = b.getD i 0 := by
  unfold padTo
  simp only [List.getD_eq_getElem?_getD]
  rw [List.getElem?_take_of_lt h]
  by_cases hb : i < b.length
  · rw [List.getElem?_append_left hb]
  · rw [List.getElem?_append_right (by omega), List.getElem?_replicate, List.getElem?_eq_none (by omega)]
    split <;> rfl

theorem flashDone_idle {s : State} (data : Bytes) (h : s.pins.flBusy = false) : flashDone s data = s := by
  unfold flashDone
  rw [h]
  rfl

/-- The data of a command that reads reach its buffer where that lies in SRAM banks 1 to 7. -/
theorem flashDone_busy {s : State} (data : Bytes) (h : s.pins.flBusy = true) :
    let a := rwGet s (Base.sys + 0x248) 0
    let n := min (bits (rwGet s (Base.sys + 0x240) 0) 12 0) 4096
    let x : State := { s with pins := { s.pins with flBusy := false } }
    flashDone s data = if bitAt (rwGet s (Base.sys + 0x240) 0) 17 = false ∧ 0x10100000 ≤ a ∧ a + n ≤ 0x10800000 then
      sramPut x (a - 0x10000000) (padTo n data) else x := by
  unfold flashDone
  rw [h]
  simp

theorem sramByte_sramPut (s : State) (off : Nat) (b : Bytes) (k : Nat) :
    sramByte (sramPut s off b) k = if off ≤ k ∧ k < off + b.length then b.getD (k - off) 0 else sramByte s k :=
  sramByte_put rfl rfl k

/-- Settles O32: `write_flash`, and where the data of a command that reads land (`sramByte_put`). -/
theorem flashCommands : Obligations.FlashCommands := by
  unfold Obligations.FlashCommands
  intro w r data s u v ctl a n
  refine ⟨fun hd hb => cmdRun_eq ((write_flash w r noOutside s hd).trans (if_pos hb)), fun hd hb => ?_,
    fun hb => cmdRun_eq (f := fun s => flashDone s data) (flashDone_idle data hb), fun hb hout => ?_, fun hb hrd hlo hhi => ?_⟩
  · refine cmdRun_eq ((write_flash w r noOutside s hd).trans ((if_neg (Bool.eq_false_iff.mp hb)).trans ?_))
    rw [rwStore_fields _ (Base.sys + 0x240) _ 0xFFFF1FFF 0 rfl (by decide)]
    dsimp only
    cases hv : bitAt r.val.toNat 15 with
    | true => rfl
    | false =>
      have hp : s.pins = { s.pins with flBusy := false } := by rw [← hb]
      rw [← hp]
      rfl
  · refine cmdRun_eq (f := fun s => flashDone s data) ((flashDone_busy (s := u) data hb).trans (if_neg ?_))
    rintro ⟨hrd, hlo, hhi⟩
    rcases hout with h | h | h
    · exact absurd (h.symm.trans hrd) (by decide)
    · exact absurd hlo (Nat.not_le.mpr h)
    · exact absurd hhi (Nat.not_le.mpr h)
  · refine ⟨_, cmdRun_eq (f := fun s => flashDone s data) ((flashDone_busy (s := u) data hb).trans (if_pos ⟨hrd, hlo, hhi⟩)), rfl,
      fun i hi => ?_, fun k hk => ?_⟩
    · refine (sramByte_sramPut _ _ _ _).trans ((if_pos ?_).trans ?_)
      · rw [padTo_length]
        exact ⟨Nat.le_add_right _ _, Nat.add_lt_add_left hi _⟩
      · exact (congrArg (List.getD _ · 0) (Nat.add_sub_cancel_left _ _)).trans (padTo_getD n data hi)
    · refine (sramByte_sramPut _ _ _ _).trans (if_neg ?_)
      rw [padTo_length]
      exact fun h => hk.elim (Nat.not_lt.mpr h.1) (Nat.not_le.mpr h.2)

/-! ### DBG_CMD, halts and breakpoints (19 R500 to R504) -/

theorem fire_dbg (s : State) (code tcode chan zone : Nat) : (fire s code tcode chan zone).dbg = s.dbg := by
  obtain ⟨l, eg, sv, q, i, h, -⟩ := fire_eq s code tcode chan zone
  rw [h]

/-- 19 R502: a request for a halt fires DEBUGHALT, and waits for the boundary unless one waits or stands already. -/
theorem haltRequest_fires (s : State) (cause : Nat) :
    (haltRequest s cause).saf = (fire s 8 0 0 0).saf ∧
      (haltRequest s cause).dbg = if s.dbg.pend ∨ s.dbg.halted then s.dbg else { s.dbg with pend := true, cause := cause } := by
  unfold haltRequest
  dsimp only
  rw [fire_dbg]
  split
  · exact ⟨rfl, fire_dbg s 8 0 0 0⟩
  · exact ⟨rfl, rfl⟩

/-- 19 R504: a step of the halted sequencer fires DEBUGHALT too. -/
theorem tstepNow_fires {s : State} {n : Nat} (hh : s.dbg.halted = true) (hn : 0 < n) :
    (tstepNow s n).dbg = { s.dbg with left := n } ∧ (tstepNow s n).saf.dark = true := by
  unfold tstepNow
  rw [if_pos ⟨hh, hn⟩]
  exact ⟨fire_dbg _ 8 0 0 0, (fire_fired (Marked.refl _) 8 0 0 0).1⟩

theorem tstepNow_none {s : State} {n : Nat} (h : s.dbg.halted = false ∨ n = 0) : tstepNow s n = s := by
  refine if_neg ?_
  rintro ⟨hh, hn⟩
  rcases h with h | h
  · simp [h] at hh
  · omega

/-- 19 R500: port 1 alone commands the block. -/
theorem write_dbgCmd_port {w : When} {r : Wr} {o : Outside} {s b : State} (hd : domOn s 59 = true) (h1 : r.src = 1)
    (h : dbgCmd (advance w s) r.val.toNat o.view = b) : cmdRun w (writeReg Base.dbg r o) s = .next (endCmd s b) :=
  cmdRun_eq (((write_dbgCmd w r o s hd).trans (if_pos h1)).trans h)

/-- Settles O58: `write_dbgCmd`, with each OP of `dbgCmd`; the halts by `haltRequest_fires`. -/
theorem debugCommands : Obligations.DebugCommands := by
  unfold Obligations.DebugCommands
  intro w r h s hd u v all stopped
  refine ⟨fun hs c hc => ?_, fun hs hop => ?_, fun hs hop => ?_, fun hs hop => ?_, fun hs hop => ?_, fun hs hop => ?_,
    fun hs hop hh hn => ?_, fun hs hop hh => ?_, fun hh hm => ?_, fun hm => ?_, ?_, fun hc hm hp hh => ?_, fun hm => ?_⟩
  · have hsame : ∀ o, cmdRun w (writeReg Base.dbg r o) s = .next (endCmd s u) := fun o =>
      cmdRun_eq ((write_dbgCmd w r o s hd).trans (if_neg hs))
    simp only [all, List.mem_cons, List.not_mem_nil, or_false] at hc
    rcases hc with rfl | rfl | rfl | rfl | rfl | rfl
    all_goals exact hsame _
  · refine write_dbgCmd_port hd hs ?_
    unfold dbgCmd
    rw [hop]
    rfl
  · refine write_dbgCmd_port hd hs ?_
    unfold dbgCmd
    rw [hop]
    rfl
  · refine write_dbgCmd_port hd hs ?_
    unfold dbgCmd
    rw [hop]
    rfl
  · obtain ⟨hsaf, hdbg⟩ := haltRequest_fires u 1
    obtain ⟨hdark, -, -, hcnt, -⟩ := fire_fired (Marked.refl u) 8 0 0 0
    refine ⟨haltRequest u 1, write_dbgCmd_port hd hs ?_, by rw [hsaf, hdark], by rw [hsaf, hcnt]; rfl, ?_, fun hp hh => ?_⟩
    · unfold dbgCmd
      rw [hop]
      rfl
    · rw [hdbg]
      split
      next hph => exact hph
      next => exact .inl rfl
    · rw [hdbg, if_neg (fun h => h.elim (Bool.eq_false_iff.mp hp) (Bool.eq_false_iff.mp hh))]
  · refine write_dbgCmd_port hd hs ?_
    unfold dbgCmd
    rw [hop]
    rfl
  · obtain ⟨hdbg, hdark⟩ := tstepNow_fires (s := u) hh hn
    refine ⟨tstepNow u (bits v 31 16), write_dbgCmd_port hd hs ?_, hdbg, hdark⟩
    unfold dbgCmd
    rw [hop]
    rfl
  · refine write_dbgCmd_port hd hs ?_
    unfold dbgCmd
    rw [hop]
    exact tstepNow_none hh
  · refine cmdRun_eq (f := fun s => if domOn s 59 && !s.dbg.hkpHalt && bpMatch s h.pc.toNat then hkpStop s 2 (hkpView h) else s) (if_pos ?_)
    rw [advance_domOn, hd]
    simpa using ⟨hh, hm⟩
  · refine cmdRun_eq (f := fun s => if domOn s 59 && !s.dbg.hkpHalt && bpMatch s h.pc.toNat then hkpStop s 2 (hkpView h) else s) (if_neg ?_)
    rw [advance_domOn, hd, Bool.true_and, Bool.and_eq_true, Bool.not_eq_true']
    rintro ⟨hh, hb⟩
    rcases hm with hm | hm
    · exact absurd (hm.symm.trans hb) (by decide)
    · exact absurd (hm.symm.trans hh) (by decide)
  · exact cmdRun_eq (f := fun s => if s.dbg.hkpStep = 0 then s else hkpStop s 4 (hkpView h)) rfl
  · obtain ⟨hsaf, hdbg⟩ := haltRequest_fires u 3
    obtain ⟨hdark, -⟩ := fire_fired (Marked.refl u) 8 0 0 0
    refine ⟨haltRequest u 3, cmdRun_eq (f := fun s => if domOn s 59 && s.clk.on && bpSlotHit s then haltRequest s 3 else s) (if_pos ?_),
      hdbg.trans (if_neg ?_), by rw [hsaf, hdark]⟩
    · rw [advance_domOn, hd, Bool.true_and, Bool.and_eq_true]
      exact ⟨hc, hm⟩
    · exact fun h => h.elim (Bool.eq_false_iff.mp hp) (Bool.eq_false_iff.mp hh)
  · refine cmdRun_eq (f := fun s => if domOn s 59 && s.clk.on && bpSlotHit s then haltRequest s 3 else s) (if_neg ?_)
    rw [advance_domOn, hd, Bool.true_and, Bool.and_eq_true]
    rintro ⟨hc, hb⟩
    rcases hm with hm | hm
    · exact absurd (hm.symm.trans hc) (by decide)
    · exact absurd (hm.symm.trans hb) (by decide)

/-! ### The boundary-scan port (19 R509) -/

theorem extestAllowed_iff (s : State) : extestAllowed s = true ↔ benchLow s = true ∧ dbgLock s = false := by
  unfold extestAllowed
  simp

/-- EXTEST that takes effect resets the core. -/
theorem tapLoad_starts {s : State} {ir : BitVec 4} (h : (ir == 0 && extestAllowed s) = true) (he : s.tap.extest = false) :
    tapLoad s ir = { resetCore s 3 with tap := { ir := ir, extest := true } } := by
  unfold tapLoad
  rw [h, he]
  rfl

theorem tapLoad_keeps {s : State} {ir : BitVec 4} (h : (ir == 0 && extestAllowed s) = true → s.tap.extest = true) :
    tapLoad s ir = { s with tap := { ir := ir, extest := ir == 0 && extestAllowed s } } := by
  unfold tapLoad
  refine if_neg ?_
  rintro ⟨ha, hx⟩
  simp [h ha] at hx

/-- Settles O59: `tapLoad` where EXTEST may take effect, and where not. -/
theorem boundaryScan : Obligations.BoundaryScan := by
  unfold Obligations.BoundaryScan
  intro w ir s u ext
  have hext : (ir == 0 && extestAllowed u) = true ↔ ext := by
    rw [Bool.and_eq_true, beq_iff_eq, extestAllowed_iff]
    exact Iff.rfl
  refine ⟨rfl, rfl, fun h => ?_, fun h he => ?_, fun h he => ?_⟩
  · have hno : (ir == 0 && extestAllowed u) = false := Bool.eq_false_iff.mpr (mt hext.mp h)
    refine cmdRun_eq (f := fun s => tapLoad s ir) ((tapLoad_keeps (s := u) fun hy => absurd (hext.mp hy) h).trans ?_)
    rw [hno]
  · refine cmdRun_eq (f := fun s => tapLoad s ir) ((tapLoad_keeps (s := u) fun _ => he).trans ?_)
    rw [hext.mpr h]
  · obtain ⟨hcause, -, hstep, -, happ, -, -, -, -, hdark, -⟩ := resetCore_restarted u 3
    exact ⟨_, cmdRun_eq (f := fun s => tapLoad s ir) (tapLoad_starts (s := u) (hext.mpr h) he), rfl, hcause, hstep, hdark, happ⟩

end Sys2Proof.Machine
end

section
/-! PROOF. OTP programming, imports and record writes, and calibration's other commands (12 R317, R322, R323, R331, R332, R335, R337). -/

namespace Sys2Proof.Machine

/-! ### OTP programming (12 R317) -/

theorem otpProgDone_none {s : State} (v : Nat) (h : s.cal.prog = none) : otpProgDone s v = s := by
  unfold otpProgDone
  rw [h]

theorem otpProgDone_some {s : State} (v : Nat) {a x : Nat} (h : s.cal.prog = some (a, x)) :
    otpProgDone s v = { s with cal := { s.cal with
      array := patch s.cal.array a (leBytes 4 (otpWord s.cal.array a ||| (v &&& x)))
      prog := none, progErr := s.cal.progErr || (v &&& x) != x } } := by
  unfold otpProgDone
  rw [h]
  rfl

/-! ### Record writes (12 R322) -/

/-- The start of a record's write touches the NVM and what CAL shows of it. -/
theorem nvmStart_keeps (s : State) :
    (nvmStart s).cal.wr = s.cal.wr ∧ (nvmStart s).cal.impSt = s.cal.impSt ∧ (nvmStart s).cal.impBuf = s.cal.impBuf ∧
      (nvmStart s).cal.impKind = s.cal.impKind ∧ (nvmStart s).mem.sram = s.mem.sram := by
  unfold nvmStart
  split
  · exact ⟨rfl, rfl, rfl, rfl, rfl⟩
  · exact ⟨rfl, rfl, rfl, rfl, rfl⟩

theorem nvmQueue_keeps (s : State) (k : RecWrite) :
    (nvmQueue s k).cal.wr = s.cal.wr ++ [k] ∧ (nvmQueue s k).cal.impSt = s.cal.impSt ∧ (nvmQueue s k).cal.impBuf = s.cal.impBuf ∧
      (nvmQueue s k).cal.impKind = s.cal.impKind ∧ (nvmQueue s k).mem.sram = s.mem.sram := by
  unfold nvmQueue
  dsimp only
  split
  · exact nvmStart_keeps _
  · exact ⟨rfl, rfl, rfl, rfl, rfl⟩

/-- The front copy's write has ended: its bytes stand where it succeeded, and it is reported. -/
def nvmEnded (s : State) (ok : Bool) (k : RecWrite) (rest : List RecWrite) : State :=
  let s := if ok then nvmPut s (slotAddr k.kind s.cal.nvmSlot)
    (frameRec k.kind s.cal.nvmSlot (newGen s k) k.temp k.run k.tc k.body) else s
  recStatus { s with cal := { s.cal with
    wr := rest, nvmSt := if ok then 2 else 3
    impSt := if k.imp then (if ok then 2 else 3) else s.cal.impSt
    impCode := if k.imp then (if ok then 0 else 7) else s.cal.impCode } }

theorem nvmDone_none {s : State} (ok : Bool) (h : s.cal.wr = []) : nvmDone s ok = s := by
  unfold nvmDone
  rw [h]

theorem nvmDone_cons {s : State} {k : RecWrite} {rest : List RecWrite} (ok : Bool) (h : s.cal.wr = k :: rest) :
    nvmDone s ok = if rest.isEmpty then nvmEnded s ok k rest else nvmStart (nvmEnded s ok k rest) := by
  unfold nvmDone
  rw [h]
  rfl

theorem nvmEnded_spec (s : State) (ok : Bool) (k : RecWrite) (rest : List RecWrite) :
    (nvmEnded s ok k rest).cal.wr = rest ∧
      (nvmEnded s ok k rest).cal.impSt = (if k.imp then (if ok then 2 else 3) else s.cal.impSt) ∧
      (nvmEnded s ok k rest).mem.sram = s.mem.sram ∧ (nvmEnded s ok k rest).cal.nvmSt = (if ok then 2 else 3) ∧
      (nvmEnded s ok k rest).mem.nvm = if ok then memPutAll (some 0xFF) s.mem.nvm (slotAddr k.kind s.cal.nvmSlot)
        (frameRec k.kind s.cal.nvmSlot (newGen s k) k.temp k.run k.tc k.body) else s.mem.nvm := by
  unfold nvmEnded recStatus nvmPut
  cases ok
  · simp only [Bool.false_eq_true, ↓reduceIte, and_self]
  · simp only [↓reduceIte, and_self]

/-- What the end of the front copy's write leaves, whether another copy follows it or not. -/
theorem nvmDone_spec {s : State} {k : RecWrite} {rest : List RecWrite} (ok : Bool) (h : s.cal.wr = k :: rest) :
    (nvmDone s ok).cal.wr = rest ∧ (nvmDone s ok).cal.impSt = (if k.imp then (if ok then 2 else 3) else s.cal.impSt) ∧
      (nvmDone s ok).mem.sram = s.mem.sram := by
  obtain ⟨hwr, himp, hsram, -, -⟩ := nvmEnded_spec s ok k rest
  obtain ⟨hwr', himp', -, -, hsram'⟩ := nvmStart_keeps (nvmEnded s ok k rest)
  rw [nvmDone_cons ok h]
  split
  · exact ⟨hwr, himp, hsram⟩
  · exact ⟨hwr'.trans hwr, himp'.trans himp, hsram'.trans hsram⟩

/-! ### Imports (12 R323) -/

theorem importDoneNow_none {s : State} (h : s.cal.impBuf = none) : importDoneNow s = s := by
  unfold importDoneNow
  rw [h]

theorem importDoneNow_rejected {s : State} {c : Bytes} (h1 : s.cal.impSt = 1) (h : s.cal.impBuf = some c) (hc : importCode s c ≠ 0) :
    importDoneNow s = { s with cal := { s.cal with impBuf := none, impKind := u8 c 4 % 16, impSt := 3, impCode := importCode s c } } := by
  unfold importDoneNow
  rw [h]
  dsimp only
  rw [if_neg (not_not_intro h1), if_pos hc]

theorem importDoneNow_accepted {s : State} {c : Bytes} (h1 : s.cal.impSt = 1) (h : s.cal.impBuf = some c) (hc : importCode s c = 0) :
    importDoneNow s = nvmQueue { s with cal := { s.cal with impBuf := none, impKind := u8 c 4 % 16 } }
      { kind := u8 c 4, f := u8 c 5 == 0, run := 0, tc := 0, temp := i16 c 0x10, body := recBody c, imp := true } := by
  unfold importDoneNow
  rw [h]
  dsimp only
  rw [if_neg (not_not_intro h1), if_neg (not_not_intro hc)]

/-- Settles O44: `write_otpProg` and `write_import`, the two outcomes of an import that has been read, and `nvmDone_spec`. -/
theorem otpAndRecords : Obligations.OtpAndRecords := by
  unfold Obligations.OtpAndRecords
  intro w r readback ok s u v a
  refine ⟨fun hd => cmdRun_eq ((write_otpProg w r noOutside s hd).trans ?_),
    fun h => cmdRun_eq (f := fun s => otpProgDone s readback.toNat) (otpProgDone_none _ h), fun k x h => ?_, fun hd hb h1 => ?_, fun hd hb h1 => ?_,
    fun h => cmdRun_eq (f := importDoneNow) (importDoneNow_none h),
    fun c h1 h => ⟨fun hc => cmdRun_eq (f := importDoneNow) (importDoneNow_rejected (s := u) h1 h hc), fun hc => ?_⟩,
    fun h => cmdRun_eq (f := fun s => nvmDone s ok) (nvmDone_none ok h), fun k rest h => ?_⟩
  · unfold otpProg
    simp only [Bool.not_eq_true']
    rfl
  · refine ⟨_, cmdRun_eq (f := fun s => otpProgDone s readback.toNat) (otpProgDone_some (s := u) _ h), rfl, ?_, rfl, rfl, rfl⟩
    rw [Bool.or_eq_true, bne_iff_ne]
    exact Iff.rfl
  · exact cmdRun_eq ((write_import w r noOutside s hd).trans ((if_pos hb).trans (if_pos h1)))
  · exact ⟨_, cmdRun_eq ((write_import w r noOutside s hd).trans ((if_pos hb).trans (if_neg h1))), rfl, rfl⟩
  · obtain ⟨hwr, himp, hbuf, hkind, hsram⟩ := nvmQueue_keeps { u with cal := { u.cal with impBuf := none, impKind := u8 c 4 % 16 } }
      { kind := u8 c 4, f := u8 c 5 == 0, run := 0, tc := 0, temp := i16 c 0x10, body := recBody c, imp := true }
    exact ⟨_, _, cmdRun_eq (f := importDoneNow) (importDoneNow_accepted (s := u) h1 h hc), himp.trans h1, hbuf, hkind, hwr, rfl, rfl, rfl, hsram⟩
  · obtain ⟨hwr, himp, hsram⟩ := nvmDone_spec (s := u) ok h
    refine ⟨nvmDone u ok, rfl, hwr, himp, hsram, fun hrest => ?_⟩
    obtain ⟨-, -, -, hst, hnvm⟩ := nvmEnded_spec u ok k rest
    rw [nvmDone_cons (s := u) ok h, hrest]
    rw [hrest] at hst hnvm
    exact ⟨hst, hnvm⟩

/-! ### STEP words and a run's timeout (12 R331, R332, R335) -/

/-- 12 R332: whether the STEP word of the running tick converts for a run, field by field. -/
theorem calConverts_iff (s : State) : calConverts s = true ↔ s.cal.run.st = 1 ∧ s.cal.run.inTick = true ∧ s.cal.run.code ≠ 4 ∧
    ¬ (s.cal.run.code = 3 ∧ s.cal.run.active % 10 < 2) := by
  unfold calConverts
  simp [and_assoc, imp_iff_not_or]

/-- Only a lead's conversions go into a bundle, and they change the twin's state alone. -/
theorem bundleRaws_twn (s : State) (raws : List Nat) :
    ∃ t, bundleRaws s raws = { s with twn := t } ∧ t.st = s.twn.st ∧ (isLead s = false → t = s.twn) := by
  unfold bundleRaws
  split
  next h => exact ⟨_, rfl, rfl, fun hl => by simp [hl] at h⟩
  next => exact ⟨_, rfl, rfl, fun _ => rfl⟩

/-- The conversions that a STEP word adds to the run's sums: those it takes, in a shadow those that the bundle brought. -/
theorem calStepNow_taken {s : State} (raws : List Nat) (h : calConverts s = true) :
    calStepNow s raws = { s with cal := { s.cal with run := { s.cal.run with
      sums := lmod s.cal.run.sums (if s.cal.run.code = 3 ∧ 10 ≤ s.cal.run.active then 1 else 0)
        (· + ((if shadowRun s then s.cal.raws else raws).take 16).foldl (fun (a : Int) y => a + (y : Nat)) 0)
      counts := lmod s.cal.run.counts (if s.cal.run.code = 3 ∧ 10 ≤ s.cal.run.active then 1 else 0)
        fun z => z + ((if shadowRun s then s.cal.raws else raws).take 16).length } } } := if_pos h

theorem calStepNow_none {s : State} (raws : List Nat) (h : ¬ calConverts s = true) : calStepNow s raws = s := if_neg h

/-- Settles O45: a STEP word by `calStepNow_taken` and `bundleRaws_twn`; the others are their own functions. -/
theorem calibrationCommands : Obligations.CalibrationCommands := by
  unfold Obligations.CalibrationCommands
  intro w d src raws r x s u run got sum
  refine ⟨?_, rfl, fun hd => ?_, fun hd => cmdRun_eq (write_ratioSel w r noOutside s hd)⟩
  · intro hx i taken
    have hact := actDisp_some (fun s _ => calStepNow (if calConverts s then bundleRaws s raws else s) raws) hx
    have htaken : calConverts (doneDisp u d) = true ↔ taken := calConverts_iff _
    by_cases ht : taken
    · obtain ⟨t, hb, hst, ht'⟩ := bundleRaws_twn (doneDisp u d) raws
      have hshadow : shadowRun { doneDisp u d with twn := t } = shadowRun s := by
        unfold shadowRun
        rw [show ({ doneDisp u d with twn := t } : State).twn.st = s.twn.st from hst]
      have hstep := calStepNow_taken (s := { doneDisp u d with twn := t }) raws (htaken.mpr ht)
      rw [hshadow] at hstep
      rw [if_pos (htaken.mpr ht), hb, hstep] at hact
      exact ⟨t, (cmdRun_eq hact).trans (by rw [if_pos ht]; rfl), fun h => h.elim ht' (absurd ht)⟩
    · rw [if_neg (mt htaken.mp ht), calStepNow_none raws (mt htaken.mp ht)] at hact
      exact ⟨s.twn, (cmdRun_eq hact).trans (by rw [if_neg ht]; rfl), fun _ => rfl⟩
  · exact cmdRun_eq (f := fun s => if domsOn s (targetDoms s (.reg (Base.cal + 0x78)) 4) then (regRead s src (Base.cal + 0x78)).2 else s)
      (if_pos (domsOn_reg w s (Base.cal + 0x78) (by rw [show regDom (Base.cal + 0x78) = 58 from rfl, hd])))

end Sys2Proof.Machine
end

section
/-! PROOF. The watchdog: its count, its keys, its warning and its bites (19 R488, R491 to R493, R496). -/

namespace Sys2Proof.Machine

/-! ### What time leaves of the watchdog -/

/-- 19 R488: firmware's watchdog counts the cycles in which it runs and the HKP is not halted. -/
theorem advance_wdgCount (w : When) (s : State) (hb : bootRomRuns s = false) : (advance w s).wdg.count =
    if s.wdg.run = true ∧ s.dbg.hkpHalt = false then s.wdg.count + (if s.clk.on then w.dt else 0) else s.wdg.count := by
  split
  next h => exact congrArg Wdg.count (wdgTime_unserviced ((wdgCounts_iff s).mpr h) (.inl hb))
  next h => exact congrArg Wdg.count (wdgTime_stands _ s (Bool.eq_false_iff.mpr (mt (wdgCounts_iff s).mp h)))

theorem tcReg_advance (w : When) (s : State) : tcReg (advance w s) = tcReg s := by
  unfold tcReg
  rfl

/-! ### Bites (19 R493, R496) -/

/-- The evidence is all that a reset of the core leaves of the watchdog (20 R518). -/
theorem resetCore_wdg (s : State) (cause : Nat) : (resetCore s cause).wdg = wdgKept s.wdg := by
  obtain ⟨sa, sv, p, h, -⟩ := coreReset_eq s
  unfold resetCore
  rw [h]
  rfl

theorem bite_wdg (s : State) (cause pc : Nat) : (bite s cause pc).wdg = wdgKept (wdgEvidence s cause pc).wdg := resetCore_wdg _ 2

theorem bite_resets (s : State) (cause pc : Nat) :
    (bite s cause pc).boot.cause = 2 ∧ (bite s cause pc).boot.step = 5 ∧ (bite s cause pc).saf.dark = true := by
  obtain ⟨hcause, -, hstep, -, -, -, -, -, -, hdark, -⟩ := resetCore_restarted (wdgEvidence s cause pc) 2
  exact ⟨hcause, hstep, hdark⟩

/-- 19 R493: a bite of a running watchdog keeps its cause and the HKP's PC. -/
theorem bite_evidence (s : State) {cause : Nat} (pc : Nat) (h : cause ≠ 4) :
    (bite s cause pc).wdg.evCause = cause ∧ (bite s cause pc).wdg.evPc = pc ∧ (bite s cause pc).wdg.pcv = true := by
  rw [bite_wdg]
  unfold wdgEvidence
  rw [beq_eq_false_iff_ne.mpr h]
  exact ⟨rfl, rfl, rfl⟩

/-- 19 R496: a bite on CLKLOSS keeps what AON alone holds: the last boundary. -/
theorem bite_clkloss (s : State) (pc : Nat) :
    (bite s 4 pc).wdg.evCause = 4 ∧ (bite s 4 pc).wdg.pcv = false ∧ (bite s 4 pc).wdg.evTc = tcReg s ∧ (bite s 4 pc).wdg.evCyc = 0 ∧
      (bite s 4 pc).wdg.evSvTc = tcReg s ∧ (bite s 4 pc).wdg.evSv = 0 := by
  rw [bite_wdg]
  exact ⟨rfl, rfl, rfl, rfl, rfl, rfl⟩

/-- Every bite is counted, and drives WDOUT_N. -/
theorem bite_counts (s : State) (cause pc : Nat) :
    (bite s cause pc).wdg.evCount = min 255 (s.wdg.evCount + 1) ∧ (bite s cause pc).wdg.outAt = some s.clk.aon ∧
      (bite s cause pc).wdg.run = false := by
  rw [bite_wdg]
  exact ⟨rfl, rfl, rfl⟩

/-! ### Keys (19 R491) -/

theorem wdgForget_none {s : State} (h : s.wdg.key = none) : wdgForget s = s := by
  unfold wdgForget
  rw [h]

theorem wdgForget_some {s : State} {t : Nat} (h : s.wdg.key = some t) :
    wdgForget s = if t + 256 < s.clk.mclk then { s with wdg := { s.wdg with key := none } } else s := by
  unfold wdgForget
  rw [h]

theorem wdgForget_fresh {s : State} {t : Nat} (h : s.wdg.key = some t) (ht : s.clk.mclk ≤ t + 256) : wdgForget s = s :=
  (wdgForget_some h).trans (if_neg (Nat.not_lt.mpr ht))

theorem wdgKey_first {s : State} (hr : s.wdg.run = true) (hk : s.wdg.key = none) :
    wdgKey s 0xC35A = ({ s with wdg := { s.wdg with key := some s.clk.mclk } }, 0) := by
  unfold wdgKey
  rw [hr, wdgForget_none hk]
  simp [hk]

theorem wdgKey_firstWrong {s : State} {v : Nat} (hr : s.wdg.run = true) (hk : s.wdg.key = none) (hv : v ≠ 0xC35A) : wdgKey s v = (s, 3) := by
  unfold wdgKey
  rw [hr, wdgForget_none hk]
  simp [hk, hv]

theorem wdgKey_second {s : State} {t : Nat} (hr : s.wdg.run = true) (hk : s.wdg.key = some t) (ht : s.clk.mclk ≤ t + 256)
    (hw : s.wdg.window ≤ s.wdg.count) (hc : s.wdg.count < s.wdg.timeout) :
    wdgKey s 0x5AC3 = ({ s with wdg := { s.wdg with count := 0, key := none, svTc := tcReg s, svCyc := s.clk.cyc } }, 0) := by
  unfold wdgKey
  rw [hr, wdgForget_fresh hk ht]
  simp [hk, Nat.not_le.mpr hc, Nat.not_lt.mpr hw]

theorem wdgKey_early {s : State} {t : Nat} (hr : s.wdg.run = true) (hk : s.wdg.key = some t) (ht : s.clk.mclk ≤ t + 256)
    (hw : s.wdg.count < s.wdg.window) (hc : s.wdg.count < s.wdg.timeout) : wdgKey s 0x5AC3 = (s, 2) := by
  unfold wdgKey
  rw [hr, wdgForget_fresh hk ht]
  simp [hk, Nat.not_le.mpr hc, hw]

/-- A write of WDG_SERVICE by the HKP that brings no bite, and one that does. -/
theorem service_takes {w : When} {r : Wr} {pc : Word} {s b : State} (hd : domOn s 8 = true) (hs : r.src = 0)
    (h : wdgKey (advance w s) r.val.toNat = (b, 0)) : exec (.wdgService w r pc) s = .next (endCmd s b) := by
  refine cmdRun_eq (((write_wdgKey w r _ s hd).trans (if_pos hs)).trans ?_)
  rw [h]
  exact if_pos rfl

theorem service_bites {w : When} {r : Wr} {pc : Word} {s : State} {k : Nat} (hd : domOn s 8 = true) (hs : r.src = 0)
    (h : wdgKey (advance w s) r.val.toNat = (advance w s, k)) (hk : k ≠ 0) :
    exec (.wdgService w r pc) s = .next (endCmd s (bite (advance w s) k pc.toNat)) := by
  refine cmdRun_eq (((write_wdgKey w r _ s hd).trans (if_pos hs)).trans ?_)
  rw [h]
  exact if_neg hk

/-- Settles O56: the keys by the cases of `wdgKey`, the bites by `bite_wdg` and `bite_resets`. -/
theorem watchdogServiceAndBite : Obligations.WatchdogServiceAndBite := by
  unfold Obligations.WatchdogServiceAndBite
  intro w r pc s u v
  obtain ⟨hrun, htimeout, hwindow, hwarn, hev⟩ := advance_wdgConfig w s
  refine ⟨advance_wdgCount w s, fun hd h => ?_, fun hd hs hr hk hv => ?_, fun t hd hs hr hk ht hv hw hc => ?_, fun hd hs hr hk hv => ?_,
    fun t hd hs hr hk ht hv hw hc => ?_, fun t hk => cmdRun_eq (f := wdgForget) (wdgForget_some hk), fun hr hw hc => ?_, fun hr => ?_, fun hc => ?_,
    fun hr hc => ?_, fun hc => ?_⟩
  · refine cmdRun_eq ((write_wdgKey w r _ s hd).trans ?_)
    split
    next hs =>
      have hr : u.wdg.run = false := hrun.trans (h.resolve_left (not_not_intro hs))
      have hkey : wdgKey u v = (u, 0) := if_pos (by simp [hr])
      rw [show wdgKey (advance w s) r.val.toNat = _ from hkey]
      exact if_pos rfl
    next => rfl
  · refine service_takes hd hs ?_
    rw [show r.val.toNat = _ from hv]
    exact wdgKey_first (hrun.trans hr) hk
  · refine service_takes hd hs ?_
    rw [show r.val.toNat = _ from hv]
    exact wdgKey_second (hrun.trans hr) hk ht (hwindow.trans_le hw) (hc.trans_eq htimeout.symm)
  · obtain ⟨hcause, hpc, -⟩ := bite_evidence u pc.toNat (cause := 3) (by decide)
    obtain ⟨hres, -, hdark⟩ := bite_resets u 3 pc.toNat
    exact ⟨bite u 3 pc.toNat, service_bites hd hs (wdgKey_firstWrong (hrun.trans hr) hk hv) (by decide), hcause, hpc, hres, hdark⟩
  · obtain ⟨hcause, hpc, -⟩ := bite_evidence u pc.toNat (cause := 2) (by decide)
    obtain ⟨hres, -, hdark⟩ := bite_resets u 2 pc.toNat
    have hkey : wdgKey u r.val.toNat = (u, 2) := by
      rw [show r.val.toNat = _ from hv]
      exact wdgKey_early (hrun.trans hr) hk ht (hw.trans_eq hwindow.symm) (hc.trans_eq htimeout.symm)
    exact ⟨bite u 2 pc.toNat, service_bites hd hs hkey (by decide), hcause, hpc, hres, hdark⟩
  · refine cmdRun_eq (f := wdgWarnNow) (if_pos ?_)
    rw [hrun, hwarn, htimeout]
    exact ⟨hr, hw, hc⟩
  · refine cmdRun_eq (f := fun s => if s.wdg.run ∧ s.wdg.timeout ≤ s.wdg.count then bite s 1 pc.toNat else s) (if_neg ?_)
    rw [hrun, hr]
    simp
  · exact cmdRun_eq (f := fun s => if bitAt s.saf.cond 7 then bite s 4 0 else s) (if_neg (Bool.eq_false_iff.mp hc))
  · obtain ⟨hcause, hpc, hpcv⟩ := bite_evidence u pc.toNat (cause := 1) (by decide)
    obtain ⟨hres, hstep, hdark⟩ := bite_resets u 1 pc.toNat
    obtain ⟨hcount, hout, hstop⟩ := bite_counts u 1 pc.toNat
    refine ⟨bite u 1 pc.toNat, cmdRun_eq (f := fun s => if s.wdg.run ∧ s.wdg.timeout ≤ s.wdg.count then bite s 1 pc.toNat else s) (if_pos ?_),
      hcause, hpc, hpcv, ?_, hout, hres, hstep, hdark, hstop⟩
    · rw [hrun, htimeout]
      exact ⟨hr, hc⟩
    · rw [hcount, hev]
  · obtain ⟨hres, hstep, hdark⟩ := bite_resets u 4 0
    obtain ⟨hcause, hpcv, htc, hcyc, hsv, hsvc⟩ := bite_clkloss u 0
    obtain ⟨hcount, hout, -⟩ := bite_counts u 4 0
    rw [tcReg_advance] at htc hsv
    rw [hev] at hcount
    exact ⟨bite u 4 0, cmdRun_eq (f := fun s => if bitAt s.saf.cond 7 then bite s 4 0 else s) (if_pos hc), hcause, hpcv, htc, hcyc, hsv, hsvc, hcount, hout,
      hres, hstep, hdark⟩

end Sys2Proof.Machine
end

section
/-! PROOF. The chain ports: frames that come in and go out, PTP, chain boot and the links (15 R392 to R406). -/

namespace Sys2Proof.Machine

/-! ### Fixed words -/

theorem unitAct_some {s : State} {d kind op u n : Nat} {x : Disp} (f : State → Nat → Disp → State)
    (h : openUnit s d kind op u n = some x) : unitAct d kind op u n f s = f s d x := by
  unfold unitAct
  rw [h]

/-- 05 R149: a fixed read changes no more than the faults and the degradation of the tick, and the count of DOMAIN_OFF. -/
theorem fixedGet_frame (s : State) (unit : Nat) (word : Option Nat) (fa n : Nat) :
    ∃ t f, (fixedGet s unit word fa n).1 = { s with tsq := t, fab := f } := by
  have hguard : ∃ t f, fixedGuard s unit word fa n = { s with tsq := t, fab := f } := by
    unfold fixedGuard
    dsimp only
    split
    · exact ⟨_, _, rfl⟩
    · exact ⟨_, _, rfl⟩
  obtain ⟨t, f, hguard⟩ := hguard
  unfold fixedGet
  dsimp only
  rw [hguard]
  split
  · exact ⟨_, _, rfl⟩
  · exact ⟨_, _, rfl⟩

theorem fixedGet_port (s : State) (unit : Nat) (word : Option Nat) (fa n q : Nat) : portAt (fixedGet s unit word fa n).1 q = portAt s q := by
  obtain ⟨t, f, h⟩ := fixedGet_frame s unit word fa n
  rw [h]
  rfl

/-! ### Frames that come in (15 R392, R393, R401) -/

theorem chainReceive_down {s : State} {p : Nat} (f : ChainFrame) (h : (portAt s p).link = false) : chainReceive s p f = s :=
  if_pos (by simp [h])

/-- 15 Table 15-3: a frame on a link that is up is counted first. -/
def frameCounted (s : State) (p : Nat) : State := modPort s p fun y => { y with rxfr := y.rxfr + 1 }

/-- A frame that is whole and of a length that Ethernet allows. -/
def FrameGood (f : ChainFrame) : Prop := f.fcsOk = true ∧ 64 ≤ f.bytes.length ∧ f.bytes.length ≤ 9216

section
variable {s : State} {p : Nat} {f : ChainFrame}

theorem chainReceive_damaged (hl : (portAt s p).link = true) (hg : ¬ FrameGood f) :
    chainReceive s p f = modPort (frameCounted s p) p fun y => { y with fcs := satAdd 255 y.fcs 1 } := by
  unfold chainReceive
  dsimp only
  rw [if_neg (by simp [hl]), if_pos]
  · rfl
  · by_contra hc
    simp only [Bool.not_eq_true', not_or, Bool.not_eq_false, Nat.not_lt] at hc
    exact hg hc

theorem frameGood_passes (hg : FrameGood f) : ¬ ((!f.fcsOk) = true ∨ f.bytes.length < 64 ∨ 9216 < f.bytes.length) := by
  obtain ⟨hf, hlo, hhi⟩ := hg
  simp only [hf, Bool.not_true, Bool.false_eq_true, false_or, not_or, Nat.not_lt]
  exact ⟨hlo, hhi⟩

theorem chainReceive_control (hl : (portAt s p).link = true) (hg : FrameGood f) (he : (ethHdr f.bytes).etype = 0x8808) :
    chainReceive s p f = modPort (frameCounted s p) p fun y => { y with ctrl := satAdd 255 y.ctrl 1 } := by
  unfold chainReceive
  dsimp only
  rw [if_neg (by simp [hl]), if_neg (frameGood_passes hg), if_pos he]
  rfl

/-- 15 R396, R401: a frame for this station. -/
theorem chainReceive_own (hl : (portAt s p).link = true) (hg : FrameGood f) (h1 : (ethHdr f.bytes).etype ≠ 0x8808)
    (h2 : (ethHdr f.bytes).etype ≠ 0x88F7) (h3 : (ethHdr f.bytes).etype ≠ 0x88B5)
    (hb : isBootData (frameCounted s p) f.bytes (ethHdr f.bytes) = false) (hm : f.bytes.take 6 = stationMac (frameCounted s p)) :
    chainReceive s p f = if vidOk (chainB s) (ethHdr f.bytes) then ringRx (frameCounted s p) p f.bytes (ethHdr f.bytes) f.ts
      else modPort (frameCounted s p) p fun y => { y with vid := satAdd 255 y.vid 1 } := by
  unfold frameCounted at hb hm
  unfold chainReceive
  dsimp only
  rw [if_neg (by simp [hl]), if_neg (frameGood_passes hg), if_neg h1, if_neg h2, hb, if_neg Bool.false_ne_true, if_neg h3, if_pos hm]
  rfl

end

/-- Settles O50: the rows of Table 15-3 that a frame can meet before it is forwarded. -/
theorem chainReceives : Obligations.ChainReceive := by
  unfold Obligations.ChainReceive
  intro w p f s _ u x good h
  exact ⟨fun hl => cmdRun_eq (f := fun s => chainReceive s p f) (chainReceive_down f hl),
    fun hl hg => cmdRun_eq (f := fun s => chainReceive s p f) (chainReceive_damaged (s := u) hl hg),
    fun hl hg he => cmdRun_eq (f := fun s => chainReceive s p f) (chainReceive_control (s := u) hl hg he),
    fun hl hg h1 h2 h3 hb hm => cmdRun_eq (f := fun s => chainReceive s p f) (chainReceive_own (s := u) hl hg h1 h2 h3 hb hm)⟩

/-! ### Frames that go out (15 R394, R397, R398) -/

theorem portAt_modPort {s : State} {p : Nat} (f : Port → Port) (h : p < s.chn.ports.length) : portAt (modPort s p f) p = f (portAt s p) :=
  lget_lmod_same s.chn.ports p f {} h

section
variable {s : State} {x : Disp} (hx : 0x23 ≤ x.unit)
include hx

/-- 15 R398: what SEND does with its front buffer, by the length that it reads first. -/
theorem linkSend_unit (word : Option Nat) (reg : Nat) :
    let g := fixedGet s x.unit word (regBase (inputsB s) reg) 2
    let f := fixedGet g.1 x.unit word (regBase (inputsB s) reg + 2) (leNat g.2.1)
    linkSend s (x.unit - 0x23) word reg =
      if leNat g.2.1 < 14 ∨ 9212 < leNat g.2.1 then modPort g.1 (x.unit - 0x23) fun z => { z with badsend := satAdd 255 z.badsend 1 }
      else if (portAt s (x.unit - 0x23)).link then putWire f.1 (x.unit - 0x23) (wireFrame f.2.1) else f.1 := by
  intro g f
  have hport : portAt f.1 (x.unit - 0x23) = portAt s (x.unit - 0x23) := (fixedGet_port _ _ _ _ _ _).trans (fixedGet_port _ _ _ _ _ _)
  rw [← hport]
  unfold linkSend
  rw [show 0x23 + (x.unit - 0x23) = x.unit by omega]

end

/-- What the link layers have in hand keeps the egress from handing over another. -/
theorem chnEgress_handed {s : State} {q : Nat} {k : Pkt} (hh : s.fab.handed = [k]) (hd : k.req.dst = 20 + q) : chnEgress s q = s := by
  refine egressTake_none ?_
  cases hp : egPick (lget s.fab.eg (4 + q) {}) s.clk.mclk (chnReady s q) with
  | none => rfl
  | some i =>
    obtain ⟨-, p, r, -, -, hok⟩ := egPick_ready hp
    simp [chnReady, hh, hd] at hok

theorem txStart_none {s : State} {q : Nat} (ts : Int) (hh : s.fab.handed = [])
    (hp : egPick (lget s.fab.eg (4 + q) {}) s.clk.mclk (chnReady s q) = none) : txStart s q ts = s := by
  have hegress : chnEgress s q = s := egressTake_none hp
  unfold txStart
  dsimp only
  rw [hegress, hh]
  rfl

/-- A status goes back to the ring as a write of its own. -/
theorem txWriteBack_xfers (s : State) (d : Bytes) (ts : Option Int) (code : Nat) :
    ∃ l, txWriteBack s d ts code = { s with fab := { s.fab with xfers := l } } := by
  unfold txWriteBack
  dsimp only
  split
  · split
    · exact ⟨_, rfl⟩
    · exact ⟨_, rfl⟩
  · exact ⟨_, rfl⟩

/-- 15 R394: the packet in hand starts on the wire and is answered; a ring frame's status follows. -/
theorem txStart_handed {s : State} {q : Nat} (ts : Int) {k : Pkt} (hh : s.fab.handed = [k]) (hd : k.req.dst = 20 + q)
    (hc : canStart s q k.req.flen = true) : ∃ f l, (pktJob s k = .none → f = k.req.data) ∧
      txStart s q ts = { putWire (answerHanded s k) q f with fab := { (putWire (answerHanded s k) q f).fab with xfers := l } } := by
  unfold txStart
  dsimp only
  rw [chnEgress_handed hh hd, hh, show [k].find? (fun p => p.req.dst == 20 + q) = some k by simp [hd]]
  dsimp only
  rw [if_neg (by simp [hc])]
  cases pktJob s k
  case fwd came => exact ⟨_, _, fun h => (nomatch h), rfl⟩
  case txMsg d =>
    obtain ⟨l, hl⟩ := txWriteBack_xfers (putWire (answerHanded s k) q k.req.data) d (some ts) 1
    exact ⟨_, l, fun _ => rfl, hl⟩
  all_goals exact ⟨_, _, fun _ => rfl, rfl⟩

/-- 15 R394: on a wire that is free a frame starts now. -/
theorem portAt_putWire {s : State} {q : Nat} (f : Bytes) (hq : q < s.chn.ports.length) (hb : (portAt s q).busyTo ≤ s.clk.mclk) :
    (portAt (putWire s q f) q).wire = f ∧ (portAt (putWire s q f) q).txfr = (portAt s q).txfr + 1 ∧
      (portAt (putWire s q f) q).busyTo = s.clk.mclk + wireTime f.length := by
  unfold putWire
  rw [portAt_modPort _ hq]
  exact ⟨rfl, rfl, by rw [max_eq_right hb]⟩

theorem answerHanded_rsp {s : State} {k : Pkt} (hh : s.fab.handed = [k]) : ∃ r, RspTo r k.req.src k.req.dst k.req.tag 0 ∧
    answerHanded s k = withRsp { s with fab := { s.fab with handed := [] } } r := by
  unfold answerHanded
  dsimp only
  rw [hh, show [k].filter (fun x => x.seq != k.seq) = [] by simp]
  obtain ⟨r, h, hr, -⟩ := answer_withRsp { s with fab := { s.fab with handed := [] } } k.req k.seq 0 [] []
  exact ⟨r, hr, h⟩

/-- Settles O51: HOLD and SEND by their actions (`linkSend_unit`), a frame's start by `txStart_handed`. -/
theorem chainTransmit : Obligations.ChainTransmit := by
  unfold Obligations.ChainTransmit
  intro w d q ts r x s u
  refine ⟨fun hx => cmdRun_eq (f := unitAct d 7 0 0x23 2 fun s d x => doneDispAt s d ((x.slot + x.span) * 256)) (unitAct_some _ hx),
    ?_, fun hq => cmdRun_eq (f := fun s => if q < 2 then txStart s q ts else s) (if_neg (Nat.not_lt.mpr hq)),
    fun hq hh hp => cmdRun_eq (f := fun s => if q < 2 then txStart s q ts else s) ((if_pos hq).trans (txStart_none (s := u) ts hh hp)), ?_, ?_⟩
  · intro hx p fa g len f
    obtain ⟨-, -, -, -, -, -, hunit, -⟩ := openUnit_some hx
    have hrun : exec (.send w d) s = .next (endCmd s (sendEnd (linkSend u p (some x.word) (bits x.payload 59 54)) d p)) :=
      cmdRun_eq (f := unitAct d 7 1 0x23 2 fun s d x => sendEnd (linkSend s (x.unit - 0x23) (some x.word) (bits x.payload 59 54)) d (x.unit - 0x23))
        (unitAct_some _ hx)
    have hsend := linkSend_unit (s := u) hunit (some x.word) (bits x.payload 59 54)
    rw [hrun]
    refine ⟨fun hlen => ?_, fun hlo hhi hl => ?_, fun hlo hhi hl => ?_⟩
    · rw [show linkSend u p _ _ = _ from hsend.trans (if_pos hlen)]
      rfl
    · have hlen : ¬ (leNat g.2.1 < 14 ∨ 9212 < leNat g.2.1) := not_or.mpr ⟨Nat.not_lt.mpr hlo, Nat.not_lt.mpr hhi⟩
      rw [show linkSend u p _ _ = _ from hsend.trans ((if_neg hlen).trans (if_pos hl))]
      rfl
    · have hlen : ¬ (leNat g.2.1 < 14 ∨ 9212 < leNat g.2.1) := not_or.mpr ⟨Nat.not_lt.mpr hlo, Nat.not_lt.mpr hhi⟩
      rw [show linkSend u p _ _ = _ from hsend.trans ((if_neg hlen).trans (if_neg (Bool.eq_false_iff.mp hl)))]
      rfl
  · intro k hlen hq hh hd hc _
    obtain ⟨f, l, hf, hstart⟩ := txStart_handed (s := u) ts hh hd hc
    obtain ⟨rsp, hr, hans⟩ := answerHanded_rsp (s := u) hh
    have hbusy : (portAt u q).busyTo ≤ u.clk.mclk := by
      unfold canStart at hc
      simp only [Bool.and_eq_true, decide_eq_true_eq] at hc
      exact hc.1.1.2
    rw [hans] at hstart
    obtain ⟨hwire, htxfr, hto⟩ := portAt_putWire (s := withRsp { u with fab := { u.fab with handed := [] } } rsp) f hlen hbusy
    obtain ⟨hsrc, -, htag, hstatus⟩ := hr
    refine ⟨_, cmdRun_eq (f := fun s => if q < 2 then txStart s q ts else s) ((if_pos hq).trans hstart), rfl, fun hjob => hwire.trans (hf hjob),
      htxfr, hto.trans ?_, ⟨rsp, rfl, hsrc, htag, hstatus⟩, rfl⟩
    exact congrArg (fun b : Bytes => u.clk.mclk + wireTime b.length) hwire.symm
  · intro hd
    refine cmdRun_eq ((write_txTail w r noOutside s hd).trans ?_)
    rw [rwStore_fields _ (Base.chn + 0x2C) _ 0xFFFFFFFF 0 rfl (by decide), toNat_and_word]
    rfl

/-! ### PTP, chain boot, store time and the links (15 R399, R403, R406) -/

theorem delayReq_none {s : State} (ts : Int) (h : s.chn.ptp.due = false ∨ ptpEn s = false ∨ (portAt s s.chn.ptp.mport).link = false) :
    delayReq s ts = s := by
  unfold delayReq
  refine if_pos ?_
  rcases h with h | h | h
  all_goals simp [h]

/-- The fold that sends on both ports touches the ports alone. -/
theorem sendBoth_ports (s : State) (f : Bytes) : ∃ l, sendBoth s f = { s with chn := { s.chn with ports := l } } := by
  unfold sendBoth
  refine foldl_keep (fun x => ∃ l, x = ({ s with chn := { s.chn with ports := l } } : State)) _ ?_ _ ⟨s.chn.ports, rfl⟩
  rintro _ q ⟨l, rfl⟩
  split
  · exact ⟨_, rfl⟩
  · exact ⟨_, rfl⟩

theorem bootReq_waits {s : State} (h : s.chn.boot = false ∨ bootComplete s = true ∨ (∃ t, s.chn.reqAt = some t ∧ s.clk.aon < t + 1000000)) :
    bootReq s = s := by
  unfold bootReq
  rcases h with h | h | ⟨t, ht, hlt⟩
  · simp [h]
  · simp [h]
  · simp [ht, Nat.not_le.mpr hlt]

theorem bootReq_goes {s : State} (hb : s.chn.boot = true) (hc : bootComplete s = false)
    (ht : ∀ t, s.chn.reqAt = some t → t + 1000000 ≤ s.clk.aon) :
    ∃ l, bootReq s = { s with chn := { s.chn with reqAt := some s.clk.aon, ports := l } } := by
  have hdue : (match s.chn.reqAt with | some t => decide (t + 1000000 ≤ s.clk.aon) | none => true) = true := by
    cases hr : s.chn.reqAt with
    | none => rfl
    | some t => exact decide_eq_true (ht t hr)
  unfold bootReq
  dsimp only
  rw [if_pos (by rw [hb, hc, Bool.true_and, Bool.not_false, Bool.and_true]; exact hdue)]
  exact sendBoth_ports _ _

theorem bootDone_none {s : State} (h : s.chn.doneDue = none) : bootDone s = s := by
  unfold bootDone
  rw [h]

theorem bootDone_some {s : State} {c : Nat} (h : s.chn.doneDue = some c) :
    ∃ l, bootDone s = { s with chn := { s.chn with doneDue := none, ports := l } } := by
  unfold bootDone
  rw [h]
  exact sendBoth_ports _ _

/-- 15 R406: a pulse is compared with the nearest second of store time. -/
theorem trefRise_pulse {s : State} (h : chTrefMode (chainB s) = 2) : ∃ (ok : Bool) (e : Int), -500000000 ≤ e ∧ e < 500000000 ∧
    trefRise s = giveMeas { s with clk := { s.clk with trefAt := some s.clk.mclk, trefOk := ok } } 2 e := by
  unfold trefRise
  rw [if_pos h]
  refine ⟨_, _, ?_, ?_, rfl⟩
  all_goals split
  all_goals omega

theorem portUsed_iff (s : State) (p : Nat) : portUsed s p = true ↔ p < 2 ∧ domOn s (50 + p) = true ∧ domOn s (52 + p) = true ∧
    (hasSec s Ty.chain 0 = false ∨ chPortEn (chainB s) p = true) := by
  unfold portUsed
  simp [and_assoc]

theorem portUsed_advance (w : When) (s : State) (p : Nat) : portUsed (advance w s) p = portUsed s p := by
  unfold portUsed
  rw [advance_domOn, advance_domOn]
  rfl

/-- Settles O52: each protocol by the lemma on its function. -/
theorem chainProtocols : Obligations.ChainProtocols := by
  unfold Obligations.ChainProtocols
  intro w ts p r s u
  refine ⟨fun h => cmdRun_eq (f := fun s => delayReq s ts) (delayReq_none (s := u) ts h), fun h1 h2 h3 h4 h5 => ?_, fun hd => ?_,
    fun h => cmdRun_eq (f := bootReq) (bootReq_waits (s := u) h), fun hb hc ht => ?_,
    fun h => cmdRun_eq (f := bootDone) (bootDone_none (s := u) h), fun c h => ?_, fun h => ?_, fun ho hm => ?_, fun hp h50 h52 hu => ?_, fun h => ?_, rfl⟩
  · refine ⟨_, cmdRun_eq (f := fun s => delayReq s ts) (if_neg ?_), rfl, rfl, rfl, rfl⟩
    rw [show u.chn.ptp.due = true from h1, show ptpEn u = true from h2, show (portAt u u.chn.ptp.mport).link = true from h3,
      show wireHeld u u.chn.ptp.mport u.clk.cyc (wireTime 64) = false from h5, decide_eq_true (p := (portAt u u.chn.ptp.mport).busyTo ≤ u.clk.mclk) h4]
    decide
  · refine ⟨_, cmdRun_eq (f := fun s => if Base.chn + 0x30 ≤ Base.chn + 0x38 ∧ Base.chn + 0x38 ≤ Base.chn + 0x38 then
        writeReg (Base.chn + 0x38) r noOutside s else s)
      ((if_pos (by decide)).trans ((write_ptpMaster w r noOutside s hd).trans
        (congrArg ptpForget (rwStore_fields _ (Base.chn + 0x38) _ 0x8000FFFF 0 rfl (by decide))))), ?_, rfl, rfl, rfl, rfl⟩
    exact (rwGet_rwPut u _ _ _ _).trans (if_pos rfl)
  · obtain ⟨l, hl⟩ := bootReq_goes (s := u) hb hc ht
    exact ⟨_, cmdRun_eq (f := bootReq) hl, rfl, rfl⟩
  · obtain ⟨l, hl⟩ := bootDone_some (s := u) h
    exact ⟨_, cmdRun_eq (f := bootDone) hl, rfl, rfl⟩
  · refine cmdRun_eq (f := fun s => if (ownerBall s 0x20).isSome then trefRise s else s) ?_
    rcases h with h | h
    · exact if_neg (Bool.eq_false_iff.mp h)
    · exact (congrArg (fun t => if (ownerBall u 0x20).isSome then t else u) (if_neg h)).trans (ite_self u)
  · obtain ⟨ok, e, hlo, hhi, he⟩ := trefRise_pulse (s := u) hm
    refine ⟨_, cmdRun_eq (f := fun s => if (ownerBall s 0x20).isSome then trefRise s else s) ((if_pos ho).trans he), rfl, rfl, fun hl => ?_⟩
    exact ⟨e, lget_lmod_same s.clk.meas 2 _ none hl, hlo, hhi⟩
  · refine cmdRun_eq (f := fun s => if portUsed s p then modPort s p fun x => { x with link := true } else s) (if_pos ?_)
    rw [portUsed_advance, portUsed_iff]
    exact ⟨hp, h50, h52, hu⟩
  · refine cmdRun_eq (f := fun s => if portUsed s p then modPort s p fun x => { x with link := true } else s) (if_neg ?_)
    rw [portUsed_advance, portUsed_iff]
    rintro ⟨hp, h50, h52, -⟩
    rcases h with h | h | h
    · omega
    · simp [h] at h50
    · simp [h] at h52

end Sys2Proof.Machine
end

section
/-! PROOF. The twin: its link and its control register, its link words, and the copy to a joiner (16 R416 to R443). -/

namespace Sys2Proof.Machine

/-! ### The control register and the partner (16 R434, R441, R443) -/

/-- 16 R441, R443: what TWN_CTL without SNAP stores, and what its three commands leave. -/
theorem twnCtlWrite_eq (s : State) (v : Nat) :
    twnCtlWrite s v = { s with
      rw := aset s.rw Base.twn (bits v 3 2 * 4)
      twn := { s.twn with
        pairFault := if bitAt v 4 then false else s.twn.pairFault
        detach := if bits v 31 16 = 0x7A1D ∧ bitAt v 1 ∧ hasTwin s then true else s.twn.detach
        yield_ := if bits v 31 16 = 0x7A1D ∧ bitAt v 0 ∧ isLead s then true else s.twn.yield_ } } := by
  have hclear : (if bitAt v 4 then { rwPut s Base.twn (bits v 3 2 * 4) with twn := { s.twn with pairFault := false } }
      else rwPut s Base.twn (bits v 3 2 * 4)) = { s with
        rw := aset s.rw Base.twn (bits v 3 2 * 4), twn := { s.twn with pairFault := if bitAt v 4 then false else s.twn.pairFault } } := by
    split_ifs <;> rfl
  have hdetach (y : State) (p : Prop) [Decidable p] : (if p then { y with twn := { y.twn with detach := true } } else y) =
      { y with twn := { y.twn with detach := if p then true else y.twn.detach } } := by
    split_ifs <;> rfl
  have hyield (y : State) (p : Prop) [Decidable p] : (if p then { y with twn := { y.twn with yield_ := true } } else y) =
      { y with twn := { y.twn with yield_ := if p then true else y.twn.yield_ } } := by
    split_ifs <;> rfl
  unfold twnCtlWrite
  by_cases hk : bits v 31 16 = 0x7A1D
  · simp only [hk, if_true, true_and]
    refine (hyield _ _).trans ?_
    rw [hdetach]
    change _ = _ at hclear
    simp only [show (rwPut s Base.twn (bits v 3 2 * 4)).twn = s.twn from rfl, hclear]
    rfl
  · simp only [hk, if_false, false_and]
    exact hclear

theorem partnerGone_eq (s : State) :
    partnerGone s = { s with twn := { s.twn with beat := if twBeatTo (twinB s) ≤ s.twn.beatAge then none else s.twn.beat } } := by
  unfold partnerGone
  split_ifs <;> rfl

/-- 16 R437: JOINDONE is stamped once, by a lead whose copy is complete. -/
def joinDoneNow (s : State) : State :=
  if isLead s ∧ s.twn.copied ∧ !s.twn.joinEv then srcEvent { s with twn := { s.twn with joinEv := true } } 0x0E 0 1 else s

theorem joinDoneNow_still {s : State} (h : isLead s = false ∨ s.twn.copied = false ∨ s.twn.joinEv = true) : joinDoneNow s = s := by
  refine if_neg ?_
  rintro ⟨hl, hc, hj⟩
  rcases h with h | h | h
  · exact Bool.false_ne_true (h.symm.trans hl)
  · exact Bool.false_ne_true (h.symm.trans hc)
  · simp [h] at hj

/-! ### The link's words (16 R419, R421) -/

theorem framesOf_type (type seq : Nat) : ∀ (f off : Nat) (b : Bytes), ∀ t ∈ framesOf type seq f off b, t.type = type := by
  intro f
  induction f with
  | zero => exact fun _ _ => List.forall_mem_nil _
  | succ f ih =>
    intro off b
    unfold framesOf
    split_ifs
    · exact List.forall_mem_nil _
    · exact List.forall_mem_cons.mpr ⟨rfl, ih _ _⟩

/-- What a lead sends of its bundles is in frames of type 1. -/
theorem sendUnsent_type (f : Nat) : ∀ (cap : Nat) (l : List Seg), ∀ t ∈ (sendUnsent f cap l).1, t.type = 1 := by
  induction f with
  | zero => exact fun _ _ => List.forall_mem_nil _
  | succ f ih =>
    rintro cap (_ | ⟨⟨k, off, b⟩, r⟩)
    · exact List.forall_mem_nil _
    · unfold sendUnsent
      split_ifs
      · exact List.forall_mem_nil _
      · refine List.forall_mem_append.mpr ⟨framesOf_type 1 k _ _ _, ih _ _⟩

theorem foldl_linkPut (l : List TwinTx) (s : State) :
    l.foldl linkPut s = { s with twn := { s.twn with link := l.reverse ++ s.twn.link } } := by
  induction l generalizing s with
  | nil => rfl
  | cons t l ih =>
    rw [List.foldl_cons, ih]
    simp [linkPut]

/-- END and the records that wait for it leave the link as it is. -/
theorem bundleEnd_link (s : State) : ∃ t, bundleEnd s = { s with twn := t } ∧ t.link = s.twn.link := by
  unfold bundleEnd
  split_ifs
  · exact ⟨s.twn, rfl, rfl⟩
  · exact ⟨_, rfl, rfl⟩

/-- 16 R421: a lead's BUNDLE word changes the twin alone, and puts frames of its bundles on the link. -/
theorem bundleWord_lead {s : State} (d : Nat) (x : Disp) (h : isLead s = true) :
    ∃ t l, bundleWord s d x = { s with twn := t } ∧ t.link = l ++ s.twn.link ∧ ∀ y ∈ l, y.type = 1 := by
  have hend (c : Bool) : ∃ t, (if c then bundleEnd s else s) = { s with twn := t } ∧ t.link = s.twn.link := by
    cases c with
    | true => exact bundleEnd_link s
    | false => exact ⟨s.twn, rfl, rfl⟩
  unfold bundleWord
  rw [if_pos h]
  dsimp only
  obtain ⟨t, ht, hl⟩ := hend ((s.tsq.disp.drop (d + 1)).all fun y => !(y.kind == 7 && y.unit == 0x25 && bits y.payload 63 60 == 1))
  rw [ht, ← hl]
  refine ⟨_, _, foldl_linkPut _ _, rfl, fun y hy => ?_⟩
  exact sendUnsent_type _ _ _ y (List.mem_reverse.mp hy)

theorem bundleWord_other {s : State} (d : Nat) (x : Disp) (h : isLead s = false) : bundleWord s d x = linkPut s (ackFrame s 0 0 0) :=
  if_neg (Bool.eq_false_iff.mp h)

/-- A BUNDLE word acts, and is complete: a lead's when its bytes are on the link, any other state's with its span. -/
def bundleAct (s : State) (d : Nat) (x : Disp) : State :=
  let t := bundleWord s d x
  doneDispAt t d (if isLead s then min (s.clk.cyc + linkTime s t) ((x.slot + x.span) * 256) else (x.slot + x.span) * 256)

theorem bundleAct_lead {s t : State} (d : Nat) (x : Disp) (h : isLead s = true) (ht : bundleWord s d x = t) :
    bundleAct s d x = doneDispAt t d (min (s.clk.cyc + linkTime s t) ((x.slot + x.span) * 256)) := by
  unfold bundleAct
  dsimp only
  rw [ht, if_pos h]

theorem bundleAct_other {s : State} (d : Nat) (x : Disp) (h : isLead s = false) :
    bundleAct s d x = doneDispAt (linkPut s (ackFrame s 0 0 0)) d ((x.slot + x.span) * 256) := by
  unfold bundleAct
  dsimp only
  rw [bundleWord_other d x h, h]
  rfl

/-! ### The copy to a joiner (16 R436) -/

/-- The command `twinCopyRead` acts in a lead alone. -/
def copyStep (s : State) : State := if isLead s then copyRead s else s

theorem copyStep_still {s : State} (h : isLead s = false ∨ s.twn.copy = none ∨ s.twn.copied = true) : copyStep s = s := by
  unfold copyStep copyRead
  cases hl : isLead s with
  | false => rfl
  | true =>
    cases hc : s.twn.copy with
    | none => rfl
    | some c =>
      have hdone : s.twn.copied = true := by simpa [hl, hc] using h
      exact if_pos hdone

section
variable {s : State} {k off : Nat} (hl : isLead s = true) (hd : s.twn.copied = false) (hc : s.twn.copy = some (k, off))
include hl hd hc

/-- 16 R436: the next block of the copy is read. -/
theorem copyStep_block (hk : k < (mirrorRegions s).length) (ho : off < (lget (mirrorRegions s) k (0, 0)).2) :
    let base := (lget (mirrorRegions s) k (0, 0)).1
    let len := (lget (mirrorRegions s) k (0, 0)).2
    let n := min 256 (len - off)
    ∃ f, copyStep s = { s with
        twn := { s.twn with mseq := s.twn.mseq + 1, copy := some (if off + n < len then (k, off + n) else (k + 1, 0)) }
        fab := { s.fab with xfers := s.fab.xfers ++ [f] } } ∧
      f.src = 22 ∧ f.job = .copy (base + off) s.twn.mseq ∧ ∀ q ∈ f.todo, q.req.kind = .read ∧ q.req.cls = 3 := by
  unfold copyStep copyRead
  rw [if_pos hl, hc]
  dsimp only
  rw [if_neg (Bool.eq_false_iff.mp hd), if_neg (Nat.not_le.mpr hk), if_neg (Nat.not_le.mpr ho)]
  exact ⟨_, rfl, rfl, rfl, cutReqs_kind_cls _ _ _ _ _ _ _⟩

/-- 16 R437: the last pass is complete when all its blocks have been read. -/
theorem copyStep_complete (hk : (mirrorRegions s).length ≤ k) (hr : s.twn.redo = none) (hx : copyReads s = false) :
    copyStep s = { s with twn := { s.twn with copied := true } } := by
  unfold copyStep copyRead
  rw [if_pos hl, hc]
  dsimp only
  rw [if_neg (Bool.eq_false_iff.mp hd), if_pos hk, if_neg (Bool.eq_false_iff.mp hx), hr]

end

/-- Settles O53: the first part is the twin's own events and TWN_CTL, the second its words and the copy. -/
theorem twinCommands : Obligations.TwinCommands := by
  unfold Obligations.TwinCommands
  refine ⟨?_, ?_⟩
  · intro w level r s u v
    refine ⟨fun hd => ?_, rfl, rfl, cmdRun_eq (f := partnerGone) (partnerGone_eq u), fun hl hc hj => ?_, fun h => ?_, fun hd h5 => ?_⟩
    · exact cmdRun_eq (f := fun s => if domOn s 56 then twinUp s else s) (if_pos ((advance_domOn w s 56).trans hd))
    · exact cmdRun_eq (f := joinDoneNow) (if_pos ⟨hl, hc, by simpa using hj⟩)
    · exact cmdRun_eq (f := joinDoneNow) (joinDoneNow_still (s := u) h)
    · intro b
      have hctl : writeReg Base.twn r noOutside u = b := by
        refine (write_twnCtl w r noOutside s hd).trans ?_
        dsimp only
        rw [h5]
        exact twnCtlWrite_eq u v
      exact ⟨cmdRun_eq hctl, cmdRun_eq hctl, cmdRun_eq hctl⟩
  · intro w d x s u ends
    refine ⟨fun h => ?_, fun h => ?_, fun h hl => ?_, fun h hl => ?_, fun h => ?_, fun k off hl hd hc hk => ?_, fun k hl hd hc hk hr hx => ?_⟩
    · exact cmdRun_eq (f := unitAct d 7 0 0x25 1 fun s d x => doneDispAt s d ((x.slot + x.span) * 256)) (unitAct_some _ h)
    · intro y
      exact cmdRun_eq (f := unitAct d 7 2 0x25 1 fun s d _ => let t := beatSend s; doneDispAt t d (s.clk.cyc + linkTime s t))
        (unitAct_some _ h)
    · refine cmdRun_eq (f := unitAct d 7 1 0x25 1 fun s d x => bundleAct s d x) ((unitAct_some _ h).trans ?_)
      exact bundleAct_other d x hl
    · obtain ⟨t, l, hword, hlink, htype⟩ := bundleWord_lead (s := u) d x hl
      refine ⟨ends { u with twn := t } (min (u.clk.cyc + linkTime u { u with twn := t }) ((x.slot + x.span) * 256)), l, _, ?_, hlink, htype,
        Nat.min_le_right _ _, rfl⟩
      refine cmdRun_eq (f := unitAct d 7 1 0x25 1 fun s d x => bundleAct s d x) ((unitAct_some _ h).trans ?_)
      exact bundleAct_lead d x hl hword
    · exact cmdRun_eq (f := copyStep) (copyStep_still (s := u) h)
    · intro base len n ho
      obtain ⟨f, hcopy, hf⟩ := copyStep_block (s := u) hl hd hc hk ho
      exact ⟨f, cmdRun_eq (f := copyStep) hcopy, hf⟩
    · exact cmdRun_eq (f := copyStep) (copyStep_complete (s := u) hl hd hc hk hr hx)

end Sys2Proof.Machine
end

section
/-! PROOF. Frames that come in from the partner (16 R416 to R438, 03 R86). -/

namespace Sys2Proof.Machine

/-! ### The link's gate (16 R416) -/

section
variable {g : State → State} {s : State}

theorem linkFrame_off (h : s.twn.up = false ∨ domOn s 56 = false) : linkFrame g s = s := by
  refine if_neg ?_
  rintro ⟨hup, hd⟩
  rcases h with h | h
  · exact Bool.false_ne_true (h.symm.trans hup)
  · exact Bool.false_ne_true (h.symm.trans hd)

theorem linkFrame_same (h : g s = s) : linkFrame g s = s := by
  unfold linkFrame
  rw [h, ite_self]

end

theorem linkFrame_run {g : State → State} {w : When} {s b : State} (hup : s.twn.up = true) (hd : domOn s 56 = true)
    (h : g (advance w s) = b) : cmdRun w (linkFrame g) s = .next (endCmd s b) :=
  cmdRun_eq (f := linkFrame g) ((if_pos ⟨hup, (advance_domOn w s 56).trans hd⟩).trans h)

/-! ### What a NAK and a resend change (16 R431) -/

/-- The transfers of the chip's own units that are under way. -/
def withXfers (s : State) (l : List Xfer) : State := { s with fab := { s.fab with xfers := l } }

theorem foldl_linkSubmit (cls : Nat) (ts : List TwinTx) (s : State) :
    ∃ l, ts.foldl (fun s t => linkSubmit s t cls) s = withXfers s l := by
  refine foldl_keep (fun y => ∃ l, y = withXfers s l) _ ?_ ts ⟨s.fab.xfers, rfl⟩
  rintro _ t ⟨l, rfl⟩
  exact ⟨_, rfl⟩

theorem sendNak_eq (s : State) (ntype noff nseq : Nat) :
    ∃ l, sendNak s ntype noff nseq = withXfers { s with twn := { s.twn with naks := sat16 s.twn.naks } } l := ⟨_, rfl⟩

theorem resend_eq (s : State) (ntype noff nseq : Nat) :
    ∃ n l, resend s ntype noff nseq = withXfers { s with twn := { s.twn with resent := n } } l := by
  have hsent (p : Prop) [Decidable p] (ts : List TwinTx) :
      ∃ n l, (if p then s else ts.foldl (fun s t => linkSubmit s t 0) { s with twn := { s.twn with resent := sat16 s.twn.resent } }) =
        withXfers { s with twn := { s.twn with resent := n } } l := by
    split_ifs
    · exact ⟨s.twn.resent, s.fab.xfers, rfl⟩
    · exact ⟨sat16 s.twn.resent, foldl_linkSubmit 0 _ _⟩
  exact hsent _ _

/-! ### Bundles, acknowledgements and BEATs (16 R424, R427, R431) -/

section
variable {s : State} {f : TwinFrame}

theorem bundleIn_still (h : f.good = false ∨ isShadow s = false) : bundleIn s f = s := by
  refine if_pos ?_
  rcases h with h | h
  · exact Or.inl (by rw [h]; rfl)
  · exact Or.inr (Or.inl (by rw [h]; rfl))

/-- 16 R424: a shadow keeps a frame of a bundle that it has not used. -/
theorem bundleIn_taken (hg : f.good = true) (hs : isShadow s = true) (hnew : shadowRun s = true → s.tsq.tc < f.seq) :
    ∃ n l, bundleIn s f =
      withXfers { s with twn := { s.twn with rxb := s.twn.rxb ++ [(f.seq, f.offset, f.payload)], naks := n } } l := by
  unfold bundleIn
  dsimp only
  rw [if_neg]
  · split
    next k n _ => exact ⟨_, sendNak_eq _ 1 n k⟩
    next => exact ⟨s.twn.naks, s.fab.xfers, rfl⟩
  · rintro (h | h | ⟨hr, hle⟩)
    · simp [hg] at h
    · simp [hs] at h
    · exact Nat.not_le.mpr (hnew hr) hle

theorem ackIn_bad (h : f.good = false) : ackIn s f = s := if_pos (Or.inl (by rw [h]; rfl))

theorem goodTwin_passes (hg : f.good = true) (ht : hasTwin s = true) : ¬ ((!f.good) = true ∨ (!hasTwin s) = true) := by
  simp [hg, ht]

/-- 16 R431: an ACK is taken, and what it acknowledges is kept no longer. -/
theorem ackIn_taken (hg : f.good = true) (ht : hasTwin s = true) :
    ∃ b, ackIn s f = b ∧ b.twn.ackAge = 0 ∧ b.twn.back = u64 f.payload 0 ∧ b.twn.mack = u64 f.payload 8 ∧
      (∀ t ∈ b.twn.keep, t.type = 4 → u64 f.payload 8 ≤ t.seq) ∧ b.mem = s.mem := by
  unfold ackIn
  dsimp only
  rw [if_neg (goodTwin_passes hg ht)]
  obtain ⟨n, l, h⟩ := resend_eq { s with twn := { s.twn with
      ackAge := 0, back := u64 f.payload 0, mack := u64 f.payload 8, pfack := pat 64 ((u64 f.payload 16 : Nat) + 1 : Int)
      keep := s.twn.keep.filter fun t =>
        if t.type = 4 then decide (u64 f.payload 8 ≤ t.seq)
        else if t.type = 6 then decide (pat 64 ((u64 f.payload 16 : Nat) + 1 : Int) ≤ t.seq) else true } }
    (u8 f.payload 24) (u32 f.payload 28) (u64 f.payload 32)
  refine ⟨_, h, rfl, rfl, rfl, fun t hmem h4 => ?_, rfl⟩
  have hkept := (List.mem_filter.mp hmem).2
  rw [if_pos h4] at hkept
  exact of_decide_eq_true hkept

theorem beatIn_bad (h : f.good = false) : beatIn s f = s := if_pos (Or.inl (by rw [h]; rfl))

/-- 16 R427: a BEAT is taken. -/
theorem beatIn_taken (hg : f.good = true) (ht : hasTwin s = true) :
    ∃ b, beatIn s f = b ∧ b.twn.beatAge = 0 ∧
      (∃ k, b.twn.beat = some k ∧ k.uid = u64 f.payload 0 ∧ k.st = u8 f.payload 41 ∧ k.seat = u8 f.payload 40 ∧ k.ltc = u64 f.payload 48) ∧
      (b.twn.joinReq = true ↔ s.twn.joinReq = true ∨ bitAt (u8 f.payload 42) 1 = true) ∧ b.mem = s.mem := by
  unfold beatIn
  dsimp only
  rw [if_neg (goodTwin_passes hg ht)]
  refine ⟨_, rfl, rfl, ⟨_, rfl, rfl, rfl, rfl, rfl⟩, ?_, ?_⟩
  · refine (Bool.or_eq_true _ _).to_iff.trans (or_congr_left ?_)
    split_ifs <;> rfl
  · split_ifs <;> rfl

/-! ### Mirror writes, the capture and firmware frames (16 R417, R424, R438) -/

theorem isLead_of_shadow (h : isShadow s = true) : isLead s = false := by
  simp only [isShadow, isLead, Bool.and_eq_true, decide_eq_true_eq, Bool.or_eq_false_iff, beq_eq_false_iff_ne] at h ⊢
  omega

theorem mirrorIn_still (h : f.good = false ∨ isShadow s = false ∨ f.seq < s.twn.mseq) : mirrorIn s f = s := by
  refine if_pos ?_
  rcases h with h | h | h
  · exact Or.inl (by rw [h]; rfl)
  · exact Or.inr (Or.inl (by rw [h]; rfl))
  · exact Or.inr (Or.inr h)

/-- With nothing held behind a gap, a MIRROR frame is held alone, and performed if it is next. -/
def mirrorHeld (s : State) (f : TwinFrame) : State :=
  { s with twn := { s.twn with stage := max 1 s.twn.stage, held := [(f.seq, u64 f.payload 0, f.payload.drop 8)] } }

theorem mirrorIn_first (hg : f.good = true) (hs : isShadow s = true) (hseq : s.twn.mseq ≤ f.seq) (hheld : s.twn.held = []) :
    mirrorIn s f = if (mirrorDrain 2 (mirrorHeld s f)).twn.held.isEmpty then mirrorDrain 2 (mirrorHeld s f)
      else sendNak (mirrorDrain 2 (mirrorHeld s f)) 4 0 (mirrorDrain 2 (mirrorHeld s f)).twn.mseq := by
  unfold mirrorIn
  dsimp only
  rw [if_neg (by simp [hg, hs, hseq]), hheld]
  rfl

theorem mirrorDrain_gap (h : s.twn.mseq < f.seq) : mirrorDrain 2 (mirrorHeld s f) = mirrorHeld s f := by
  have hnone : ((mirrorHeld s f).twn.held.find? fun x => x.1 == (mirrorHeld s f).twn.mseq) = none := by
    simp only [mirrorHeld, List.find?_singleton, beq_iff_eq, h.ne', if_false]
  unfold mirrorDrain
  rw [hnone]

/-- The MIRROR frame that is next has been taken out of what is held. -/
def mirrorTaken (s : State) (f : TwinFrame) : State :=
  { mirrorHeld s f with twn := { (mirrorHeld s f).twn with mseq := f.seq + 1, held := [] } }

/-- 16 R424: the write that is next is performed, and nothing is held. -/
theorem mirrorDrain_next (h : f.seq = s.twn.mseq) :
    mirrorDrain 2 (mirrorHeld s f) = mirrorDrain 1 (mirrorApply (mirrorTaken s f) (u64 f.payload 0) (f.payload.drop 8)) := by
  have hfind : ((mirrorHeld s f).twn.held.find? fun x => x.1 == (mirrorHeld s f).twn.mseq) =
      some (f.seq, u64 f.payload 0, f.payload.drop 8) := by
    simp only [mirrorHeld, List.find?_singleton, beq_iff_eq, h, if_true]
  have hrest : ((mirrorHeld s f).twn.held.filter fun x => x.1 != f.seq) = [] := by
    simp [mirrorHeld]
  conv_lhs => unfold mirrorDrain
  rw [hfind]
  dsimp only
  rw [hrest]
  rfl

theorem mirrorDrain_empty (n : Nat) (h : s.twn.held = []) : mirrorDrain n s = s := by
  cases n with
  | zero => rfl
  | succ n =>
    unfold mirrorDrain
    rw [h]
    rfl

/-- A mirror write to SRAM lands, and a chip that does not lead notes nothing. -/
theorem mirrorApply_sram {fa : Nat} {b : Bytes} (hl : isLead s = false) (hlo : 0x10000000 ≤ fa) (hhi : fa + b.length ≤ 0x10400000)
    (hon : domsOn s (targetDoms s (.sram (fa - 0x10000000)) b.length) = true) : mirrorApply s fa b = sramPut s (fa - 0x10000000) b := by
  have hdec : decodeFa s fa b.length = .sram (fa - 0x10000000) := decodeFa_sram s fa b.length hlo (by omega) (by omega)
  have hok : faOk s fa b.length = true := by
    unfold faOk
    rw [hdec]
    exact hon
  unfold mirrorApply
  rw [if_pos hok, hdec]
  unfold memSet noteWrite
  dsimp only
  rw [show isLead (sramPut s (fa - 0x10000000) b) = false from hl]
  rfl

/-- 16 R424: a mirror write to SRAM that is next lands. -/
theorem mirrorIn_sram (hg : f.good = true) (hs : isShadow s = true) (hseq : f.seq = s.twn.mseq) (hheld : s.twn.held = [])
    (hlo : 0x10000000 ≤ u64 f.payload 0) (hhi : u64 f.payload 0 + (f.payload.drop 8).length ≤ 0x10400000)
    (hon : domsOn s (targetDoms s (.sram (u64 f.payload 0 - 0x10000000)) (f.payload.drop 8).length) = true) :
    mirrorIn s f = sramPut (mirrorTaken s f) (u64 f.payload 0 - 0x10000000) (f.payload.drop 8) := by
  have hdrain := mirrorDrain_next (s := s) (f := f) hseq
  rw [mirrorApply_sram (s := mirrorTaken s f) (isLead_of_shadow hs) hlo hhi hon, mirrorDrain_empty 1 rfl] at hdrain
  rw [mirrorIn_first hg hs hseq.ge hheld, hdrain]
  rfl

theorem stateIn_still (h : f.good = false ∨ s.twn.st ≠ 4) : stateIn s f = s := by
  refine if_pos ?_
  rcases h with h | h
  · exact Or.inl (by rw [h]; rfl)
  · exact Or.inr h

/-- 16 R438: a joiner keeps a frame of the capture. -/
theorem stateIn_taken (hg : f.good = true) (hs : s.twn.st = 4) :
    ∃ n l, stateIn s f = withXfers { s with twn := { s.twn with
      stage := 2, rxs := (s.twn.rxs.filter fun x => x.1 == f.seq) ++ [(f.seq, f.offset, f.payload)], naks := n } } l := by
  unfold stateIn
  dsimp only
  rw [if_neg (by simp [hg, hs])]
  split_ifs
  · exact ⟨_, sendNak_eq _ 5 _ _⟩
  · exact ⟨s.twn.naks, s.fab.xfers, rfl⟩

theorem fwIn_still (h : f.good = false ∨ f.seq < s.twn.fack) : fwIn s f = s := by
  refine if_pos ?_
  rcases h with h | h
  · exact Or.inl (by rw [h]; rfl)
  · exact Or.inr (Or.inr h)

/-- 16 R417: the firmware frame that is awaited is taken while the ring has room. -/
theorem fwIn_taken (hg : f.good = true) (ht : hasTwin s = true) (hseq : f.seq = s.twn.fack)
    (hroom : (s.twn.rxHead + 2 ^ 32 - rwGet s (Base.twn + 0x64) 0) % 2 ^ 32 < fwRx s) :
    ∃ b, fwIn s f = b ∧ b.twn.fack = f.seq + 1 ∧ b.twn.rxHead = (s.twn.rxHead + 1) % 2 ^ 32 := by
  unfold fwIn
  dsimp only
  rw [if_neg (by simp [hg, ht, hseq]), if_neg (by omega), if_neg (Nat.not_le.mpr hroom)]
  exact ⟨_, rfl, rfl, rfl⟩

/-! ### Boot frames (03 R86) -/

theorem bootIn_bad (h : f.good = false) : bootIn s f = s := if_pos (by rw [h]; rfl)

theorem bootIn_done (hg : f.good = true) (hp : u8 f.payload 0 = 3) (hc : curSource s = some 2) (hu : (f.payload.drop 4).take 8 = uid s) :
    bootIn s f = { s with fld := { s.fld with rxCount := some f.seq } } := by
  unfold bootIn
  dsimp only
  rw [if_neg (by simp [hg]), hp]
  exact if_pos ⟨hc, hu⟩

/-- A chip without an image in force has none to give. -/
theorem bootIn_request (hp : u8 f.payload 0 = 1) (ha : s.fld.applied = false) : bootIn s f = s := by
  have hnone : bootImages s = [] := by
    unfold bootImages
    simp [ha]
  unfold bootIn
  dsimp only
  rw [hp, hnone]
  by_cases hg : (!f.good) = true
  · exact if_pos hg
  · exact if_neg hg

end

/-- Settles O54: each frame by what its function does with it, behind the link's gate. -/
theorem twinFrames : Obligations.TwinFrames := by
  unfold Obligations.TwinFrames
  refine ⟨?_, ?_⟩
  · intro w f s c u hc
    have hrun : ∃ g : State → TwinFrame → State, (exec c s = cmdRun w (linkFrame fun s => g s f) s) ∧ (f.good = false → g u f = u) := by
      simp only [List.mem_cons, List.not_mem_nil, or_false] at hc
      rcases hc with rfl | rfl | rfl | rfl | rfl | rfl | rfl
      · exact ⟨bundleIn, rfl, fun h => bundleIn_still (s := u) (.inl h)⟩
      · exact ⟨ackIn, rfl, fun h => ackIn_bad (s := u) h⟩
      · exact ⟨beatIn, rfl, fun h => beatIn_bad (s := u) h⟩
      · exact ⟨mirrorIn, rfl, fun h => mirrorIn_still (s := u) (.inl h)⟩
      · exact ⟨stateIn, rfl, fun h => stateIn_still (s := u) (.inl h)⟩
      · exact ⟨fwIn, rfl, fun h => fwIn_still (s := u) (.inl h)⟩
      · exact ⟨bootIn, rfl, fun h => bootIn_bad (s := u) h⟩
    refine ⟨fun h => ?_, ?_, ?_, ?_, ?_⟩
    · obtain ⟨g, hexec, hbad⟩ := hrun
      rw [hexec]
      refine cmdRun_eq (f := linkFrame fun s => g s f) ?_
      rcases h with h | h | h
      · exact linkFrame_off (s := u) (.inl h)
      · exact linkFrame_off (s := u) (.inr ((advance_domOn w s 56).trans h))
      · exact linkFrame_same (s := u) (hbad h)
    · rintro rfl hs
      exact cmdRun_eq (f := linkFrame fun s => bundleIn s f) (linkFrame_same (s := u) (bundleIn_still (s := u) (.inr hs)))
    · rintro rfl hs
      exact cmdRun_eq (f := linkFrame fun s => mirrorIn s f) (linkFrame_same (s := u) (mirrorIn_still (s := u) (.inr hs)))
    · rintro rfl hs
      exact cmdRun_eq (f := linkFrame fun s => stateIn s f) (linkFrame_same (s := u) (stateIn_still (s := u) (.inr hs)))
    · rintro rfl hs
      exact cmdRun_eq (f := linkFrame fun s => fwIn s f) (linkFrame_same (s := u) (fwIn_still (s := u) (.inr hs)))
  · intro w f s hup hd hg u p
    refine ⟨fun hs hnew => ?_, fun ht => ?_, fun ht => ?_, fun hs hseq hheld => ?_, fun hs hseq hheld hlen hlo hhi hon => ?_, fun hs => ?_,
      fun ht hseq hroom => ?_, fun hp hc hu => ?_, fun hp ha => ?_⟩
    · obtain ⟨n, l, h⟩ := bundleIn_taken (s := u) hg hs hnew
      exact ⟨_, linkFrame_run (g := fun s => bundleIn s f) hup hd h, rfl, rfl, rfl⟩
    · obtain ⟨b, h, hb⟩ := ackIn_taken (s := u) hg ht
      exact ⟨b, linkFrame_run (g := fun s => ackIn s f) hup hd h, hb⟩
    · obtain ⟨b, h, hb⟩ := beatIn_taken (s := u) hg ht
      exact ⟨b, linkFrame_run (g := fun s => beatIn s f) hup hd h, hb⟩
    · have h := mirrorIn_first (s := u) hg hs hseq.le hheld
      rw [mirrorDrain_gap (s := u) hseq] at h
      exact ⟨_, linkFrame_run (g := fun s => mirrorIn s f) hup hd h, rfl, rfl, rfl⟩
    · have hn : (f.payload.drop 8).length = f.payload.length - 8 := List.length_drop
      have hon' : domsOn u (targetDoms u (.sram (u64 p 0 - 0x10000000)) (p.drop 8).length) = true := by
        rw [hn]
        exact (congrArg (List.all _) (funext (advance_domOn w s))).trans hon
      have h := mirrorIn_sram (s := u) hg hs hseq hheld hlo (hn ▸ hhi) hon'
      refine ⟨_, linkFrame_run (g := fun s => mirrorIn s f) hup hd h, congrArg (· + 1) hseq, rfl, fun i hi => ?_, 
        fun a (ha : a < u64 f.payload 0 - 0x10000000 ∨ u64 f.payload 0 - 0x10000000 + (f.payload.length - 8) ≤ a) => ?_⟩
      · refine (sramByte_sramPut _ _ _ _).trans ((if_pos ⟨Nat.le_add_right _ _, Nat.add_lt_add_left (hn.symm ▸ hi) _⟩).trans ?_)
        rw [Nat.add_sub_cancel_left, List.getD_eq_getElem?_getD, List.getElem?_drop, ← List.getD_eq_getElem?_getD]
      · exact (sramByte_sramPut _ _ _ _).trans (if_neg (by omega))
    · obtain ⟨n, l, h⟩ := stateIn_taken (s := u) hg hs
      exact ⟨_, linkFrame_run (g := fun s => stateIn s f) hup hd h, rfl, rfl, rfl⟩
    · obtain ⟨b, h, hb⟩ := fwIn_taken (s := u) hg ht hseq hroom
      exact ⟨b, linkFrame_run (g := fun s => fwIn s f) hup hd h, hb⟩
    · exact linkFrame_run (g := fun s => bootIn s f) hup hd (bootIn_done (s := u) hg hp hc hu)
    · exact linkFrame_run (g := fun s => bootIn s f) hup hd (bootIn_request (s := u) hp ha)

end Sys2Proof.Machine
end

section
/-! PROOF. Loupe's words, packets, maps and records (13 R341 to R361), and the map that Aperture keeps (14 R371, R377). -/

namespace Sys2Proof.Machine

/-! ### PROCESS and METRIC (13 R351, R358) -/

theorem processWord_none {s : State} (d : Nat) {x : Disp} (h : pickStripe s x.payload = none) :
    processWord s d x = doneDispAt s d (s.clk.cyc + 1) := by
  unfold processWord
  rw [h]
  rfl

theorem processWord_some {s : State} (d : Nat) {x : Disp} {i : Nat} {t : Stripe} (h : pickStripe s x.payload = some i)
    (ht : s.lpe.stripes[i]? = some t) :
    processWord s d x = processStripe
      { doneDispAt s d (s.clk.cyc + processCost s t.ctx) with lpe := { s.lpe with stripes := s.lpe.stripes.eraseIdx i } } t
      (some x.word) x.finish := by
  unfold processWord
  rw [h, Option.bind_some, ht]
  rfl

theorem metricWord_none {s : State} (d : Nat) {x : Disp} (h : visNewest s (bits x.payload 58 56) x.slot = none) :
    metricWord s d x = doneDispAt s d (s.clk.cyc + 1) := by
  unfold metricWord
  dsimp only
  rw [h]

theorem metricWord_some {s : State} (d : Nat) {x : Disp} {v : VFrame} (h : visNewest s (bits x.payload 58 56) x.slot = some v) :
    let l := segEntries s x
    let m := metricRun (bits x.payload 58 56) x.slot x.finish v (max (256 * x.slot) l.1.clk.cyc) l.2 l.1
    metricWord s d x = doneDispAt m.1 d m.2 := by
  unfold metricWord
  dsimp only
  rw [h]

/-! ### EXPOSE (13 R344) -/

/-- A trigger that stands within the inner window. -/
def InInner (s : State) (p : Nat × Nat × Nat) : Prop := (innerWindow s).1 ≤ p.2.1 ∧ p.2.1 < p.2.2 ∧ p.2.2 ≤ (innerWindow s).2

/-- One of the two pulses of an EXPOSE word: it begins at cycle `a` and takes `n` cycles. -/
def exposeOne (a : Nat) (s : State) (v : Bool) (r c n : Nat) : State :=
  if v then
    { s with lpe := { s.lpe with
        trig := if max a (innerWindow s).1 < min (a + n) (innerWindow s).2
          then s.lpe.trig ++ [(r, max a (innerWindow s).1, min (a + n) (innerWindow s).2)] else s.lpe.trig
        pulses := s.lpe.pulses ++ [(c, a + n)] } }
  else s

theorem exposeWord_two (s : State) (x : Disp) :
    exposeWord s x = exposeOne (256 * x.slot + bits x.payload 51 37)
      (exposeOne (256 * x.slot + bits x.payload 51 37) s (bitAt x.payload 59) 0 (bits x.payload 58 56) (bits x.payload 36 22))
      (bitAt x.payload 55) 1 (bits x.payload 54 52) (bits x.payload 21 7) := rfl

theorem exposeOne_inner (a : Nat) (s : State) (v : Bool) (r c n : Nat) :
    ∃ t p, exposeOne a s v r c n = { s with lpe := { s.lpe with trig := t, pulses := p } } ∧ ∀ q ∈ t, q ∈ s.lpe.trig ∨ InInner s q := by
  unfold exposeOne
  split_ifs with hv hw
  · refine ⟨_, _, rfl, fun q hq => ?_⟩
    rcases List.mem_append.mp hq with hq | hq
    · exact Or.inl hq
    · cases List.mem_singleton.mp hq
      exact Or.inr ⟨Nat.le_max_right _ _, hw, Nat.min_le_right _ _⟩
  · exact ⟨_, _, rfl, fun q hq => Or.inl hq⟩
  · exact ⟨s.lpe.trig, s.lpe.pulses, rfl, fun q hq => Or.inl hq⟩

theorem exposeWord_inner (s : State) (x : Disp) :
    ∃ t p, exposeWord s x = { s with lpe := { s.lpe with trig := t, pulses := p } } ∧ ∀ q ∈ t, q ∈ s.lpe.trig ∨ InInner s q := by
  rw [exposeWord_two]
  obtain ⟨t, p, h, hin⟩ := exposeOne_inner (256 * x.slot + bits x.payload 51 37) s (bitAt x.payload 59) 0 (bits x.payload 58 56)
    (bits x.payload 36 22)
  rw [h]
  obtain ⟨t', p', h', hin'⟩ := exposeOne_inner (256 * x.slot + bits x.payload 51 37) { s with lpe := { s.lpe with trig := t, pulses := p } }
    (bitAt x.payload 55) 1 (bits x.payload 54 52) (bits x.payload 21 7)
  exact ⟨t', p', h', fun q hq => (hin' q hq).elim (hin q) Or.inr⟩

/-! ### PRESENCE (13 R360) -/

theorem presenceWord_idle {s : State} (d : Nat) {x : Disp} (h : ∀ v, visNewest s (bits x.payload 58 56) x.slot = some v → v.used = true) :
    presenceWord s d x = doneDispAt s d (s.clk.cyc + 1) := by
  unfold presenceWord
  dsimp only
  cases hv : visNewest s (bits x.payload 58 56) x.slot with
  | none => rfl
  | some v => exact if_pos (h v hv)

/-- What a PRESENCE word leaves, besides the background and the digest: the map that waits, SRAM and Aperture. -/
def MapWaits (R : PMap → Prop) (s : State) (y : State) : Prop :=
  ∃ m, y.lpe.mapNext = some m ∧ R m ∧ y.mem.sram = s.mem.sram ∧ y.saf = s.saf

theorem mapWaits_digest {R : PMap → Prop} {s : State} (cyc : Nat) (f : Nat → Bytes) (l : List Nat) {y : State} (h : MapWaits R s y) :
    MapWaits R s (l.foldl (fun s e => digLog s 7 cyc (1 + e) (f e)) y) :=
  foldl_keep (MapWaits R s) (fun s e => digLog s 7 cyc (1 + e) (f e)) (fun _ _ h => h) l h

/-- The background is written in the vision memory alone. -/
theorem foldl_background (p : List Nat × List (Nat × Nat) → Prop) [DecidablePred p] (off : Nat × Nat → Nat) (val : Nat × Nat → Bytes)
    (l : List (List Nat × List (Nat × Nat))) (s : State) :
    ∃ v, l.foldl (fun s b => if p b then b.2.foldl (fun s q => visPut s (off q) (val q)) s else s) s =
      { s with mem := { s.mem with vis := v } } := by
  refine foldl_keep (fun y => ∃ v, y = { s with mem := { s.mem with vis := v } }) _ ?_ l ⟨s.mem.vis, rfl⟩
  rintro y b hy
  split_ifs
  · refine foldl_keep (fun y => ∃ v, y = { s with mem := { s.mem with vis := v } }) _ ?_ b.2 hy
    rintro _ q ⟨v, rfl⟩
    exact ⟨_, rfl⟩
  · exact hy

theorem foldl_background_keeps (p : List Nat × List (Nat × Nat) → Prop) [DecidablePred p] (off : Nat × Nat → Nat) (val : Nat × Nat → Bytes)
    (l : List (List Nat × List (Nat × Nat))) (s : State) :
    let y := l.foldl (fun s b => if p b then b.2.foldl (fun s q => visPut s (off q) (val q)) s else s) s
    y.mem.sram = s.mem.sram ∧ y.saf = s.saf := by
  obtain ⟨v, h⟩ := foldl_background p off val l s
  rw [h]
  exact ⟨rfl, rfl⟩

theorem fixedGet_keeps (s : State) (unit : Nat) (word : Option Nat) (fa n : Nat) :
    (fixedGet s unit word fa n).1.lpe = s.lpe ∧ (fixedGet s unit word fa n).1.mem = s.mem ∧ (fixedGet s unit word fa n).1.saf = s.saf := by
  obtain ⟨t, f, h⟩ := fixedGet_frame s unit word fa n
  rw [h]
  exact ⟨rfl, rfl, rfl⟩

theorem presenceWord_map {s : State} (d : Nat) {x : Disp} {v : VFrame} (hv : visNewest s (bits x.payload 58 56) x.slot = some v)
    (hu : v.used = false) :
    MapWaits (fun m => m.ctx = bits x.payload 58 56 ∧ m.etc = v.etc ∧
      (m.valid = true ↔ (ctxAt s (bits x.payload 58 56)).bg = true ∧ v.bad = false)) s (presenceWord s d x) := by
  unfold presenceWord
  dsimp only
  rw [hv]
  dsimp only
  rw [if_neg (Bool.eq_false_iff.mp hu)]
  refine mapWaits_digest _ _ _ ⟨_, rfl, ⟨rfl, rfl, ?_⟩, (foldl_background_keeps _ _ _ _ _).1.trans ?_, (foldl_background_keeps _ _ _ _ _).2.trans ?_⟩
  · simp only [ctxAt, (fixedGet_keeps _ _ _ _ _).1]
    simp [doneDispAt]
  · rw [(fixedGet_keeps _ _ _ _ _).2.1]
    rfl
  · rw [(fixedGet_keeps _ _ _ _ _).2.2]
    rfl

/-! ### Packets (13 R341) -/

theorem csiPacket_off {s : State} {rx : Nat} (p : CsiPacket) (h : 2 ≤ rx ∨ domOn s (44 + rx) = false ∨ rxEn (lpeB s) rx = false) :
    csiPacket s rx p = s := by
  refine if_pos ?_
  rcases h with h | h | h
  · exact Or.inl h
  · exact Or.inr (Or.inl (by rw [h]; rfl))
  · exact Or.inr (Or.inr (by rw [h]; rfl))

theorem csiPacket_badHeader {s : State} {rx : Nat} {p : CsiPacket} (h : rx < 2) (hd : domOn s (44 + rx) = true)
    (he : rxEn (lpeB s) rx = true) (hp : p.hdr = 2) :
    csiPacket s rx p = { s with lpe := { s.lpe with
      rx := lmod (lmod s.lpe.rx rx fun y => { y with up := true }) rx fun y => { y with eccBad := min 255 (y.eccBad + 1) } } } := by
  unfold csiPacket
  rw [if_neg (by simp [h, hd, he])]
  exact if_pos hp

/-! ### The map at Aperture (13 R361, 14 R371, R377) -/

/-- What PRESENCE reads of an engine. -/
def seenEng (x : SafEng) : Bool × Nat × Nat × List (Nat × Nat) := (x.mapOk, x.mapEtc, x.mapOcc, x.lit)

theorem presenceZone_congr {s t : State} {e : Nat} (heng : seenEng (safEng t e) = seenEng (safEng s e)) (hltc : t.saf.ltc = s.saf.ltc)
    (hb : safB t = safB s) (hk : engKind t e = engKind s e) : presenceZone t e = presenceZone s e := by
  simp only [seenEng, Prod.mk.injEq] at heng
  obtain ⟨hok, hetc, hocc, hlit⟩ := heng
  unfold presenceZone mapFresh
  dsimp only
  simp only [hok, hetc, hocc, hlit, hltc, hb, hk]

/-- A trigger leaves of each engine what PRESENCE reads. -/
theorem seenEng_fire (s : State) (code tcode chan zone k : Nat) :
    seenEng (safEng (fire s code tcode chan zone) k) = seenEng (safEng s k) := by
  obtain ⟨eg, sv, q, i, h, hm⟩ := parkAll_eq (unqualify (let s := safLog s code tcode chan zone
    { s with saf := { s.saf with
      cause := if s.saf.dark then s.saf.cause else code
      dark := true, cnt := lmod s.saf.cnt code sat32, lastTrig := some s.clk.aclk } })) true
  have hseen : eg.map seenEng = s.saf.eng.map seenEng := by
    calc eg.map seenEng = (eg.map unparked).map seenEng := (List.map_map (f := unparked) (g := seenEng)).symm
      _ = (s.saf.eng.map fun x => unparked { x with qual := false, good := 0 }).map seenEng :=
        congrArg (List.map seenEng) (hm.trans List.map_map)
      _ = s.saf.eng.map seenEng := List.map_map
  have hget (l : List SafEng) : seenEng (lget l k {}) = lget (l.map seenEng) k (seenEng {}) := (lget_map seenEng l k _ _ rfl).symm
  unfold fire
  dsimp only at h ⊢
  rw [h]
  exact (hget eg).trans ((congrArg (lget · k _) hseen).trans (hget s.saf.eng).symm)

theorem presenceZone_fire (s : State) (code tcode chan zone k : Nat) : presenceZone (fire s code tcode chan zone) k = presenceZone s k := by
  obtain ⟨l, eg, sv, q, i, h, -⟩ := fire_eq s code tcode chan zone
  refine presenceZone_congr (seenEng_fire s code tcode chan zone k) ?_ ?_ ?_ <;> rw [h] <;> rfl

/-- One step of PRESENCE: engine `e`. -/
def presenceStep (s : State) (e : Nat) : State :=
  match presenceZone s e with | some z => fire s 5 0 (4 * e) z | none => s

theorem foldl_presence_none (l : List Nat) (s : State) (h : ∀ e ∈ l, presenceZone s e = none) : l.foldl presenceStep s = s := by
  induction l with
  | nil => rfl
  | cons e l ih =>
    have hstep : presenceStep s e = s := by
      unfold presenceStep
      rw [h e List.mem_cons_self]
    rw [List.foldl_cons, hstep]
    exact ih fun k hk => h k (List.mem_cons_of_mem _ hk)

/-- 14 R377: where PRESENCE holds on one engine alone, it fires once. -/
theorem presenceFire_one {s : State} {e z : Nat} (he : e < 4) (hz : presenceZone s e = some z)
    (hrest : ∀ k < 4, k ≠ e → presenceZone s k = none) : presenceFire s = fire s 5 0 (4 * e) z := by
  obtain ⟨a, b, hab⟩ := List.append_of_mem (List.mem_range.mpr he)
  have hnodup : (a ++ e :: b).Nodup := hab ▸ List.nodup_range
  have hlt : ∀ k ∈ a ++ e :: b, k < 4 := fun k hk => List.mem_range.mp (hab ▸ hk)
  have hstep : presenceStep s e = fire s 5 0 (4 * e) z := by
    unfold presenceStep
    rw [hz]
  have hbefore : a.foldl presenceStep s = s := foldl_presence_none a s fun k hk =>
    hrest k (hlt k (by simp [hk])) fun hke => (List.nodup_append.mp hnodup).2.2 k hk e List.mem_cons_self hke
  have hafter : b.foldl presenceStep (fire s 5 0 (4 * e) z) = fire s 5 0 (4 * e) z := foldl_presence_none b _ fun k hk =>
    (presenceZone_fire _ _ _ _ _ _).trans (hrest k (hlt k (by simp [hk])) fun hke =>
      (List.nodup_cons.mp (List.nodup_append.mp hnodup).2.1).1 (hke ▸ hk))
  change (List.range 4).foldl presenceStep s = _
  rw [hab, List.foldl_append, hbefore, List.foldl_cons, hstep, hafter]

theorem presenceFire_none {s : State} (h : ∀ e < 4, presenceZone s e = none) : presenceFire s = s :=
  foldl_presence_none (List.range 4) s fun e he => h e (List.mem_range.mp he)

/-- The map `m` has been handed to Aperture. -/
def mapTaken (s : State) (m : PMap) : State :=
  { s with
    lpe := { s.lpe with mapNext := none, mapWas := s.lpe.map, map := some m }
    saf := if m.valid then { s.saf with eng := s.saf.eng.zipIdx.map fun (y, e) =>
      { y with mapOk := true, mapEtc := m.etc, mapOcc := lget m.occ e 0 } } else s.saf }

section
variable {s : State} {d : Nat} {x : Disp} {m : PMap} (hx : s.tsq.disp[d]? = some x) (hk : x.kind = 6)
  (hop : bits x.payload 63 60 = 3) (hdone : x.done = true) (hend : x.endAt ≤ s.clk.cyc) (hfin : 256 * x.finish ≤ s.clk.cyc)
  (hm : s.lpe.mapNext = some m)
include hx hk hop hdone hend hfin hm

/-- 13 R361: at the FINISH of a PRESENCE word that is complete the map that waits is handed over, and a valid one may fire PRESENCE. -/
theorem handAct_taken : handAct d s = if m.valid then presenceFire (mapTaken s m) else mapTaken s m := by
  have htaken : mapHandoverNow s = mapTaken s m := by
    unfold mapHandoverNow mapTaken
    rw [hm]
    dsimp only
    cases m.valid <;> rfl
  unfold handAct
  rw [hx]
  dsimp only
  rw [if_pos ⟨hk, hop, by simp [doneBy, hdone, hend], hfin⟩]
  unfold mapHand
  rw [hm]
  dsimp only
  rw [htaken]

end

theorem handAct_missing {s : State} {d : Nat} (h : s.tsq.disp[d]? = none) : handAct d s = s := by
  unfold handAct
  rw [h]

/-! ### Frame records (13 R356) -/

theorem frameDoneNow_still {s : State} {c : Nat}
    (h : (ctxAt s c).fin = [] ∨ ∃ f rest, (ctxAt s c).fin = f :: rest ∧ frameWritten s c f.frame = false) : frameDoneNow s c = s := by
  unfold frameDoneNow
  rcases h with h | ⟨f, rest, h, hw⟩
  · rw [h]
  · rw [h]
    dsimp only
    rw [hw]
    rfl

theorem ctxAt_modCtx {s : State} {c : Nat} (f : LpeCtx → LpeCtx) (h : c < s.lpe.ctx.length) : ctxAt (modCtx s c f) c = f (ctxAt s c) :=
  lget_lmod_same s.lpe.ctx c f {} h

theorem frameDoneNow_written {s : State} {c : Nat} {f : PFrame} {rest : List PFrame} (hc : c < s.lpe.ctx.length)
    (h : (ctxAt s c).fin = f :: rest) (hw : frameWritten s c f.frame = true) :
    let b := frameDoneNow s c
    (ctxAt b c).fin = rest ∧ (ctxAt b c).count = min 0xFFFFFFFF ((ctxAt s c).count + 1) ∧
      lget (ctxAt b c).done 0 0 = f.frame ∧ lget (ctxAt b c).done 4 0 = f.etc % 2 ^ 32 ∧ b = { s with lpe := b.lpe } := by
  intro b
  have hb : ∃ g, b = modCtx s c g ∧ (g (ctxAt s c)).fin = rest ∧ (g (ctxAt s c)).count = min 0xFFFFFFFF ((ctxAt s c).count + 1) ∧
      lget (g (ctxAt s c)).done 0 0 = f.frame ∧ lget (g (ctxAt s c)).done 4 0 = f.etc % 2 ^ 32 := by
    unfold b frameDoneNow
    rw [h]
    dsimp only
    rw [hw]
    exact ⟨_, rfl, rfl, rfl, rfl, rfl⟩
  obtain ⟨g, hg, hrec⟩ := hb
  rw [hg, ctxAt_modCtx g hc]
  obtain ⟨h1, h2, h3, h4⟩ := hrec
  exact ⟨h1, h2, h3, h4, rfl⟩

/-- Settles O46: the first part is Loupe's words, the second packets, the handover of a map and the frames' records. -/
theorem cameras : Obligations.Cameras := by
  unfold Obligations.Cameras
  refine ⟨?_, ?_⟩
  · intro w d s x u c
    refine ⟨fun h hp => ?_, fun i t h hp ht => ?_, fun h => ?_, fun h hv => ?_, fun h v hv => ?_, fun h hv => ?_, fun h v hv hu => ?_⟩
    · exact cmdRun_eq (f := fun s => unitAct d 6 0 0x21 2 processWord s) ((unitAct_some _ h).trans (processWord_none (s := u) d hp))
    · exact cmdRun_eq (f := fun s => unitAct d 6 0 0x21 2 processWord s) ((unitAct_some _ h).trans (processWord_some (s := u) d hp ht))
    · obtain ⟨t, p, hword, hin⟩ := exposeWord_inner (doneDisp u d) x
      exact ⟨_, cmdRun_eq (f := actDisp d 6 1 0x21 2 exposeWord) ((actDisp_some _ h).trans hword), rfl, hin⟩
    · exact cmdRun_eq (f := fun s => unitAct d 6 2 0x21 2 metricWord s) ((unitAct_some _ h).trans (metricWord_none (s := u) d hv))
    · exact cmdRun_eq (f := fun s => unitAct d 6 2 0x21 2 metricWord s) ((unitAct_some _ h).trans (metricWord_some (s := u) d hv))
    · exact cmdRun_eq (f := fun s => unitAct d 6 3 0x21 2 presenceWord s) ((unitAct_some _ h).trans (presenceWord_idle (s := u) d hv))
    · obtain ⟨m, hm, ⟨hc, he, hval⟩, hsram, hsaf⟩ := presenceWord_map (s := u) d hv hu
      exact ⟨presenceWord u d x, m, cmdRun_eq (f := fun s => unitAct d 6 3 0x21 2 presenceWord s) (unitAct_some _ h), hm, hc, he, hval, hsram, hsaf⟩
  · intro w rx d c p s x u
    refine ⟨fun h => ?_, fun h hd he hp => ?_, fun hx hk hop hdone hend hfin m hm => ?_, fun h => ?_, fun h => ?_, fun f rest hc hf hw => ?_⟩
    · exact cmdRun_eq (f := fun s => csiPacket s rx p) (csiPacket_off (s := u) p ((advance_domOn w s _).symm ▸ h))
    · exact cmdRun_eq (f := fun s => csiPacket s rx p) (csiPacket_badHeader (s := u) h ((advance_domOn w s _).trans hd) he hp)
    · intro g
      have hand := handAct_taken (s := u) hx hk hop hdone hend hfin hm
      refine ⟨fun h => cmdRun_eq (f := handAct d) (hand.trans ?_), fun hv e z he hz hrest => cmdRun_eq (f := handAct d) (hand.trans ?_)⟩
      · cases hv : m.valid with
        | false => rfl
        | true => exact presenceFire_none (s := mapTaken u m) (h.resolve_left (by simp [hv]))
      · rw [hv]
        exact presenceFire_one (s := mapTaken u m) he hz hrest
    · exact cmdRun_eq (f := handAct d) (handAct_missing (s := u) h)
    · exact cmdRun_eq (f := fun s => frameDoneNow s c) (frameDoneNow_still (s := u) h)
    · exact ⟨_, cmdRun_eq (f := fun s => frameDoneNow s c) rfl, frameDoneNow_written (s := u) hc hf hw⟩

end Sys2Proof.Machine
end

section
/-! PROOF. The serial debug port (19 R497 to R506). -/

namespace Sys2Proof.Machine

/-! ### What a request meets first (19 R497, R508) -/

section
variable {s : State} {q : SdpReq} {mem : Bool}

theorem sdpCheck_badCrc (h : q.crcOk = false) : sdpCheck s q mem = some 2 := if_pos (by rw [h]; rfl)

theorem sdpCheck_locked (h : q.crcOk = true) (hl : dbgLock s = true) : sdpCheck s q mem = some 4 :=
  (if_neg (by rw [h]; decide)).trans (if_pos hl)

theorem sdpCheck_word (h : q.crcOk = true) (hl : dbgLock s = false) :
    sdpCheck s q true = if 1 ≤ q.cnt ∧ q.cnt ≤ 64 ∧ q.arg < 2 ^ 36 ∧ q.arg % 4 = 0 then none else some 3 := by
  unfold sdpCheck
  simp only [h, hl, Bool.not_true, Bool.false_eq_true, if_false, if_true]
  by_cases hr : 1 ≤ q.cnt ∧ q.cnt ≤ 64 ∧ q.arg < 2 ^ 36 ∧ q.arg % 4 = 0
  · rw [if_pos hr, decide_eq_true hr]
    rfl
  · rw [if_neg hr, decide_eq_false hr]
    rfl

theorem sdpCheck_plain (h : q.crcOk = true) (hl : dbgLock s = false) :
    sdpCheck s q false = if q.cnt = 0 ∧ q.arg = 0 then none else some 3 := by
  unfold sdpCheck
  simp only [h, hl, Bool.not_true, Bool.false_eq_true, if_false]
  by_cases hz : q.cnt = 0 ∧ q.arg = 0
  · simp [hz]
  · rw [if_neg hz]
    exact if_pos (by simpa using not_and_or.mp hz)

end

/-- A reply without data. -/
def sdpSaid (s : State) (res : Nat) : State :=
  { s with dbg := { s.dbg with
    reply := leBytes 1 res ++ leBytes 1 0 ++ leBytes 1 0xFF ++ [0] ++ leBytes 4 (crc32 (leBytes 1 res ++ leBytes 1 0 ++ leBytes 1 0xFF ++ [0])) } }

theorem sdpReply_nil (s : State) (res : Nat) : sdpReply s res 0 0xFF [] = sdpSaid s res := by
  unfold sdpReply
  rw [List.append_nil]
  rfl

theorem sdpReply_length (s : State) (res st i : Nat) (data : Bytes) : (sdpReply s res st i data).dbg.reply.length = data.length + 8 := by
  unfold sdpReply
  simp [leBytes]

section
variable {s : State} {q : SdpReq}

theorem debugMem_refused {r : Nat} (write forced : Bool) (h : sdpCheck s q true = some r) : debugMem s q write forced = sdpSaid s r := by
  unfold debugMem
  rw [h]
  exact sdpReply_nil s r

/-- 19 R498: a memory command finds domain 59 off. -/
theorem debugMem_off (write forced : Bool) (h : sdpCheck s q true = none) (hd : domOn s 59 = false) :
    debugMem s q write forced = sdpSaid s 5 := by
  unfold debugMem
  rw [h, hd]
  exact sdpReply_nil s 5

/-! ### IDENT, CONNECT, DISCONNECT and RESET (19 R497 to R499, R506) -/

theorem identNow_badCrc (h : q.crcOk = false) : identNow s q = sdpSaid s 2 := (if_pos (by rw [h]; rfl)).trans (sdpReply_nil s 2)

theorem identNow_ok (h : q.crcOk = true) (hc : q.cnt = 0) (ha : q.arg = 0) :
    identNow s q = sdpReply s 1 0 0xFF (leBytes 4 partId ++ leBytes 4 revId ++ leBytes 4 idCode ++ leBytes 4 (identWord s)) :=
  (if_neg (by rw [h]; decide)).trans (if_neg (by simp [hc, ha]))

theorem connectNow_refused {r : Nat} (h : sdpCheck s q false = some r) : connectNow s q = sdpSaid s r := by
  unfold connectNow
  rw [h]
  exact sdpReply_nil s r

theorem disconnectNow_refused {r : Nat} (h : sdpCheck s q false = some r) : disconnectNow s q = sdpSaid s r := by
  unfold disconnectNow
  rw [h]
  exact sdpReply_nil s r

theorem disconnectNow_ok (h : sdpCheck s q false = none) :
    disconnectNow s q = sdpReply (dbgEnd (tsqResume (hkpResume (bpClear s)))) 1 0 0xFF [] := by
  unfold disconnectNow
  rw [h]

/-- RESET resets the core. -/
def sdpReset (s : State) (q : SdpReq) : State :=
  match sdpCheck s q false with
  | some r => sdpReply s r 0 0xFF []
  | none => sdpReply (resetCore s 3) 1 0 0xFF []

theorem sdpReset_refused {r : Nat} (h : sdpCheck s q false = some r) : sdpReset s q = sdpSaid s r := by
  unfold sdpReset
  rw [h]
  exact sdpReply_nil s r

theorem sdpReset_ok (h : sdpCheck s q false = none) : sdpReset s q = sdpReply (resetCore s 3) 1 0 0xFF [] := by
  unfold sdpReset
  rw [h]

/-- 19 R499: with domain 59 on, and not held in safe-dark, CONNECT is answered at once. -/
theorem connectNow_on (h : sdpCheck s q false = none) (hd : domOn s 59 = true)
    (hu : hasSec s Ty.domains 0 = true → bitAt (domUsed s) 59 = true) (hdeep : s.pwr.deep = false) :
    ∃ b, connectNow s q = b ∧ b.dbg.conn = true ∧ b.dbg.connWait = false ∧ b = { s with dbg := b.dbg, pwr := b.pwr } := by
  have hready (y : State) (hw : y.dbg.connWait = true) (hon : domOn y 59 = true) :
      connectReady y = sdpReply { y with dbg := { y.dbg with conn := true, connWait := false } } 1 0 0xFF [] := if_pos ⟨hw, hon⟩
  have hon : domOn (cmdUp { s with dbg := { s.dbg with connWait := true } } 59) 59 = true := by
    unfold domOn at hd ⊢
    rw [(domAt_cmdUp _ 59 59).1]
    exact hd
  unfold connectNow
  rw [h]
  dsimp only
  simp only [hdeep, Bool.false_eq_true, false_and, if_false]
  rw [if_neg (fun hc => by simp [hu hc.1] at hc), hready _ rfl hon]
  exact ⟨_, rfl, rfl, rfl, rfl⟩

end

/-! ### The last word of a memory command (19 R498) -/

/-- The completion of the last word brings the reply. -/
theorem sdpWordDone_last {s : State} {x : Xfer} {m : SdpMem} (hm : s.dbg.mem = some m) (hi : m.i + 1 = m.cnt) (hb : m.bad = none) :
    let st := (x.inOrder.head?.map fun y => y.2.1).getD 0
    sdpWordDone s x = sdpReply { s with dbg := { s.dbg with mem := none } } (if st = 0 then 1 else 6) st (if st = 0 then 0xFF else m.i)
      (m.got ++ x.data) := by
  intro st
  unfold sdpWordDone
  rw [hm]
  dsimp only
  unfold sdpNext
  dsimp only
  rw [if_neg (by omega), hb]
  change (match (if (none : Option (Nat × Nat)).isNone = true ∧ st ≠ 0 then some (st, m.i) else none) with
    | some (st, i) => sdpReply _ 6 st i _ | none => _) = _
  by_cases hst : st = 0
  · simp [hst]
  · simp [hst]

/-! ### The commands of the port -/

/-- Each memory command is `debugMem`. -/
theorem exec_sdpMem {w : When} {q : SdpReq} {c : Instr} (h : c ∈ [Instr.memrd w q, .memwr w q, .memwrf w q]) :
    ∃ wr f, ∀ s, exec c s = cmdRun w (fun s => debugMem s q wr f) s := by
  simp only [List.mem_cons, List.not_mem_nil, or_false] at h
  rcases h with rfl | rfl | rfl
  · exact ⟨false, false, fun _ => rfl⟩
  · exact ⟨true, false, fun _ => rfl⟩
  · exact ⟨true, true, fun _ => rfl⟩

/-- A refused CONNECT, DISCONNECT or RESET only says why. -/
theorem exec_sdpPlain {w : When} {q : SdpReq} {c : Instr} {s : State} {r : Nat} (h : c ∈ [Instr.connect w q, .disconnect w q, .reset w q])
    (hr : sdpCheck (advance w s) q false = some r) : exec c s = .next (endCmd s (sdpSaid (advance w s) r)) := by
  simp only [List.mem_cons, List.not_mem_nil, or_false] at h
  rcases h with rfl | rfl | rfl
  · exact cmdRun_eq (f := fun s => connectNow s q) (connectNow_refused (s := advance w s) hr)
  · exact cmdRun_eq (f := fun s => disconnectNow s q) (disconnectNow_refused (s := advance w s) hr)
  · exact cmdRun_eq (f := fun s => sdpReset s q) (sdpReset_refused (s := advance w s) hr)

theorem exec_sdpMem_refused {w : When} {q : SdpReq} {c : Instr} {s : State} {r : Nat} (h : c ∈ [Instr.memrd w q, .memwr w q, .memwrf w q])
    (hr : sdpCheck (advance w s) q true = some r) : exec c s = .next (endCmd s (sdpSaid (advance w s) r)) := by
  obtain ⟨wr, f, hexec⟩ := exec_sdpMem h
  rw [hexec]
  exact cmdRun_eq (f := fun s => debugMem s q wr f) (debugMem_refused (s := advance w s) wr f hr)

end Sys2Proof.Machine
end

section
/-! PROOF. The words of the serial debug port's memory commands (19 R498, R505). -/

namespace Sys2Proof.Machine

/-! ### The demand of the fetch units rests on nothing in the debug block -/

theorem pathCols_dbg (s : State) (d : Dbg) (base n ptr k j : Nat) :
    pathCols { s with dbg := d } base n ptr k j = pathCols s base n ptr k j := by
  induction n generalizing ptr k j with
  | zero => rfl
  | succ n ih =>
    unfold pathCols
    simp only [ih]
    rfl

theorem urgency_dbg (s : State) (d : Dbg) (e : Nat) : urgency { s with dbg := d } e = urgency s e := by
  unfold urgency nextPiece
  simp only [pathCols_dbg]
  rfl

/-! ### A word on its way (19 R498) -/

/-- A memory command of one word. -/
def sdpOne (q : SdpReq) (write forced : Bool) : SdpMem :=
  { write := write, forced := forced, fa := q.arg, cnt := q.cnt, i := 0, data := q.data, bad := none, got := [] }

/-- The word has been asked for: a transfer of the port holds it. -/
def sdpAsked (s : State) (m : SdpMem) : State :=
  { s with
    dbg := { s.dbg with mem := some m }
    fab := { s.fab with xfers := [{ src := 1, job := .sdp, todo := [sdpWord m], sent := [], next := 0, got := [], bad := [] }] } }

/-- The state that has issued the word under TAG 0. -/
def sdpIssued (s : State) (m : SdpMem) : State :=
  outAdd { s with
    dbg := { s.dbg with mem := some m }
    fab := { s.fab with
      seq := s.fab.seq + 1
      xfers := [{ src := 1, job := .sdp, todo := [], sent := [(0, 0)], next := 1, got := [], bad := [] }] } } 1 0

/-- The packet of the word. -/
def sdpPkt (s : State) (m : SdpMem) : Pkt := mkPkt (takeSeq (sdpAsked s m)).2 (sdpWord m).req none [] m.forced s.fab.seq

theorem debugMem_word {s : State} {q : SdpReq} (write forced : Bool) (hx : s.fab.xfers = []) (h : sdpCheck s q true = none)
    (hd : domOn s 59 = true) (hc : q.cnt = 1) : debugMem s q write forced = sdpAsked s (sdpOne q write forced) := by
  unfold debugMem
  rw [h]
  dsimp only
  rw [hd, if_neg (by simp)]
  unfold sdpNext
  dsimp only
  rw [if_pos (by omega)]
  unfold xferAdd sdpAsked
  dsimp only
  rw [hx]
  rfl

/-! ### The word through the fabric (05 R127, R131) -/

section
variable {s : State} {m : SdpMem} (hd : domOn s 59 = true)
include hd

theorem portCut_debug : portCut s 1 = false := by
  have hon : (domAt s 59).phase = .on := by simpa [domOn] using hd
  unfold portCut
  rw [show portDom 1 = 59 from rfl, hon]

theorem sdpLost_asked : sdpLost (sdpAsked s m) = sdpAsked s m :=
  if_neg fun h => Bool.false_ne_true ((portCut_debug (s := sdpAsked s m) hd).symm.trans h.2)

theorem xferCut_asked : xferCut (sdpAsked s m) = sdpAsked s m := by
  refine if_neg ?_
  change ¬ (portCut (sdpAsked s m) 1 || false) = true
  rw [portCut_debug (s := sdpAsked s m) hd]
  decide

end

theorem fetchLevels_asked {s : State} (m : SdpMem) (h : FabricCalm s) : fetchLevels (sdpAsked s m) = sdpAsked s m := by
  obtain ⟨-, -, -, -, hcls⟩ := h
  have hsame (e : Nat) : urgency (sdpAsked s m) e = urgency s e :=
    (urgency_fab { s with dbg := { s.dbg with mem := some m } } (sdpAsked s m).fab e).trans (urgency_dbg s { s.dbg with mem := some m } e)
  have hask (e : Nat) (he : e < 4) : (psoAt (sdpAsked s m) e).cls =
      if (psoAt (sdpAsked s m) e).go = true ∨ (sdpAsked s m).boot.fallback = true then urgency (sdpAsked s m) e else 0 := by
    rw [hsame]
    exact hcls e he
  exact fetchLevels_calm (sdpAsked s m) hask

section
variable {s : State} {m : SdpMem}

theorem xferIssue_asked_other {src : Nat} (h : src ≠ 1) : xferIssue (sdpAsked s m) src = none := by
  have hdue : xferDue (sdpAsked s m) src = none := by
    unfold xferDue firstIdx
    simp [sdpAsked, h.symm]
  unfold xferIssue
  rw [hdue]
  split_ifs
  · rfl
  · cases freeTag (sdpAsked s m) src <;> rfl

variable (hmay : mayIssue s 1 = true) (htags : ∀ k, s.fab.tags.contains (1, k) = false) (he : pktEgress (sdpPkt s m) = none)
include hmay htags he

theorem xferIssue_asked : xferIssue (sdpAsked s m) 1 = some (holdPkt (sdpIssued s m) (sdpPkt s m)) := by
  have htag : freeTag (sdpAsked s m) 1 = some 0 := by
    unfold freeTag firstIdx
    rw [List.range_eq_range', List.range'_succ]
    exact List.find?_cons_of_pos (by rw [show (sdpAsked s m).fab.tags.contains (1, 0) = false from htags 0]; rfl)
  have hdue : xferDue (sdpAsked s m) 1 = some 0 := rfl
  unfold xferIssue
  rw [if_neg (by rw [show mayIssue (sdpAsked s m) 1 = true from hmay]; decide), htag, hdue]
  change some (if (pktEgress (sdpPkt s m)).isSome then submitPkt (sdpIssued s m) (sdpPkt s m) else holdPkt (sdpIssued s m) (sdpPkt s m)) = _
  rw [he]
  rfl

theorem pumpXfers_asked (hd : domOn s 59 = true) : pumpXfers (sdpAsked s m) = holdPkt (sdpIssued s m) (sdpPkt s m) := by
  have hfirst : (List.range 25).findSome? (xferIssue (sdpAsked s m)) = some (holdPkt (sdpIssued s m) (sdpPkt s m)) := by
    rw [show List.range 25 = 0 :: 1 :: List.range' 2 23 from rfl, List.findSome?_cons, xferIssue_asked_other (by decide),
      List.findSome?_cons, xferIssue_asked hmay htags he]
  unfold pumpXfers
  dsimp only
  rw [xferCut_asked hd, show xferLeft (sdpAsked s m) = 1 from rfl]
  unfold xferPump
  rw [hfirst]
  rfl

/-- The one word that is asked for is performed at once. -/
theorem pumpFabric_asked (hd : domOn s 59 = true) (hcalm : FabricCalm s)
    (hh : (performPkt (sdpIssued s m) (sdpPkt s m)).fab.held = []) : pumpFabric (sdpAsked s m) = performPkt (sdpIssued s m) (sdpPkt s m) := by
  have hheld : (holdPkt (sdpIssued s m) (sdpPkt s m)).fab.held.length = 1 := by
    rw [holdPkt_held, show (sdpIssued s m).fab.held = [] from hcalm.1]
    rfl
  unfold pumpFabric
  rw [sdpLost_asked hd, fetchLevels_asked m hcalm, pumpXfers_asked hmay htags he hd]
  dsimp only
  rw [hheld]
  exact pumpHeld_one (sdpIssued s m) (sdpPkt s m) hcalm.1 he hh

end

/-- The queue is as the command found it. -/
theorem Followed.pending {b t : State} (h : Followed b t) (p : List Instr) : Followed b { t with pending := p } :=
  ⟨h.fab, h.fabCalm, h.mem, h.pwr, h.rw, h.tsq⟩

/-- The end of a command leaves the debug block as the fabric left it. -/
theorem lenStep_dbg (b : State) : (lenStep (wdoutRelease (forwardAll b))).dbg = b.dbg := by
  obtain ⟨dr, cl, ca, eg, l, q, i, h, -⟩ := lenStep_eq (wdoutRelease (forwardAll b))
  obtain ⟨tw, x, hf⟩ := forwardAll_eq b
  rw [h, wdoutRelease_eq, hf]

/-! ### The word's packet -/

section
variable (s : State) {q : SdpReq} (write forced : Bool) (hlo : 0x10000000 ≤ q.arg) (hhi : q.arg + 4 ≤ 0x10800000) (hal : q.arg % 4 = 0)

theorem sdpWord_kind : (sdpWord (sdpOne q write forced)).req.kind ≠ .msg := by
  cases write <;> exact nofun

include hlo hhi hal

theorem sdpWord_decodes (s : State) :
    decodeFa s (sdpWord (sdpOne q write forced)).req.fa (sdpWord (sdpOne q write forced)).req.flen = .sram (q.arg - 0x10000000) :=
  decodeFa_sram s q.arg 4 hlo hhi (by omega)

theorem sdpPkt_tgt : (sdpPkt s (sdpOne q write forced)).tgt = .sram (q.arg - 0x10000000) :=
  issuedPkt_tgt (sdpWord_kind write forced) (sdpWord_decodes write forced hlo hhi hal (takeSeq (sdpAsked s (sdpOne q write forced))).2)

theorem sdpPkt_req : (sdpPkt s (sdpOne q write forced)).req =
    { (sdpWord (sdpOne q write forced)).req with dst := targetPort s (.sram (q.arg - 0x10000000)) } := by
  have hdec := sdpWord_decodes write forced hlo hhi hal (takeSeq (sdpAsked s (sdpOne q write forced))).2
  generalize q.arg - 0x10000000 = off at hdec ⊢
  exact issuedPkt_req (sdpWord_kind write forced) hdec

theorem sdpPkt_doms : (sdpPkt s (sdpOne q write forced)).doms = [sramDom (q.arg - 0x10000000)] := by
  refine (issuedPkt_doms (sdpWord_kind write forced)
    (sdpWord_decodes write forced hlo hhi hal (takeSeq (sdpAsked s (sdpOne q write forced))).2)).trans (if_pos ?_)
  change sramDom (q.arg - 0x10000000) = sramDom (q.arg - 0x10000000 + 4 - 1)
  unfold sramDom
  omega

theorem sdpPkt_unqueued : pktEgress (sdpPkt s (sdpOne q write forced)) = none :=
  issuedPkt_unqueued (sdpWord_kind write forced) (sdpWord_decodes write forced hlo hhi hal (takeSeq (sdpAsked s (sdpOne q write forced))).2)
    nofun nofun

end

/-! ### What the word brings -/

/-- The port has one word's response on its way, with its status and data, and has not replied yet. -/
def SdpAnswered (s t : State) (status : Nat) (data : Bytes) : Prop :=
  ∃ r, t.fab.rsp = s.fab.rsp ++ [r] ∧ r.src = 1 ∧ r.status = status ∧ r.data = data ∧ t.dbg.mem.isSome = true ∧ t.dbg.reply = s.dbg.reply

theorem sdpAnswered_intro {s t : State} {r : Rsp} {m : SdpMem} {status : Nat} {data : Bytes} (hrsp : t.fab.rsp = s.fab.rsp ++ [r])
    (hsrc : r.src = 1) (hst : r.status = status) (hdata : r.data = data) (hdbg : t.dbg = { s.dbg with mem := some m }) :
    SdpAnswered s t status data :=
  ⟨r, hrsp, hsrc, hst, hdata, by rw [hdbg]; rfl, by rw [hdbg]⟩

theorem ok_data (q : Req) (data : Bytes) : (if data.isEmpty then errData q 0 else data) = data := by
  rw [errData_ok]
  exact ite_eq_right_iff.mpr fun h => (List.isEmpty_iff.mp h).symm

theorem errData_published (q : Req) : errData q 3 = [] := by
  unfold errData
  split <;> rfl

/-- A byte of a word that has landed at `off`. -/
theorem sramByte_landed {s t : State} {off : Nat} {word : Bytes}
    (h : ∀ a, sramByte t a = if off ≤ a ∧ a < off + 4 then word.getD (a - off) 0 else sramByte s a) {i : Nat} (hi : i < 4) :
    sramByte t (off + i) = word.getD i 0 := by
  rw [h, if_pos ⟨Nat.le_add_right _ _, Nat.add_lt_add_left hi _⟩, Nat.add_sub_cancel_left]

/-- The state in which SRAM meets the word of a write. -/
def sdpAt (w : When) (s : State) (q : SdpReq) (forced : Bool) : State :=
  moveGrant (sdpIssued (advance w s) (sdpOne q true forced)) (sdpPkt (advance w s) (sdpOne q true forced))

theorem publishedIn_sdpAt (w : When) (s : State) (q : SdpReq) (forced : Bool) (a n : Nat) :
    publishedIn (sdpAt w s q forced) a n = publishedIn s a n := rfl

theorem inExtraMirror_sdpAt (w : When) (s : State) (q : SdpReq) (forced : Bool) (a n : Nat) :
    inExtraMirror (sdpAt w s q forced) a n = inExtraMirror s a n := rfl

/-- 19 R505: a forced write is not refused; on state that the schedule owns it degrades the tick. -/
theorem perform_sramForced {s : State} {p : Pkt} {off : Nat} (ht : p.tgt = .sram off) (hk : p.req.kind = .write) (hf : p.forced = true) :
    perform s p = (noteWrite (sramPut (if publishedIn s (0x10000000 + off) p.req.flen || inExtraMirror s (0x10000000 + off) p.req.flen
      then degrade s 4 else s) off (wrData p.req)) (0x10000000 + off) (wrData p.req) false, 0, []) := by
  unfold perform memWriteAt forcedMark barred writeExtent
  simp only [ht, hk, hf, targetFa, memSet]
  cases publishedIn s (0x10000000 + off) p.req.flen <;> rfl

section
variable {w : When} {q : SdpReq} {s : State} (hal : q.arg % 4 = 0) (hlo : 0x10000000 ≤ q.arg) (hhi : q.arg + 4 ≤ 0x10800000)
include hal hlo hhi

/-- What SRAM makes of a plain write. -/
theorem perform_memwr : perform (sdpAt w s q false) (sdpPkt (advance w s) (sdpOne q true false)) =
    if publishedIn s q.arg 4 then (sdpAt w s q false, 3, [])
    else (noteWrite (sramPut (sdpAt w s q false) (q.arg - 0x10000000) (leBytes 4 (q.data.getD 0 0).toNat))
      (0x10000000 + (q.arg - 0x10000000)) (leBytes 4 (q.data.getD 0 0).toNat) false, 0, []) := by
  have hreq := sdpPkt_req (advance w s) true false hlo hhi hal
  have hlen : (sdpPkt (advance w s) (sdpOne q true false)).req.flen = 4 := congrArg Req.flen hreq
  have hdata : wrData (sdpPkt (advance w s) (sdpOne q true false)).req = leBytes 4 (q.data.getD 0 0).toNat := congrArg wrData hreq
  rw [perform_sramWrite (sdpPkt_tgt (advance w s) true false hlo hhi hal) (congrArg Req.kind hreq) rfl, hlen, hdata, publishedIn_sdpAt,
    show 0x10000000 + (q.arg - 0x10000000) = q.arg by omega]

/-- What SRAM makes of a forced write. -/
theorem perform_memwrf : perform (sdpAt w s q true) (sdpPkt (advance w s) (sdpOne q true true)) =
    (noteWrite (sramPut (if publishedIn s q.arg 4 || inExtraMirror s q.arg 4 then degrade (sdpAt w s q true) 4 else sdpAt w s q true)
      (q.arg - 0x10000000) (leBytes 4 (q.data.getD 0 0).toNat))
      (0x10000000 + (q.arg - 0x10000000)) (leBytes 4 (q.data.getD 0 0).toNat) false, 0, []) := by
  have hreq := sdpPkt_req (advance w s) true true hlo hhi hal
  have hlen : (sdpPkt (advance w s) (sdpOne q true true)).req.flen = 4 := congrArg Req.flen hreq
  have hdata : wrData (sdpPkt (advance w s) (sdpOne q true true)).req = leBytes 4 (q.data.getD 0 0).toNat := congrArg wrData hreq
  rw [perform_sramForced (sdpPkt_tgt (advance w s) true true hlo hhi hal) (congrArg Req.kind hreq) rfl, hlen, hdata, publishedIn_sdpAt,
    inExtraMirror_sdpAt, show 0x10000000 + (q.arg - 0x10000000) = q.arg by omega]

end

section
variable {w : When} {q : SdpReq} {s : State} (hcrc : q.crcOk = true) (hlock : dbgLock s = false) (hcnt : q.cnt = 1) (hal : q.arg % 4 = 0)
  (hlo : 0x10000000 ≤ q.arg) (hhi : q.arg + 4 ≤ 0x10800000) (hd : domOn s 59 = true)
  (hbank : domOn s (sramDom (q.arg - 0x10000000)) = true) (hcalm : FabricCalm (advance w s)) (hmay : mayIssue (advance w s) 1 = true)
  (htags : ∀ k, s.fab.tags.contains (1, k) = false)
include hcrc hlock hcnt hal hlo hhi hd hbank hcalm hmay htags

/-- What SRAM makes of the word is what is answered. -/
theorem exec_sdpWord {write forced : Bool} {c : Instr} (hexec : exec c s = cmdRun w (fun s => debugMem s q write forced) s)
    {b : State} {st : Nat} {data : Bytes}
    (hp : perform (moveGrant (sdpIssued (advance w s) (sdpOne q write forced)) (sdpPkt (advance w s) (sdpOne q write forced)))
      (sdpPkt (advance w s) (sdpOne q write forced)) = (b, st, data))
    (hb : b.fab = (moveGrant (sdpIssued (advance w s) (sdpOne q write forced)) (sdpPkt (advance w s) (sdpOne q write forced))).fab)
    (hdbg : b.dbg = { s.dbg with mem := some (sdpOne q write forced) }) (hne : st ≠ 0 → data = []) :
    ∃ t r, exec c s = .next t ∧ Followed (withRsp b r) t ∧ t.fab.rsp = s.fab.rsp ++ [r] ∧
      t.dbg = { s.dbg with mem := some (sdpOne q write forced) } ∧ r.src = 1 ∧ r.status = st ∧
      r.data = if data.isEmpty then errData (sdpPkt (advance w s) (sdpOne q write forced)).req st else data := by
  obtain ⟨r, hr, ⟨hsrc, -, -, hst⟩, hdata⟩ := answer_withRsp b (sdpPkt (advance w s) (sdpOne q write forced)).req
    (sdpPkt (advance w s) (sdpOne q write forced)).seq st data []
  have hreq := sdpPkt_req (advance w s) write forced hlo hhi hal
  have hdoms : ∀ d ∈ (sdpPkt (advance w s) (sdpOne q write forced)).doms, domOn (sdpIssued (advance w s) (sdpOne q write forced)) d = true := by
    intro d hmem
    rw [sdpPkt_doms _ write forced hlo hhi hal, List.mem_singleton] at hmem
    rw [hmem]
    exact (advance_domOn w s _).trans hbank
  have hanswer : performPkt (sdpIssued (advance w s) (sdpOne q write forced)) (sdpPkt (advance w s) (sdpOne q write forced)) = withRsp b r := by
    rw [← hr, performPkt_answered (by simp [sdpPkt_tgt _ write forced hlo hhi hal]) hdoms hp, ite_eq_left_iff.mpr fun h => (hne h).symm]
    rw [hb, hreq]
    exact List.elem_cons_self
  have hheld : (withRsp b r).fab.held = [] := (congrArg Fab.held hb).trans hcalm.1
  have hpump := pumpFabric_asked hmay htags (sdpPkt_unqueued (advance w s) write forced hlo hhi hal) ((advance_domOn w s 59).trans hd) hcalm
    (hanswer ▸ hheld)
  have hasked : debugMem (advance w s) q write forced = sdpAsked (advance w s) (sdpOne q write forced) :=
    debugMem_word write forced hcalm.2.1 ((sdpCheck_word (s := advance w s) hcrc hlock).trans (if_pos (by omega)))
      ((advance_domOn w s 59).trans hd) hcnt
  have hrun : exec c s = .next (endCmd s (sdpAsked (advance w s) (sdpOne q write forced))) :=
    hexec.trans (cmdRun_eq (f := fun s => debugMem s q write forced) hasked)
  have hend : endCmd s (sdpAsked (advance w s) (sdpOne q write forced)) =
      { lenStep (wdoutRelease (forwardAll (withRsp b r))) with pending := s.pending } := by
    unfold endCmd finish
    rw [hpump, hanswer]
  have hsrc' : r.src = 1 := hsrc.trans (congrArg Req.src hreq)
  have hfol := lenStep_followed (withRsp b r)
  have hdebug := (lenStep_dbg (withRsp b r)).trans hdbg
  generalize lenStep (wdoutRelease (forwardAll (withRsp b r))) = y at hend hfol hdebug
  obtain ⟨x, hfab⟩ := hfol.fab
  refine ⟨{ y with pending := s.pending }, r, hrun.trans (congrArg Host.Outcome.next hend), hfol.pending _, (congrArg Fab.rsp hfab).trans ?_, hdebug,
    hsrc', hst, hdata⟩
  exact congrArg (fun f => f.rsp ++ [r]) hb

/-- A read is answered with the word's bytes, and changes no memory. -/
theorem exec_memrd : ∃ t, exec (.memrd w q) s = .next t ∧ SdpAnswered s t 0 (readRun (sramByte s) (q.arg - 0x10000000) 4) ∧
    t.mem = s.mem ∧ t.tsq = s.tsq := by
  have hp := perform_sramRead (s := moveGrant (sdpIssued (advance w s) (sdpOne q false false)) (sdpPkt (advance w s) (sdpOne q false false)))
    (sdpPkt_tgt (advance w s) false false hlo hhi hal) (congrArg Req.kind (sdpPkt_req (advance w s) false false hlo hhi hal))
  obtain ⟨t, r, he, hfol, hrsp, hdbg, hsrc, hst, hdata⟩ :=
    exec_sdpWord hcrc hlock hcnt hal hlo hhi hd hbank hcalm hmay htags (c := .memrd w q) rfl hp rfl rfl (fun h => absurd rfl h)
  have hlen : (sdpPkt (advance w s) (sdpOne q false false)).req.flen = 4 :=
    congrArg Req.flen (sdpPkt_req (advance w s) false false hlo hhi hal)
  rw [ok_data, hlen] at hdata
  exact ⟨t, he, sdpAnswered_intro hrsp hsrc hst hdata hdbg, hfol.mem, hfol.tsq⟩

/-- A word that SRAM takes lands there (05 R123). -/
theorem exec_sdpWrite {forced : Bool} {c : Instr} (hexec : exec c s = cmdRun w (fun s => debugMem s q true forced) s) {ts : Tsq}
    (hp : perform (sdpAt w s q forced) (sdpPkt (advance w s) (sdpOne q true forced)) =
      (noteWrite (sramPut { sdpAt w s q forced with tsq := ts } (q.arg - 0x10000000) (leBytes 4 (q.data.getD 0 0).toNat))
        (0x10000000 + (q.arg - 0x10000000)) (leBytes 4 (q.data.getD 0 0).toNat) false, 0, [])) :
    ∃ t, exec c s = .next t ∧ SdpAnswered s t 0 [] ∧ t.tsq = ts ∧
      ∀ a, sramByte t a = if q.arg - 0x10000000 ≤ a ∧ a < q.arg - 0x10000000 + 4
        then (leBytes 4 (q.data.getD 0 0).toNat).getD (a - (q.arg - 0x10000000)) 0 else sramByte s a := by
  obtain ⟨tw, htw⟩ := noteWrite_twn (sramPut { sdpAt w s q forced with tsq := ts } (q.arg - 0x10000000) (leBytes 4 (q.data.getD 0 0).toNat))
    (0x10000000 + (q.arg - 0x10000000)) (leBytes 4 (q.data.getD 0 0).toNat) false
  rw [htw] at hp
  obtain ⟨t, r, he, hfol, hrsp, hdbg, hsrc, hst, hdata⟩ :=
    exec_sdpWord hcrc hlock hcnt hal hlo hhi hd hbank hcalm hmay htags hexec hp rfl rfl (fun h => absurd rfl h)
  rw [ok_data] at hdata
  have hmem : t.mem = (sramPut s (q.arg - 0x10000000) (leBytes 4 (q.data.getD 0 0).toNat)).mem := hfol.mem
  have hgen : t.pwr.memGen = s.pwr.memGen := (congrArg Pwr.memGen hfol.pwr).trans rfl
  refine ⟨t, he, sdpAnswered_intro hrsp hsrc hst hdata hdbg, hfol.tsq, fun a => ?_⟩
  exact sramByte_put hmem hgen a

/-- A plain write that meets a published buffer is refused (02 R51). -/
theorem exec_memwr_published (hpub : publishedIn s q.arg 4 = true) :
    ∃ t, exec (.memwr w q) s = .next t ∧ SdpAnswered s t 3 [] ∧ t.mem = s.mem ∧ t.tsq = s.tsq := by
  have hp := perform_memwr (w := w) (s := s) hal hlo hhi
  rw [if_pos hpub] at hp
  obtain ⟨t, r, he, hfol, hrsp, hdbg, hsrc, hst, hdata⟩ :=
    exec_sdpWord hcrc hlock hcnt hal hlo hhi hd hbank hcalm hmay htags (c := .memwr w q) rfl hp rfl rfl (fun _ => rfl)
  rw [errData_published] at hdata
  exact ⟨t, he, sdpAnswered_intro hrsp hsrc hst hdata hdbg, hfol.mem, hfol.tsq⟩

end

/-- Settles O57: packets by what the port meets first, words by what SRAM makes of them, and the reply after the last word. -/
theorem serialDebug : Obligations.SerialDebug := by
  unfold Obligations.SerialDebug
  refine ⟨?_, ?_, ?_⟩
  · intro w q n s u said mem plain
    refine ⟨fun h c hc => ?_, fun h hl c hc => ?_, fun h hl hbad c hc => ?_, fun h hl hbad c hc => ?_, fun h hl h1 h2 h3 h4 hd c hc => ?_,
      fun h hc ha => ?_, fun h hl hc ha hd hu hdeep _ => ?_, fun h hl hc ha => ?_, ?_, ?_⟩
    · rcases List.mem_cons.mp hc with rfl | hc
      · exact cmdRun_eq (f := fun s => identNow s q) (identNow_badCrc (s := u) h)
      · rcases List.mem_append.mp hc with hc | hc
        · exact exec_sdpMem_refused hc (sdpCheck_badCrc h)
        · exact exec_sdpPlain hc (sdpCheck_badCrc h)
    · rcases List.mem_append.mp hc with hc | hc
      · exact exec_sdpMem_refused hc (sdpCheck_locked h hl)
      · exact exec_sdpPlain hc (sdpCheck_locked h hl)
    · exact exec_sdpPlain hc ((sdpCheck_plain (s := u) h hl).trans (if_neg (by omega)))
    · exact exec_sdpMem_refused hc ((sdpCheck_word (s := u) h hl).trans (if_neg (by omega)))
    · obtain ⟨wr, f, hexec⟩ := exec_sdpMem hc
      rw [hexec]
      exact cmdRun_eq (f := fun s => debugMem s q wr f)
        (debugMem_off (s := u) wr f ((sdpCheck_word (s := u) h hl).trans (if_pos ⟨h1, h2, h4, h3⟩)) ((advance_domOn w s 59).trans hd))
    · exact ⟨_, cmdRun_eq (f := fun s => identNow s q) (identNow_ok (s := u) h hc ha), rfl, sdpReply_length _ _ _ _ _, rfl⟩
    · obtain ⟨b, hb, hconn, hwait, hframe⟩ := connectNow_on (s := u) ((sdpCheck_plain (s := u) h hl).trans (if_pos ⟨hc, ha⟩))
        ((advance_domOn w s 59).trans hd) hu hdeep
      exact ⟨b, cmdRun_eq (f := fun s => connectNow s q) hb, hconn, hwait, hframe⟩
    · have hok : sdpCheck u q false = none := (sdpCheck_plain (s := u) h hl).trans (if_pos ⟨hc, ha⟩)
      obtain ⟨hcause, -, hstep, -, -, -, -, -, -, hdark, -⟩ := resetCore_restarted u 3
      exact ⟨⟨_, cmdRun_eq (f := fun s => disconnectNow s q) (disconnectNow_ok (s := u) hok), rfl, rfl, rfl, rfl, rfl, rfl⟩,
        ⟨_, cmdRun_eq (f := fun s => sdpReset s q) (sdpReset_ok (s := u) hok), hcause, hstep, hdark⟩⟩
    · exact cmdRun_eq (f := fun s => if 64 ≤ n then dbgEnd s else s) rfl
    · refine cmdRun_eq (f := fun s => if s.dbg.connWait then sdpReply { s with dbg := { s.dbg with connWait := false } } 5 0 0xFF [] else s) ?_
      exact if_congr Iff.rfl (sdpReply_nil _ 5) rfl
  · intro w q s hcrc hlock hcnt hal hlo hhi hd hbank u off word answered hcalm hmay htags
    have hwrite (forced : Bool) := @exec_sdpWrite w q s hcrc hlock hcnt hal hlo hhi hd hbank hcalm hmay htags forced
    refine ⟨exec_memrd hcrc hlock hcnt hal hlo hhi hd hbank hcalm hmay htags, fun hpub => ?_, fun hpub => ?_, fun hown => ?_, fun hpub hmir => ?_⟩
    · have hp := perform_memwr (w := w) (s := s) hal hlo hhi
      rw [if_neg (Bool.eq_false_iff.mp hpub)] at hp
      obtain ⟨t, he, hans, htsq, hbyte⟩ := hwrite false (c := .memwr w q) rfl (ts := s.tsq) hp
      exact ⟨t, he, hans, fun i hi => sramByte_landed hbyte hi, fun a ha => (hbyte a).trans (if_neg (by omega)), htsq⟩
    · exact exec_memwr_published hcrc hlock hcnt hal hlo hhi hd hbank hcalm hmay htags hpub
    · have hp := perform_memwrf (w := w) (s := s) hal hlo hhi
      rw [if_pos (by simpa using hown)] at hp
      obtain ⟨t, he, hans, htsq, hbyte⟩ := hwrite true (c := .memwrf w q) rfl (ts := (degrade (sdpAt w s q true) 4).tsq) hp
      refine ⟨t, he, hans, ?_, fun i hi => sramByte_landed hbyte hi⟩
      rw [htsq]
      exact (bitAt_setBit _ 4 4 true).trans (if_pos rfl)
    · have hp := perform_memwrf (w := w) (s := s) hal hlo hhi
      rw [hpub, hmir, if_neg (by decide)] at hp
      obtain ⟨t, he, hans, htsq, hbyte⟩ := hwrite true (c := .memwrf w q) rfl (ts := s.tsq) hp
      exact ⟨t, he, hans, htsq, fun i hi => sramByte_landed hbyte hi⟩
  · intro s x m hjob hm hi hb st head body
    have hdone : jobDone s x = sdpWordDone s x := by
      unfold jobDone
      rw [hjob]
    exact hdone.trans (sdpWordDone_last hm hi hb)

end Sys2Proof.Machine
end
